-- ==== Sys2Proof/Word.lean ====
section
/-! DEFINITION. The words, bytes, register names and operand forms of the GS-KX9, the records that
arrive from outside, and the plainest bit arithmetic (00_scope R2, 02_encoding R32-R40). -/

namespace Sys2Proof

/-- A 64-bit register or memory word. -/
abbrev Word := BitVec 64
/-- One byte of memory. -/
abbrev Byte := BitVec 8
/-- A vector register of 1,024 bits (R70, R72). -/
abbrev Vec := BitVec 1024

/-- x0-x15 (R34). -/
abbrev XReg := Fin 16
/-- p0-p7 (R34). -/
abbrev PReg := Fin 8
/-- m0-m7 (R34). -/
abbrev MReg := Fin 8
/-- v0-v63 (R34). -/
abbrev VReg := Fin 64
/-- Tile handles t0-t63 (R34). -/
abbrev TileH := Fin 64
/-- Weight slots ws0-ws3 (R34). -/
abbrev WSlot := Fin 4
/-- Mailboxes 0-15 of a core (R34). -/
abbrev Mbox := Fin 16
/-- Words k0-k255 of the constant window (R35, R39). -/
abbrev KIdx := Fin 256
/-- Scale-up ports 0-15 (R12, R81). -/
abbrev Port := Fin 16
/-- Compute dies CD0-CD7 (R9). -/
abbrev DieId := Fin 8
/-- Package-wide core ids 0-1023 (R10). -/
abbrev CoreId := Fin 1024
/-- Slots 0-15 of a core (R21). -/
abbrev SlotId := Fin 16
/-- Partitions 0-7 (R303). -/
abbrev Part := Fin 8
/-- Clusters 0-15 of a die (R10). -/
abbrev ClusterId := Fin 16
/-- Command rings 0-1023 (R252). -/
abbrev RingId := Fin 1024
/-- Active slots 0-31 of the command front end (R251). -/
abbrev ActiveId := Fin 32
/-- Landing zones 0-7 of a core (R248). -/
abbrev ZoneId := Fin 8

/-- Operand b of formats A and P (R35). -/
inductive OpB where
  | reg (x : XReg)
  | k (n : KIdx)
  deriving DecidableEq, Repr

/-- The four address forms of format M (R36). -/
inductive MemForm where
  | off (xa : XReg) (o : BitVec 14)
  | post (xa : XReg) (o : BitVec 14)
  | idx (xa xi : XReg)
  | kAddr (n : KIdx)
  deriving DecidableEq, Repr

/-- The access sizes that sz selects (R37). -/
inductive Size where
  | b | h | w | d
  deriving DecidableEq, Repr

/-- The code of sz. -/
def Size.code : Size → Nat
  | .b => 0 | .h => 1 | .w => 2 | .d => 3
/-- The size of a code of sz. -/
def Size.ofCode : Nat → Size
  | 0 => .b | 1 => .h | 2 => .w | _ => .d
/-- The size in bytes. -/
def Size.bytes (z : Size) : Nat := 2 ^ z.code

/-- The two sizes of `amo` and `cas` (R180, R182). -/
inductive WordSize where
  | w | d
  deriving DecidableEq, Repr

/-- The size bit. -/
def WordSize.code : WordSize → Nat
  | .w => 0 | .d => 1
/-- The size of a size bit. -/
def WordSize.ofCode : Nat → WordSize
  | 0 => .w | _ => .d
/-- The size in bytes. -/
def WordSize.bytes : WordSize → Nat
  | .w => 4 | .d => 8

/-- The formats of VH (R121). -/
inductive HalfFmt where
  | f16 | bf16
  deriving DecidableEq, Repr

/-- The code of a VH format. -/
def HalfFmt.code : HalfFmt → Nat
  | .f16 => 0 | .bf16 => 1
/-- The VH format of a code. -/
def HalfFmt.ofCode : Nat → HalfFmt
  | 0 => .f16 | _ => .bf16

/-- The formats of VD (R122). -/
inductive DoubleFmt where
  | f64 | i64
  deriving DecidableEq, Repr

/-- The code of a VD format. -/
def DoubleFmt.code : DoubleFmt → Nat
  | .f64 => 0 | .i64 => 1
/-- The VD format of a code. -/
def DoubleFmt.ofCode : Nat → DoubleFmt
  | 0 => .f64 | _ => .i64

/-- The formats of VFMA (R123). -/
inductive FmaFmt where
  | f32 | f16 | bf16 | f64
  deriving DecidableEq, Repr

/-- The code of a VFMA format. -/
def FmaFmt.code : FmaFmt → Nat
  | .f32 => 0 | .f16 => 1 | .bf16 => 2 | .f64 => 3
/-- The VFMA format of a code. -/
def FmaFmt.ofCode : Nat → FmaFmt
  | 0 => .f32 | 1 => .f16 | 2 => .bf16 | _ => .f64

/-- The types of VCMP (R124). -/
inductive CmpFmt where
  | i32 | f32 | f16 | f64
  deriving DecidableEq, Repr

/-- The code of a VCMP type. -/
def CmpFmt.code : CmpFmt → Nat
  | .i32 => 0 | .f32 => 1 | .f16 => 2 | .f64 => 3
/-- The VCMP type of a code. -/
def CmpFmt.ofCode : Nat → CmpFmt
  | 0 => .i32 | 1 => .f32 | 2 => .f16 | _ => .f64

/-- The lane widths of `vbcast`, `vextr` and `vins` (R126). -/
inductive LaneWidth where
  | w | d | h
  deriving DecidableEq, Repr

/-- The code of a lane width. -/
def LaneWidth.code : LaneWidth → Nat
  | .w => 0 | .d => 1 | .h => 2
/-- Lanes of the width in a vector register (R72). -/
def LaneWidth.lanes : LaneWidth → Nat
  | .w => 32 | .d => 16 | .h => 64
/-- Bits of a lane of the width. -/
def LaneWidth.bits : LaneWidth → Nat
  | .w => 32 | .d => 64 | .h => 16

/-- The PS block formats (R92). -/
inductive PsFmt where
  | ps2 | ps4 | ps7
  deriving DecidableEq, Repr

/-- The format code of `vunpk`, `vpack` and `baddq` (R126). -/
def PsFmt.code : PsFmt → Nat
  | .ps2 => 0 | .ps4 => 1 | .ps7 => 2
/-- The magnitude bits of an element (R92). -/
def PsFmt.mag : PsFmt → Nat
  | .ps2 => 2 | .ps4 => 4 | .ps7 => 7
/-- The bytes of a block (R92). -/
def PsFmt.bytes : PsFmt → Nat
  | .ps2 => 8 | .ps4 => 12 | .ps7 => 18
/-- The whole blocks of a vector register (R126, R132). -/
def PsFmt.blocks : PsFmt → Nat
  | .ps2 => 16 | .ps4 => 10 | .ps7 => 7

/-- The conversions of `vcvt` (R130). -/
inductive Conv where
  | f32i32 | f32n32 | i32f32 | n32f32 | f32f16 | f32bf16 | f16f32 | bf16f32
  | f64f32 | f32f64 | f64i64 | i64f64 | f16bf16 | bf16f16
  deriving DecidableEq, Repr

/-- The conversion code. -/
def Conv.code : Conv → Nat
  | .f32i32 => 0 | .f32n32 => 1 | .i32f32 => 2 | .n32f32 => 3 | .f32f16 => 4 | .f32bf16 => 5
  | .f16f32 => 6 | .bf16f32 => 7 | .f64f32 => 8 | .f32f64 => 9 | .f64i64 => 10 | .i64f64 => 11
  | .f16bf16 => 12 | .bf16f16 => 13

/-- The control registers (R78-R82). -/
inductive Cr where
  | pc | ts | tcause | tval | tpc | tts | frm | fflags | vcnt | prvb | prvl
  | lvt | evsb | evsl | evid | popid | slot | core | pkg | thidx
  | ttb | mbt | ulogb | ulogl | slogb | slogl | mxw | phbuf | partmap | timer | wdwin | fwd
  | gvt | vtdom | tsc | clkc | clkl | trsy | admw | escn | rolls | annih | gvtr | xinv
  | lkc0 (p : Port) | lkc1 (p : Port) | lkth (p : Port) | lkaf (p : Port) | lkrt (p : Port) | lksta (p : Port)
  | ctxsc
  deriving DecidableEq, Repr

/-- The number of a control register (R78-R82). -/
def Cr.num : Cr → Nat
  | .pc => 0x000 | .ts => 0x001 | .tcause => 0x002 | .tval => 0x003 | .tpc => 0x004 | .tts => 0x005
  | .frm => 0x006 | .fflags => 0x007 | .vcnt => 0x008 | .prvb => 0x009 | .prvl => 0x00A
  | .lvt => 0x010 | .evsb => 0x011 | .evsl => 0x012 | .evid => 0x013
  | .popid => 0x020 | .slot => 0x021 | .core => 0x022 | .pkg => 0x023 | .thidx => 0x024
  | .ttb => 0x100 | .mbt => 0x101 | .ulogb => 0x102 | .ulogl => 0x103 | .slogb => 0x104 | .slogl => 0x105
  | .mxw => 0x106 | .phbuf => 0x107 | .partmap => 0x108 | .timer => 0x109 | .wdwin => 0x10A | .fwd => 0x10B
  | .gvt => 0x200 | .vtdom => 0x201 | .tsc => 0x202 | .clkc => 0x203 | .clkl => 0x204 | .trsy => 0x205
  | .admw => 0x206 | .escn => 0x207 | .rolls => 0x208 | .annih => 0x209 | .gvtr => 0x20A | .xinv => 0x20B
  | .lkc0 p => 0x300 + 16 * p.val | .lkc1 p => 0x301 + 16 * p.val | .lkth p => 0x302 + 16 * p.val
  | .lkaf p => 0x303 + 16 * p.val | .lkrt p => 0x304 + 16 * p.val | .lksta p => 0x305 + 16 * p.val
  | .ctxsc => 0x400

/-- The registers that have no port number, in the order of their numbers (R78-R80, R82). -/
def Cr.plain : List Cr :=
  [.pc, .ts, .tcause, .tval, .tpc, .tts, .frm, .fflags, .vcnt, .prvb, .prvl,
   .lvt, .evsb, .evsl, .evid, .popid, .slot, .core, .pkg, .thidx] ++
  [.ttb, .mbt, .ulogb, .ulogl, .slogb, .slogl, .mxw, .phbuf, .partmap, .timer, .wdwin, .fwd] ++
  [.gvt, .vtdom, .tsc, .clkc, .clkl, .trsy, .admw, .escn, .rolls, .annih, .gvtr, .xinv, .ctxsc]

/-- At least one field of the register takes a `crw`; a `crw` to any other register is a decode failure (R75). -/
def Cr.writable : Cr → Bool
  | .ts | .tcause | .tval | .tpc | .tts | .frm | .fflags | .prvb | .prvl | .evsb | .evsl
  | .ttb | .mbt | .ulogb | .ulogl | .slogb | .slogl | .mxw | .phbuf | .partmap | .timer | .wdwin | .fwd
  | .clkl | .gvtr | .xinv | .lkth _ => true
  | _ => false

/-- A write that arrives from another package or from a front port (R159, R175, R325). `tag` is the write
tag that the acknowledgement echoes, `isEnd` the end-write mark of a `gsend` (R243). -/
structure InWrite where
  addr    : Nat
  data    : List Byte
  srcPkg  : BitVec 13
  srcCore : CoreId
  part    : Part
  dom     : Option (BitVec 16)
  tag     : Word
  front   : Bool
  isEnd   : Bool
  deriving DecidableEq, Repr

/-- A posted atomic that arrives from another package (R181, R325): an `amo` of 4 or 8 bytes, or the
32-byte group of a `vamo`. `mode` is the rounding mode of the issuing thread (R98). -/
structure InAtomic where
  addr    : Nat
  vec     : Bool
  fn      : BitVec 5
  data    : List Byte
  srcPkg  : BitVec 13
  srcCore : CoreId
  part    : Part
  mode    : BitVec 3
  tag     : Word
  deriving DecidableEq, Repr

/-- A KDA datagram as a front port receives it (R262): the partition its destination address and port
select, the header fields, the payload, whether its IP header carried CE and whether the UDP checksum
verified and no extension header was present (R261). -/
structure Datagram where
  dst     : BitVec 128
  port    : BitVec 16
  clean   : Bool
  ce      : Bool
  bytes   : List Byte
  deriving DecidableEq, Repr

/-- A group control write of 32 bytes (R338). -/
structure GroupMsg where
  gid   : BitVec 16
  mhz   : BitVec 16
  src   : BitVec 16
  time  : Word
  pad   : Bool
  deriving DecidableEq, Repr

/-- The sums and the minimum that the other packages of a virtual-time domain bring to a round (R334). -/
structure ClearingSums where
  sent : Nat
  rcvd : Nat
  low  : Nat
  deriving DecidableEq, Repr

/-- The cut of a round of a virtual-time domain: the domain, and the least GVTR of its dies of other packages (R333). -/
structure ClearingStart where
  dom   : BitVec 16
  least : BitVec 32
  deriving DecidableEq, Repr

/-- A link port that the firmware trains, and the packages that it leads toward (R324, R326). -/
structure TrainedLink where
  port   : Port
  beyond : List Nat
  deriving DecidableEq, Repr

/-- A ticket request or advance from another package (R316, R317). -/
structure TicketIn where
  pkg  : BitVec 13
  core : CoreId
  part : Part
  idx  : BitVec 12
  word : Nat
  adv  : BitVec 16
  tag  : Word
  deriving DecidableEq, Repr

/-- The signed configuration record (R355): package id, Treasury budget, retirement thresholds. -/
structure ConfigRecord where
  pkg     : BitVec 13
  trbud   : BitVec 32
  uncLim  : Nat
  corLim  : Nat
  deriving DecidableEq, Repr

/-- A firmware image: its bytes and the configuration record it holds (R353, R355). -/
structure Firmware where
  bytes  : List Byte
  record : ConfigRecord
  deriving DecidableEq, Repr

/-- Bits `lo + n - 1` to `lo` of `w`, as a number. -/
abbrev bits (w lo n : Nat) : Nat := w / 2 ^ lo % 2 ^ n

/-- The little-endian bytes of the low `n` bytes of `v` (R2). -/
def toBytes : Nat → Nat → List Byte
  | 0, _ => []
  | n + 1, v => BitVec.ofNat 8 v :: toBytes n (v / 256)

/-- The number that a little-endian byte list spells (R2). -/
def ofBytes : List Byte → Nat
  | [] => 0
  | b :: t => b.toNat + 256 * ofBytes t

end Sys2Proof
end

