-- ==== Sys2Proof/Syntax.lean ====
section
/-! DEFINITION. The instructions and device steps of the GS-KX9: one constructor per row of the operation
table. The first 271 are instruction words (R41); the rest are the events and device steps that run beside
the instruction stream, with the operands that say which agent they concern. -/

namespace Sys2Proof

/-- An instruction word, or a step of the device (02_encoding R41, 95_what_each_step_holds). -/
inductive Instr where
  /-- `NOP` (R137): Does nothing but advance PC. -/
  | nop
  /-- `HALT` (R138): Waits for the thread's earlier instructions to complete, then makes the thread DONE, or HELD if it has begun an event. -/
  | halt
  /-- `YIELD` (R137): Makes the slot count as not ready at its next owned cycle. -/
  | yield
  /-- `TRAP` (R147): Raises SYSCALL with the code as subcode and X[xa] as TVAL; TPC is the next instruction. -/
  | trap (a : XReg) (c : BitVec 8)
  /-- `SRET` (R146): Ends the current trap record and resumes the trapped slot, applying any pending rollback, or restores a nested save. -/
  | sret
  /-- `SRET_HALT` (R146): Ends the current trap record and halts the trapped thread. -/
  | sretHalt
  /-- `SRET_ABORT` (R146): Ends the current trap record, halts the thread and stops its whole population with status FAULT. -/
  | sretAbort
  /-- `BRK` (R147): Raises BRKPT with the code as TVAL and TPC at the brk. -/
  | brk (c : BitVec 12)
  /-- `CRD` (R76): Reads a whole control register into xd. -/
  | crd (d : XReg) (r : Cr)
  /-- `CRW` (R76): Writes a control register field by field according to the Access codes, for registers without a row of their own. -/
  | crw (a : XReg) (r : Cr)
  /-- `TSC` (R332): Reads the die's time-stamp counter into xd at issue. -/
  | tsc (d : XReg)
  /-- `FENCE_CORE` (R186): Waits until earlier immediate writes are visible to every slot of the core and earlier loads have returned. -/
  | fenceCore
  /-- `FENCE_DIE` (R186): Waits until earlier immediate writes are visible to every agent of the die. -/
  | fenceDie
  /-- `FENCE_PKG` (R186): Waits until earlier immediate writes are visible to every agent of the package. -/
  | fencePkg
  /-- `FENCE_DOM` (R186): As fence.pkg, and also waits until every write to another package is acknowledged. -/
  | fenceDom
  /-- `FENCE_L` (R171): Waits until earlier stores reach the thread's entries or memory, then marks its entries merged across address forms. -/
  | fenceL
  /-- `FENCE_CB` (R31): Makes later fetches and captures of the thread read committed memory afresh. -/
  | fenceCb
  /-- `PHASE` (R187): Makes the thread arrive at its population's next phase and waits for that phase to complete. -/
  | phase
  /-- `WATCH` (R185): Arms the slot's monitor on the line of the address. -/
  | watch (a : XReg)
  /-- `WAITR` (R185): Waits until the committed word differs from xd or the armed monitor fires, then loads it. -/
  | waitr (d : XReg) (a : XReg)
  /-- `VALLOC` (R73): Waits for n free vector registers in grant order, binds them zeroed and sets m1-m7 and VCNT. -/
  | valloc (n : BitVec 12)
  /-- `VFREE` (R73): Returns the slot's vector registers and masks to the pool and sets VCNT to 0. -/
  | vfree
  /-- `ADMIT` (R337): Requests an allowance from the Treasury, waits for the grant and adds it to the slot's reservation. -/
  | admitTake (a : XReg)
  /-- `ADMIT_END` (R337): Returns the slot's reservation to TRSY and reports its size in xd. -/
  | admitEnd (d : XReg)
  /-- `CLKQ` (R342): Reads entry X[xa] of the die's schedule of pending ceiling changes. -/
  | clkq (d : XReg) (a : XReg)
  /-- `ADD` (R103): xd gets a + b modulo 2^64. -/
  | add (d : XReg) (a : XReg) (b : OpB)
  /-- `SUB` (R103): xd gets a - b modulo 2^64. -/
  | sub (d : XReg) (a : XReg) (b : OpB)
  /-- `MUL` (R103): xd gets the low 64 bits of a x b. -/
  | mul (d : XReg) (a : XReg) (b : OpB)
  /-- `MULH` (R103): xd gets the high 64 bits of the signed product. -/
  | mulh (d : XReg) (a : XReg) (b : OpB)
  /-- `MULHN` (R103): xd gets the high 64 bits of the unsigned product. -/
  | mulhn (d : XReg) (a : XReg) (b : OpB)
  /-- `DIV` (R103): xd gets the signed quotient under R84. -/
  | div (d : XReg) (a : XReg) (b : OpB)
  /-- `DIVN` (R103): xd gets the unsigned quotient under R84. -/
  | divn (d : XReg) (a : XReg) (b : OpB)
  /-- `REM` (R103): xd gets the signed remainder under R84. -/
  | rem (d : XReg) (a : XReg) (b : OpB)
  /-- `REMN` (R103): xd gets the unsigned remainder under R84. -/
  | remn (d : XReg) (a : XReg) (b : OpB)
  /-- `AND` (R103): xd gets a AND b. -/
  | and (d : XReg) (a : XReg) (b : OpB)
  /-- `OR` (R103): xd gets a OR b. -/
  | or (d : XReg) (a : XReg) (b : OpB)
  /-- `XOR` (R103): xd gets a XOR b. -/
  | xor (d : XReg) (a : XReg) (b : OpB)
  /-- `ANDN` (R103): xd gets a AND NOT b. -/
  | andn (d : XReg) (a : XReg) (b : OpB)
  /-- `SHL` (R103): xd gets a shifted left by b mod 64. -/
  | shl (d : XReg) (a : XReg) (b : OpB)
  /-- `SHR` (R103): xd gets a shifted right logically by b mod 64. -/
  | shr (d : XReg) (a : XReg) (b : OpB)
  /-- `SAR` (R103): xd gets a shifted right arithmetically by b mod 64. -/
  | sar (d : XReg) (a : XReg) (b : OpB)
  /-- `ROL` (R103): xd gets a rotated left by b mod 64. -/
  | rol (d : XReg) (a : XReg) (b : OpB)
  /-- `MIN` (R103): xd gets the signed lesser of a and b. -/
  | min (d : XReg) (a : XReg) (b : OpB)
  /-- `MAX` (R103): xd gets the signed greater of a and b. -/
  | max (d : XReg) (a : XReg) (b : OpB)
  /-- `MINN` (R103): xd gets the unsigned lesser of a and b. -/
  | minn (d : XReg) (a : XReg) (b : OpB)
  /-- `MAXN` (R103): xd gets the unsigned greater of a and b. -/
  | maxn (d : XReg) (a : XReg) (b : OpB)
  /-- `LEA2` (R103): xd gets a + (b << 1). -/
  | lea2 (d : XReg) (a : XReg) (b : OpB)
  /-- `LEA4` (R103): xd gets a + (b << 2). -/
  | lea4 (d : XReg) (a : XReg) (b : OpB)
  /-- `LEA8` (R103): xd gets a + (b << 3). -/
  | lea8 (d : XReg) (a : XReg) (b : OpB)
  /-- `ADDW` (R103): xd gets the sign-extended low 32 bits of a + b. -/
  | addw (d : XReg) (a : XReg) (b : OpB)
  /-- `CLZ` (R106): xd gets the count of leading zero bits of xa. -/
  | clz (d : XReg) (a : XReg)
  /-- `CTZ` (R106): xd gets the count of trailing zero bits of xa. -/
  | ctz (d : XReg) (a : XReg)
  /-- `POP` (R106): xd gets the number of set bits of xa. -/
  | pop (d : XReg) (a : XReg)
  /-- `BSWAP` (R106): xd gets the bytes of xa in reverse order. -/
  | bswap (d : XReg) (a : XReg)
  /-- `SEXT_B` (R106): xd gets xa sign-extended from 8 bits. -/
  | sextB (d : XReg) (a : XReg)
  /-- `SEXT_H` (R106): xd gets xa sign-extended from 16 bits. -/
  | sextH (d : XReg) (a : XReg)
  /-- `SEXT_W` (R106): xd gets xa sign-extended from 32 bits. -/
  | sextW (d : XReg) (a : XReg)
  /-- `ZEXT_B` (R106): xd gets xa zero-extended from 8 bits. -/
  | zextB (d : XReg) (a : XReg)
  /-- `ZEXT_H` (R106): xd gets xa zero-extended from 16 bits. -/
  | zextH (d : XReg) (a : XReg)
  /-- `ZEXT_W` (R106): xd gets xa zero-extended from 32 bits. -/
  | zextW (d : XReg) (a : XReg)
  /-- `MOV` (R106): xd gets xa. -/
  | mov (d : XReg) (a : XReg)
  /-- `BFX` (R107): xd gets the bit field of xa that the descriptor in operand b names, zero-extended. -/
  | bfx (d : XReg) (a : XReg) (b : OpB)
  /-- `BFI` (R107): Replaces the described bit field of xd with the low bits of xa. -/
  | bfi (d : XReg) (a : XReg) (b : OpB)
  /-- `CMP_EQ` (R108): pd gets a = b. -/
  | cmpEq (p : PReg) (a : XReg) (b : OpB)
  /-- `CMP_NE` (R108): pd gets a != b. -/
  | cmpNe (p : PReg) (a : XReg) (b : OpB)
  /-- `CMP_LT` (R108): pd gets a < b as signed. -/
  | cmpLt (p : PReg) (a : XReg) (b : OpB)
  /-- `CMP_GE` (R108): pd gets a >= b as signed. -/
  | cmpGe (p : PReg) (a : XReg) (b : OpB)
  /-- `CMP_LTN` (R108): pd gets a < b as unsigned. -/
  | cmpLtn (p : PReg) (a : XReg) (b : OpB)
  /-- `CMP_GEN` (R108): pd gets a >= b as unsigned. -/
  | cmpGen (p : PReg) (a : XReg) (b : OpB)
  /-- `TST_Z` (R108): pd gets (a AND b) = 0. -/
  | tstZ (p : PReg) (a : XReg) (b : OpB)
  /-- `TST_NZ` (R108): pd gets (a AND b) != 0. -/
  | tstNz (p : PReg) (a : XReg) (b : OpB)
  /-- `ADDI` (R104): xd gets xa plus the sign-extended immediate. -/
  | addi (d : XReg) (a : XReg) (i : BitVec 18)
  /-- `ANDI` (R104): xd gets xa AND the sign-extended immediate. -/
  | andi (d : XReg) (a : XReg) (i : BitVec 18)
  /-- `ORI` (R104): xd gets xa OR the sign-extended immediate. -/
  | ori (d : XReg) (a : XReg) (i : BitVec 18)
  /-- `XORI` (R104): xd gets xa XOR the sign-extended immediate. -/
  | xori (d : XReg) (a : XReg) (i : BitVec 18)
  /-- `SHLI` (R104): xd gets xa shifted left by n. -/
  | shli (d : XReg) (a : XReg) (n : Fin 64)
  /-- `SHRI` (R104): xd gets xa shifted right logically by n. -/
  | shri (d : XReg) (a : XReg) (n : Fin 64)
  /-- `SARI` (R104): xd gets xa shifted right arithmetically by n. -/
  | sari (d : XReg) (a : XReg) (n : Fin 64)
  /-- `ROLI` (R104): xd gets xa rotated left by n. -/
  | roli (d : XReg) (a : XReg) (n : Fin 64)
  /-- `LUI` (R105): xd gets the sign-extended immediate shifted left by 18. -/
  | lui (d : XReg) (i : BitVec 18)
  /-- `LDK` (R105): xd gets constant-window word K(N). -/
  | ldk (d : XReg) (n : KIdx)
  /-- `CMPI_EQ` (R109): pd gets xa = the sign-extended imm16. -/
  | cmpiEq (p : PReg) (a : XReg) (i : BitVec 16)
  /-- `CMPI_NE` (R109): pd gets xa != the sign-extended imm16. -/
  | cmpiNe (p : PReg) (a : XReg) (i : BitVec 16)
  /-- `CMPI_LT` (R109): pd gets xa < imm as signed. -/
  | cmpiLt (p : PReg) (a : XReg) (i : BitVec 16)
  /-- `CMPI_GE` (R109): pd gets xa >= imm as signed. -/
  | cmpiGe (p : PReg) (a : XReg) (i : BitVec 16)
  /-- `CMPI_LTN` (R109): pd gets xa < the sign-extended imm as unsigned. -/
  | cmpiLtn (p : PReg) (a : XReg) (i : BitVec 16)
  /-- `CMPI_GEN` (R109): pd gets xa >= the sign-extended imm as unsigned. -/
  | cmpiGen (p : PReg) (a : XReg) (i : BitVec 16)
  /-- `PAND` (R110): pd gets pa AND pb. -/
  | pand (p : PReg) (a : PReg) (b : PReg)
  /-- `POR` (R110): pd gets pa OR pb. -/
  | por (p : PReg) (a : PReg) (b : PReg)
  /-- `PXOR` (R110): pd gets pa XOR pb. -/
  | pxor (p : PReg) (a : PReg) (b : PReg)
  /-- `PANDN` (R110): pd gets pa AND NOT pb. -/
  | pandn (p : PReg) (a : PReg) (b : PReg)
  /-- `PNOT` (R110): pd gets NOT pa. -/
  | pnot (p : PReg) (a : PReg)
  /-- `PMOV` (R110): pd gets pa. -/
  | pmov (p : PReg) (a : PReg)
  /-- `SEL` (R111): xd gets xa when predicate p holds, else xb. -/
  | sel (d : XReg) (a : XReg) (b : XReg) (p : PReg)
  /-- `LD` (R179): Loads 1, 2, 4 or 8 bytes, sign-extended, with forwarding from the thread's own buffered stores. -/
  | ld (t : XReg) (z : Size) (mem : MemForm)
  /-- `LDZ` (R179): Loads 1, 2 or 4 bytes zero-extended. -/
  | ldz (t : XReg) (z : Size) (mem : MemForm)
  /-- `ST` (R179): Stores 1-8 bytes in the class R167 assigns, spilling the oldest buffer entry or trapping PHASEFULL when the buffer is full. -/
  | st (t : XReg) (z : Size) (mem : MemForm)
  /-- `STP` (R179): Stores 4 or 8 bytes in the immediate class. -/
  | stp (t : XReg) (z : Size) (mem : MemForm)
  /-- `AMO_ADD` (R180): Atomically adds xb at the memory port, returning the old value or posting the atomic remotely. -/
  | amoAdd (d : XReg) (a : XReg) (b : XReg) (z : WordSize)
  /-- `AMO_AND` (R180): Atomic bitwise AND at the memory port. -/
  | amoAnd (d : XReg) (a : XReg) (b : XReg) (z : WordSize)
  /-- `AMO_OR` (R180): Atomic bitwise OR at the memory port. -/
  | amoOr (d : XReg) (a : XReg) (b : XReg) (z : WordSize)
  /-- `AMO_XOR` (R180): Atomic bitwise XOR at the memory port. -/
  | amoXor (d : XReg) (a : XReg) (b : XReg) (z : WordSize)
  /-- `AMO_MIN` (R180): Atomic signed minimum at the memory port. -/
  | amoMin (d : XReg) (a : XReg) (b : XReg) (z : WordSize)
  /-- `AMO_MAX` (R180): Atomic signed maximum at the memory port. -/
  | amoMax (d : XReg) (a : XReg) (b : XReg) (z : WordSize)
  /-- `AMO_MINN` (R180): Atomic unsigned minimum at the memory port. -/
  | amoMinn (d : XReg) (a : XReg) (b : XReg) (z : WordSize)
  /-- `AMO_MAXN` (R180): Atomic unsigned maximum at the memory port. -/
  | amoMaxn (d : XReg) (a : XReg) (b : XReg) (z : WordSize)
  /-- `AMO_SWAP` (R180): Atomically swaps xb into the word at the memory port. -/
  | amoSwap (d : XReg) (a : XReg) (b : XReg) (z : WordSize)
  /-- `CAS` (R182): Compares the committed word with xd and writes xb when they are equal, returning the old value in xd. -/
  | cas (d : XReg) (a : XReg) (b : XReg) (z : WordSize)
  /-- `VAMO_ADD_I32` (R183): Atomically adds eight i32 elements of the group, returning the old elements. -/
  | vamoAddI32 (v : VReg) (a : XReg) (g : Fin 4)
  /-- `VAMO_MIN_I32` (R183): Atomic signed minimum of eight i32 elements. -/
  | vamoMinI32 (v : VReg) (a : XReg) (g : Fin 4)
  /-- `VAMO_MAX_I32` (R183): Atomic signed maximum of eight i32 elements. -/
  | vamoMaxI32 (v : VReg) (a : XReg) (g : Fin 4)
  /-- `VAMO_MINN_N32` (R183): Atomic unsigned minimum of eight n32 elements. -/
  | vamoMinnN32 (v : VReg) (a : XReg) (g : Fin 4)
  /-- `VAMO_MAXN_N32` (R183): Atomic unsigned maximum of eight n32 elements. -/
  | vamoMaxnN32 (v : VReg) (a : XReg) (g : Fin 4)
  /-- `VAMO_AND` (R183): Atomic bitwise AND of eight 32-bit elements. -/
  | vamoAnd (v : VReg) (a : XReg) (g : Fin 4)
  /-- `VAMO_OR` (R183): Atomic bitwise OR of eight 32-bit elements. -/
  | vamoOr (v : VReg) (a : XReg) (g : Fin 4)
  /-- `VAMO_XOR` (R183): Atomic bitwise XOR of eight 32-bit elements. -/
  | vamoXor (v : VReg) (a : XReg) (g : Fin 4)
  /-- `VAMO_ADD_F32` (R98): Atomic rounded f32 add of eight elements under FRM. -/
  | vamoAddF32 (v : VReg) (a : XReg) (g : Fin 4)
  /-- `VAMO_MIN_F32` (R183): Atomic f32 minimum of eight elements per R89. -/
  | vamoMinF32 (v : VReg) (a : XReg) (g : Fin 4)
  /-- `VAMO_MAX_F32` (R183): Atomic f32 maximum of eight elements per R89. -/
  | vamoMaxF32 (v : VReg) (a : XReg) (g : Fin 4)
  /-- `VAMO_ADD_BF16` (R98): Atomic rounded bf16 add of sixteen elements. -/
  | vamoAddBf16 (v : VReg) (a : XReg) (g : Fin 4)
  /-- `BR` (R112): Branches by disp18 when the predicate test holds. -/
  | br (p : PReg) (n : Bool) (i : BitVec 18)
  /-- `BDEC` (R112): Decrements xa and branches when it is non-zero and the predicate test holds. -/
  | bdec (p : PReg) (n : Bool) (a : XReg) (i : BitVec 18)
  /-- `CALL` (R112): Writes the return address to x15 and branches. -/
  | call (i : BitVec 18)
  /-- `JMP` (R113): Jumps to xa, trapping ALIGN on a misaligned target. -/
  | jmp (a : XReg)
  /-- `CALLR` (R113): Jumps to xa and writes the return address to x15. -/
  | callr (a : XReg)
  /-- `RET` (R113): Jumps to x15. -/
  | ret
  /-- `BRST` (R200): Waits for the consumer slot of ta to be READY or failed, then branches when a selected status-flag group is set. -/
  | brst (t : TileH) (f : BitVec 4) (i : BitVec 16)
  /-- `VADD_I32` (R119): Lane-wise wrapping i32 add. -/
  | vaddI32 (d : VReg) (a : VReg) (b : VReg) (m : MReg)
  /-- `VSUB_I32` (R119): Lane-wise wrapping i32 subtract. -/
  | vsubI32 (d : VReg) (a : VReg) (b : VReg) (m : MReg)
  /-- `VMUL_I32` (R119): Lane-wise low 32 bits of the product. -/
  | vmulI32 (d : VReg) (a : VReg) (b : VReg) (m : MReg)
  /-- `VMULH_I32` (R119): Lane-wise high 32 bits of the signed product. -/
  | vmulhI32 (d : VReg) (a : VReg) (b : VReg) (m : MReg)
  /-- `VMIN_I32` (R119): Lane-wise signed minimum. -/
  | vminI32 (d : VReg) (a : VReg) (b : VReg) (m : MReg)
  /-- `VMAX_I32` (R119): Lane-wise signed maximum. -/
  | vmaxI32 (d : VReg) (a : VReg) (b : VReg) (m : MReg)
  /-- `VMINN_I32` (R119): Lane-wise unsigned minimum. -/
  | vminnI32 (d : VReg) (a : VReg) (b : VReg) (m : MReg)
  /-- `VMAXN_I32` (R119): Lane-wise unsigned maximum. -/
  | vmaxnI32 (d : VReg) (a : VReg) (b : VReg) (m : MReg)
  /-- `VAND_I32` (R119): Lane-wise bitwise AND. -/
  | vandI32 (d : VReg) (a : VReg) (b : VReg) (m : MReg)
  /-- `VOR_I32` (R119): Lane-wise bitwise OR. -/
  | vorI32 (d : VReg) (a : VReg) (b : VReg) (m : MReg)
  /-- `VXOR_I32` (R119): Lane-wise bitwise XOR. -/
  | vxorI32 (d : VReg) (a : VReg) (b : VReg) (m : MReg)
  /-- `VSHL_I32` (R119): Lane-wise shift left by b mod 32. -/
  | vshlI32 (d : VReg) (a : VReg) (b : VReg) (m : MReg)
  /-- `VSHR_I32` (R119): Lane-wise logical shift right by b mod 32. -/
  | vshrI32 (d : VReg) (a : VReg) (b : VReg) (m : MReg)
  /-- `VSAR_I32` (R119): Lane-wise arithmetic shift right by b mod 32. -/
  | vsarI32 (d : VReg) (a : VReg) (b : VReg) (m : MReg)
  /-- `VABS_I32` (R119): Lane-wise absolute value, wrapping at -2^31. -/
  | vabsI32 (d : VReg) (a : VReg) (m : MReg)
  /-- `VNEG_I32` (R119): Lane-wise negation, wrapping. -/
  | vnegI32 (d : VReg) (a : VReg) (m : MReg)
  /-- `VADDS_I32` (R119): Lane-wise saturating i32 add. -/
  | vaddsI32 (d : VReg) (a : VReg) (b : VReg) (m : MReg)
  /-- `VSUBS_I32` (R119): Lane-wise saturating i32 subtract. -/
  | vsubsI32 (d : VReg) (a : VReg) (b : VReg) (m : MReg)
  /-- `VADD_F32` (R120): Lane-wise rounded f32 add, setting FFLAGS. -/
  | vaddF32 (d : VReg) (a : VReg) (b : VReg) (m : MReg)
  /-- `VSUB_F32` (R120): Lane-wise rounded f32 subtract. -/
  | vsubF32 (d : VReg) (a : VReg) (b : VReg) (m : MReg)
  /-- `VMUL_F32` (R120): Lane-wise rounded f32 multiply. -/
  | vmulF32 (d : VReg) (a : VReg) (b : VReg) (m : MReg)
  /-- `VDIV_F32` (R120): Lane-wise rounded f32 divide. -/
  | vdivF32 (d : VReg) (a : VReg) (b : VReg) (m : MReg)
  /-- `VSQRT_F32` (R120): Lane-wise rounded f32 square root. -/
  | vsqrtF32 (d : VReg) (a : VReg) (m : MReg)
  /-- `VMIN_F32` (R89): Lane-wise f32 minimumNumber. -/
  | vminF32 (d : VReg) (a : VReg) (b : VReg) (m : MReg)
  /-- `VMAX_F32` (R89): Lane-wise f32 maximumNumber. -/
  | vmaxF32 (d : VReg) (a : VReg) (b : VReg) (m : MReg)
  /-- `VABS_F32` (R120): Lane-wise sign clear. -/
  | vabsF32 (d : VReg) (a : VReg) (m : MReg)
  /-- `VNEG_F32` (R120): Lane-wise sign inversion. -/
  | vnegF32 (d : VReg) (a : VReg) (m : MReg)
  /-- `VRCP_F32` (R120): Lane-wise rounded reciprocal. -/
  | vrcpF32 (d : VReg) (a : VReg) (m : MReg)
  /-- `VRSQRT_F32` (R120): Lane-wise rounded reciprocal square root. -/
  | vrsqrtF32 (d : VReg) (a : VReg) (m : MReg)
  /-- `VEXP2_F32` (R120): Lane-wise rounded 2^a. -/
  | vexp2F32 (d : VReg) (a : VReg) (m : MReg)
  /-- `VLOG2_F32` (R120): Lane-wise rounded log2 a. -/
  | vlog2F32 (d : VReg) (a : VReg) (m : MReg)
  /-- `VFLOOR_F32` (R120): Lane-wise integral value toward minus infinity. -/
  | vfloorF32 (d : VReg) (a : VReg) (m : MReg)
  /-- `VCEIL_F32` (R120): Lane-wise integral value toward plus infinity. -/
  | vceilF32 (d : VReg) (a : VReg) (m : MReg)
  /-- `VRINT_F32` (R120): Lane-wise integral value under FRM, with NX when it changes. -/
  | vrintF32 (d : VReg) (a : VReg) (m : MReg)
  /-- `VADD_H` (R121): Lane-wise f16 or bf16 rounded add. -/
  | vaddH (d : VReg) (a : VReg) (b : VReg) (m : MReg) (t : HalfFmt)
  /-- `VSUB_H` (R121): Lane-wise f16 or bf16 rounded subtract. -/
  | vsubH (d : VReg) (a : VReg) (b : VReg) (m : MReg) (t : HalfFmt)
  /-- `VMUL_H` (R121): Lane-wise f16 or bf16 rounded multiply. -/
  | vmulH (d : VReg) (a : VReg) (b : VReg) (m : MReg) (t : HalfFmt)
  /-- `VMIN_H` (R121): Lane-wise f16 or bf16 minimumNumber. -/
  | vminH (d : VReg) (a : VReg) (b : VReg) (m : MReg) (t : HalfFmt)
  /-- `VMAX_H` (R121): Lane-wise f16 or bf16 maximumNumber. -/
  | vmaxH (d : VReg) (a : VReg) (b : VReg) (m : MReg) (t : HalfFmt)
  /-- `VABS_H` (R121): Lane-wise f16 or bf16 sign clear. -/
  | vabsH (d : VReg) (a : VReg) (m : MReg) (t : HalfFmt)
  /-- `VNEG_H` (R121): Lane-wise f16 or bf16 sign inversion. -/
  | vnegH (d : VReg) (a : VReg) (m : MReg) (t : HalfFmt)
  /-- `VADD_D` (R122): Lane-wise f64 rounded or i64 wrapping add. -/
  | vaddD (d : VReg) (a : VReg) (b : VReg) (m : MReg) (t : DoubleFmt)
  /-- `VSUB_D` (R122): Lane-wise f64 rounded or i64 wrapping subtract. -/
  | vsubD (d : VReg) (a : VReg) (b : VReg) (m : MReg) (t : DoubleFmt)
  /-- `VMUL_D` (R122): Lane-wise f64 rounded or i64 low-half multiply. -/
  | vmulD (d : VReg) (a : VReg) (b : VReg) (m : MReg) (t : DoubleFmt)
  /-- `VDIV_F64` (R122): Lane-wise rounded f64 divide. -/
  | vdivF64 (d : VReg) (a : VReg) (b : VReg) (m : MReg)
  /-- `VSQRT_F64` (R122): Lane-wise rounded f64 square root. -/
  | vsqrtF64 (d : VReg) (a : VReg) (m : MReg)
  /-- `VMIN_D` (R122): Lane-wise f64 minimumNumber or i64 signed minimum. -/
  | vminD (d : VReg) (a : VReg) (b : VReg) (m : MReg) (t : DoubleFmt)
  /-- `VMAX_D` (R122): Lane-wise f64 maximumNumber or i64 signed maximum. -/
  | vmaxD (d : VReg) (a : VReg) (b : VReg) (m : MReg) (t : DoubleFmt)
  /-- `VFMA` (R123): Every lane gets a x b + c with one rounding in the selected type. -/
  | vfma (d : VReg) (a : VReg) (b : VReg) (c : VReg) (t : FmaFmt)
  /-- `VCMP_EQ` (R125): Writes mask bits of lane-wise equality. -/
  | vcmpEq (e : MReg) (a : VReg) (b : VReg) (m : MReg) (t : CmpFmt)
  /-- `VCMP_NE` (R125): Writes mask bits of lane-wise inequality. -/
  | vcmpNe (e : MReg) (a : VReg) (b : VReg) (m : MReg) (t : CmpFmt)
  /-- `VCMP_LT` (R125): Writes mask bits of lane-wise less-than. -/
  | vcmpLt (e : MReg) (a : VReg) (b : VReg) (m : MReg) (t : CmpFmt)
  /-- `VCMP_GE` (R125): Writes mask bits of lane-wise greater-or-equal. -/
  | vcmpGe (e : MReg) (a : VReg) (b : VReg) (m : MReg) (t : CmpFmt)
  /-- `VCMP_LTN` (R125): Writes mask bits of unsigned i32 less-than. -/
  | vcmpLtn (e : MReg) (a : VReg) (b : VReg) (m : MReg)
  /-- `VCMP_GEN` (R125): Writes mask bits of unsigned i32 greater-or-equal. -/
  | vcmpGen (e : MReg) (a : VReg) (b : VReg) (m : MReg)
  /-- `VCMP_UNORD` (R125): Writes mask bits where either float operand is NaN. -/
  | vcmpUnord (e : MReg) (a : VReg) (b : VReg) (m : MReg) (t : CmpFmt)
  /-- `VCMP_ORD` (R125): Writes mask bits where neither float operand is NaN. -/
  | vcmpOrd (e : MReg) (a : VReg) (b : VReg) (m : MReg) (t : CmpFmt)
  /-- `VLD` (R184): Loads 32-bit lanes from consecutive addresses. -/
  | vld (v : VReg) (a : XReg) (m : MReg) (s : Fin 16)
  /-- `VST` (R184): Stores 32-bit lanes to consecutive addresses. -/
  | vst (v : VReg) (a : XReg) (m : MReg) (s : Fin 16)
  /-- `VLDS` (R184): Loads 32-bit lanes at a register stride. -/
  | vlds (v : VReg) (a : XReg) (x : XReg) (m : MReg) (s : Fin 16)
  /-- `VSTS` (R184): Stores 32-bit lanes at a register stride. -/
  | vsts (v : VReg) (a : XReg) (x : XReg) (m : MReg) (s : Fin 16)
  /-- `VGATH` (R184): Loads 32-bit lanes from indexed addresses. -/
  | vgath (v : VReg) (a : XReg) (i : VReg) (m : MReg) (s : Fin 4)
  /-- `VSCAT` (R184): Stores 32-bit lanes to indexed addresses. -/
  | vscat (v : VReg) (a : XReg) (i : VReg) (m : MReg) (s : Fin 4)
  /-- `VBCAST` (R127): Writes an x register value into every governed lane of the chosen width. -/
  | vbcast (d : VReg) (w : LaneWidth) (a : XReg) (m : MReg)
  /-- `VEXTR` (R127): Reads one lane into an x register, sign-extended. -/
  | vextr (w : LaneWidth) (x : XReg) (a : VReg) (l : Fin 64)
  /-- `VINS` (R127): Writes an x register value into one lane. -/
  | vins (d : VReg) (w : LaneWidth) (a : XReg) (l : Fin 64)
  /-- `VRED_ADD_F32` (R95): Sums governed f32 lanes in the fixed tree into lane 0. -/
  | vredAddF32 (d : VReg) (a : VReg) (m : MReg)
  /-- `VRED_MAX_F32` (R129): Takes the maximum of governed f32 lanes into lane 0. -/
  | vredMaxF32 (d : VReg) (a : VReg) (m : MReg)
  /-- `VRED_ADD_I32` (R129): Wrapping sum of governed i32 lanes into lane 0. -/
  | vredAddI32 (d : VReg) (a : VReg) (m : MReg)
  /-- `VRED_MAX_I32` (R129): Signed maximum of governed i32 lanes into lane 0. -/
  | vredMaxI32 (d : VReg) (a : VReg) (m : MReg)
  /-- `VPERM` (R128): Each governed lane takes the va lane its index in vb names. -/
  | vperm (d : VReg) (a : VReg) (b : VReg) (m : MReg)
  /-- `VSEL` (R128): Every lane takes va or vb as the mask bit selects. -/
  | vsel (d : VReg) (a : VReg) (b : VReg) (m : MReg)
  /-- `VCVT` (R130): Converts lanes between the formats that the conversion code selects, rounding under FRM. -/
  | vcvt (d : VReg) (a : VReg) (c : Conv) (m : MReg)
  /-- `VUNPK` (R131): Expands PS block n of va into f32 lanes 0-15 exactly. -/
  | vunpk (d : VReg) (a : VReg) (n : Fin 64) (f : PsFmt)
  /-- `VPACK` (R131): Quantises f32 lanes 0-15 into PS block n of vd, setting OF on saturation. -/
  | vpack (d : VReg) (a : VReg) (n : Fin 64) (f : PsFmt)
  /-- `BADDQ` (R132): Adds PS blocks pairwise over the register and requantises each. -/
  | baddq (d : VReg) (a : VReg) (b : VReg) (f : PsFmt)
  /-- `VMOV` (R128): Copies governed lanes of va to vd. -/
  | vmov (d : VReg) (a : VReg) (m : MReg)
  /-- `VIOTA` (R128): Writes each governed lane's index into it. -/
  | viota (d : VReg) (m : MReg)
  /-- `TLDEF` (R208): Defines a tile entry from a parameter block and zeroes its status word. -/
  | tldef (t : TileH) (n : KIdx)
  /-- `TLRING` (R209): Defines ta as a ring over n member tiles. -/
  | tlring (t : TileH) (u : TileH) (n : KIdx)
  /-- `TLWAIT_R` (R210): Waits until the consumer slot is READY, trapping if it failed. -/
  | tlwaitR (t : TileH)
  /-- `TLWAIT_E` (R210): Waits until the producer slot is EMPTY without error. -/
  | tlwaitE (t : TileH)
  /-- `TLCONS` (R211): Releases the consumer slot or clears its error and advances CIDX. -/
  | tlcons (t : TileH)
  /-- `TLSTAT` (R212): Reads tile state, counts and indices into xd without waiting. -/
  | tlstat (t : TileH) (d : XReg)
  /-- `TLFREE` (R213): Waits for readers and producers to drain, then undefines the handle. -/
  | tlfree (t : TileH)
  /-- `TLPUB` (R214): Applies the thread's buffered stores into the tile and makes it READY. -/
  | tlpub (t : TileH)
  /-- `TLOPEN` (R214): Waits for EMPTY, then sets FILLING and zeroes the status word. -/
  | tlopen (t : TileH)
  /-- `WLOAD` (R216): Claims a weight slot and enqueues a latch of the tile's weights. -/
  | wload (u : TileH) (w : WSlot) (n : KIdx)
  /-- `MMA` (R217): Enqueues a matrix product that accumulates into a READY or matrix-filling result tile. -/
  | mma (t : TileH) (u : TileH) (w : WSlot) (n : KIdx)
  /-- `MMAZ` (R217): Claims an EMPTY result tile and enqueues a matrix product starting from zero. -/
  | mmaz (t : TileH) (u : TileH) (w : WSlot) (n : KIdx)
  /-- `WDROP` (R218): Enqueues a release of the held weight slot. -/
  | wdrop (w : WSlot)
  /-- `TCOPY_IN` (R220): Claims the producer slot and enqueues a copy from memory into the tile. -/
  | tcopyIn (t : TileH) (n : KIdx)
  /-- `TCOPY_OUT` (R220): Enqueues a copy of the READY consumer slot to memory. -/
  | tcopyOut (u : TileH) (n : KIdx)
  /-- `DEC` (R224): Enqueues a decompression command over KPC blocks into the tile or ring. -/
  | dec (t : TileH) (n : KIdx)
  /-- `TFILL` (R220): Claims the producer slot and enqueues a fill with a 64-bit pattern. -/
  | tfill (t : TileH) (n : KIdx)
  /-- `TCONV` (R221): Enqueues a format conversion from tb's consumer slot into ta's producer slot. -/
  | tconv (t : TileH) (u : TileH) (n : KIdx)
  /-- `GCOPY` (R240): Copies every object reachable from the root into a heap, preserving sharing, resumably. -/
  | gcopy (r : XReg) (w : XReg) (d : XReg)
  /-- `GSEND` (R243): Sends the reachable graph to a landing zone on another package with posted writes. -/
  | gsend (r : XReg) (w : XReg) (d : XReg)
  /-- `GCMP` (R245): Walks two graphs in lockstep and reports the first difference. -/
  | gcmp (r : XReg) (w : XReg) (d : XReg)
  /-- `GHASH` (R244): Computes SHA-256 over the canonical token stream of the graph. -/
  | ghash (r : XReg) (w : XReg) (d : XReg)
  /-- `GREL` (R246): Marks dead every reachable object of one heap and counts the words released. -/
  | grel (r : XReg) (w : XReg) (d : XReg)
  /-- `OALLOC` (R242): Allocates and initialises one object from a heap descriptor. -/
  | oalloc (r : XReg) (w : XReg) (d : XReg)
  /-- `LMDEF` (R247): Defines or removes one layout map entry from an image. -/
  | lmdef (r : XReg)
  /-- `GLAND` (R248): Arms a landing zone at a base with a size, mailbox and zone number. -/
  | gland (r : XReg) (w : XReg) (d : XReg)
  /-- `SEND` (R272): Composes a message and injects it, logging it or holding it in the Escrow inside an event. -/
  | send (a : XReg) (b : XReg) (v : VReg) (m : Mbox) (p : Fin 4)
  /-- `RECV` (R274): Waits for a deliverable message in one mailbox and takes it, beginning an event for ORD-OPT. -/
  | recv (a : XReg) (v : VReg) (m : Mbox)
  /-- `RECV_SET` (R274): Waits for a deliverable message in a set of mailboxes and takes the one R270 selects. -/
  | recvSet (a : XReg) (b : XReg) (v : VReg)
  /-- `PEEK` (R275): Reads a deliverable message of one mailbox without removing it or waiting. -/
  | peek (a : XReg) (v : VReg) (m : Mbox)
  /-- `PEEK_SET` (R275): Reads a deliverable message of a mailbox set without removing it. -/
  | peekSet (a : XReg) (b : XReg) (v : VReg)
  /-- `REQ` (R273): Sends a request message carrying a reply address. -/
  | req (a : XReg) (b : XReg) (v : VReg) (m : Mbox) (p : Fin 4)
  /-- `MBXDEF` (R276): Writes a mailbox table entry from a captured image. -/
  | mbxdef (a : XReg) (m : Mbox)
  /-- `MBXQ` (R277): Reads a mailbox's occupancy, mode and state into xa. -/
  | mbxq (a : XReg) (m : Mbox)
  /-- `EVEND` (R287): Ends the open event and waits until GVT passes its LVT. -/
  | evend
  /-- `VTGET_LVT` (R288): Reads LVT into xd. -/
  | vtgetLvt (d : XReg)
  /-- `VTGET_GVT` (R288): Reads the die's GVT into xd. -/
  | vtgetGvt (d : XReg)
  /-- `VTGET_EVID` (R288): Reads EVID into xd. -/
  | vtgetEvid (d : XReg)
  /-- `ESCST` (R289): Holds an 8-byte store in the Escrow until release. -/
  | escst (d : XReg) (a : XReg)
  /-- `ESCWAIT` (R290): Ends any open event and waits until the thread owns no Escrow entry. -/
  | escwait
  /-- `TASKNEW` (R292): Arms a task record with a counter, queuing it at once when the count is 0. -/
  | tasknew (d : XReg) (a : XReg) (b : OpB)
  /-- `TASKDEC` (R293): Sends a decrement to a task record. -/
  | taskdec (a : XReg)
  /-- `BARNEW` (R314): Allocates a barrier entry and returns its handle, or 0. -/
  | barnew (d : XReg) (a : XReg)
  /-- `BARARR` (R314): Fences, then arrives at the barrier and completes the round at COUNT. -/
  | bararr (d : XReg) (a : XReg)
  /-- `BARWAIT` (R314): Waits until the barrier's round differs from the given one. -/
  | barwait (a : XReg) (b : OpB)
  /-- `BARARW` (R314): Arrives and then waits for the round to complete. -/
  | bararw (d : XReg) (a : XReg)
  /-- `BARFREE` (R314): Frees the barrier entry. -/
  | barfree (a : XReg)
  /-- `SPAWN` (R295): Starts a thread of the population in a free slot of the core. -/
  | spawn (d : XReg) (a : XReg) (b : OpB)
  /-- `MIGR` (R296): Packs the thread into an on-die message bound for the core beneath a vault. -/
  | migr (d : XReg) (a : XReg)
  /-- `SLOTQ` (R297): Reads a slot's state, partition and population. -/
  | slotq (d : XReg) (a : XReg)
  /-- `TKGET` (R316): Sends a ticket request to the entry's port. -/
  | tkget (a : XReg) (b : XReg)
  /-- `TKWAIT` (R316): Waits until the ticket word has CALLED set. -/
  | tkwait (d : XReg) (a : XReg)
  /-- `TKDONE` (R316): Sends an advance of b to the ticket entry's port. -/
  | tkdone (a : XReg) (b : OpB)
  /-- `FDRAIN` (R316): Waits until the thread's fabric writes and posted atomics are acknowledged and counts refusals. -/
  | fdrain (d : XReg)
  /-- `LKEY` (R320): Loads a key image into a link key slot, or refuses. -/
  | lkey (d : XReg) (a : XReg) (s : Fin 2) (p : Port)
  /-- `LKSW` (R320): Seals a marker under the current key and switches sending to the other slot. -/
  | lksw (d : XReg) (p : Port)
  /-- `LKINJ` (R320): Arms a one-bit corruption of the first sealing of a SEQ. -/
  | lkinj (a : XReg) (p : Port)
  /-- `LKSTAT` (R320): Reads link status, injection arming and replay occupancy. -/
  | lkstat (d : XReg) (p : Port)
  /-- `CTXSAVE` (R346): Seals a parked protected slot's context into an image and advances the save counter. -/
  | ctxsave (d : XReg) (a : XReg)
  /-- `CTXSAVE_EVICT` (R346): Seals the context, then releases registers, zeroes the region and frees the slot as reserved. -/
  | ctxsaveEvict (d : XReg) (a : XReg)
  /-- `CTXLOAD` (R347): Checks, decrypts and restores an image into a free slot, or traps STALE or TAGFAIL. -/
  | ctxload (d : XReg) (a : XReg)
  /-- `CTXKEY_NEW` (R345): Creates a context key entry with a fresh key for a partition. -/
  | ctxkeyNew (d : XReg) (a : XReg)
  /-- `CTXKEY_SEL` (R345): Selects a key entry for CTXSC. -/
  | ctxkeySel (a : XReg)
  /-- `CTXKEY_BIND` (R345): Binds a parked slot to a key and region and makes it protected. -/
  | ctxkeyBind (d : XReg) (a : XReg)
  /-- `CTXKEY_FREE` (R345): Frees a key entry that is not live, keeping SC. -/
  | ctxkeyFree (a : XReg)
  /-- `SHDEF` (R306): Writes or removes a shape record of a partition and drops captured copies. -/
  | shdef (d : XReg) (a : XReg)
  /-- `XINV_START` (R80): A crw of XINV starts an invalidation of the die's translation caches for the chosen scope and sets BUSY. -/
  | xinvStart (d : DieId) (v : Word)
  /-- `XINV_DONE` (R309): Every translation cache of the die has dropped the entries, and XINV.BUSY clears. -/
  | xinvDone (d : DieId)
  /-- `CLKL_WRITE` (R339): A crw of CLKL sets the package limit and announces a LIMIT or a raise under the group protocol. -/
  | clklWrite (v : Word)
  /-- `TS_WRITE` (R78): A crw of TS sets or clears OPT, ending an open event as evend does when it clears OPT. -/
  | tsWrite (c : CoreId) (sl : SlotId) (opt : Bool)
  /-- `PHASE_COMPLETE` (R172): Once every member has arrived, applies the population's buffered and spilled stores and joined inbound writes to committed memory and releases the members. -/
  | phaseComplete (pop : BitVec 32)
  /-- `ENGINE_ENQUEUE` (R204): Once the tiles, queue space and allowance are ready, enqueues the command and makes its claims in one step. -/
  | engineEnqueue (c : CoreId) (sl : SlotId)
  /-- `MATRIX_ARBITER_PASS` (R203): The cluster arbiter executes one matrix pass of a core's queue head, forming outputs per R97 and updating the status word. -/
  | matrixArbiterPass (d : DieId) (k : ClusterId)
  /-- `WLOAD_COMPLETE` (R216): The weights are latched after 576 cycles and the tile's reader count falls. -/
  | wloadComplete (d : DieId) (k : ClusterId)
  /-- `WDROP_EXECUTE` (R218): At the queue head, clears the weight slot's HOLDER. -/
  | wdropExecute (d : DieId) (k : ClusterId)
  /-- `MATRIX_COMMAND_COMPLETE` (R217): The last pass of an mma or mmaz ends; PEND falls and the result tile becomes READY at zero PEND. -/
  | matrixCommandComplete (d : DieId) (k : ClusterId)
  /-- `COPY_COMMAND_COMPLETE` (R220): The copy engine finishes a tcopy, tfill or tconv, sets BYTES and makes the slot READY or drops a reader. -/
  | copyCommandComplete (d : DieId) (k : ClusterId)
  /-- `DEC_BLOCK_START` (R224): The decompression engine reads a block header and, once the producer slot is EMPTY, claims it and records the stall. -/
  | decBlockStart (d : DieId) (k : ClusterId)
  /-- `DEC_BLOCK_COMPLETE` (R227): A decoded block's CRC is checked; the slot becomes READY or EMPTY with an error after its status word is committed. -/
  | decBlockComplete (d : DieId) (k : ClusterId)
  /-- `MINT_STEP` (R235): The Mint performs one traversal step, examining one pointer word and visiting a new target. -/
  | mintStep (c : CoreId) (sl : SlotId)
  /-- `MINT_STOP_POINT` (R236): Between steps the Mint commits the record and takes a pending trap or rotation, or asks for a further allowance. -/
  | mintStopPoint (c : CoreId) (sl : SlotId)
  /-- `GSEND_FINISH` (R243): After acknowledgements, writes the size list and then the end header of the zone. -/
  | gsendFinish (c : CoreId) (sl : SlotId)
  /-- `ZONE_WRITE_ACCEPT` (R248): An inbound write into an armed landing zone is accepted and sets RECEIVING and SRC. -/
  | zoneWriteAccept (w : InWrite)
  /-- `ZONE_END_WRITE` (R249): An accepted end write starts the zone's checks and pointer rewrite. -/
  | zoneEndWrite (w : InWrite)
  /-- `ZONE_COMPLETE` (R249): The rewrites are committed; the completion message is posted and the zone becomes DONE. -/
  | zoneComplete (c : CoreId) (z : ZoneId)
  /-- `MESSAGE_ARRIVAL` (R269): A positive or request message reaches a mailbox and is accepted, refused or forwarded. -/
  | messageArrival (n : Nat)
  /-- `ANTI_MESSAGE_ARRIVAL` (R284): An anti-message annihilates its partner, triggers a rollback first, or is discarded. -/
  | antiMessageArrival (n : Nat)
  /-- `ROLLBACK` (R283): At the owner's next boundary, undoes newer events, sends anti-messages, returns messages, discards Escrow entries and restores the checkpoint. -/
  | rollback (c : CoreId) (sl : SlotId)
  /-- `CLEARING_CUT` (R333): At a TSC multiple of the round period, every die of the domain flips its colour and takes its contribution. -/
  | clearingCut (r : ClearingStart)
  /-- `CLEARING_ROUND_CLOSE` (R334): When old-colour sends equal receipts, the I/O dies reduce the minimum to G. -/
  | clearingRoundClose (dom : BitVec 16) (ext : ClearingSums)
  /-- `GVT_PUBLISH` (R334): Each die writes GVT as the maximum of itself and G, frees final events' logs and releases Escrow entries. -/
  | gvtPublish (d : DieId)
  /-- `TASK_DECREMENT` (R293): A decrement at the record's port lowers COUNT and queues the task at zero, or is refused. -/
  | taskDecrement (n : Nat)
  /-- `TASK_START` (R293): The home core starts the next run-list task when a slot is free. -/
  | taskStart (c : CoreId)
  /-- `STAGE_HANDLER_START` (R294): The core starts a handler thread when occupancy, run count and downstream occupancy allow. -/
  | stageHandlerStart (c : CoreId) (mb : Mbox)
  /-- `MIGRATION_ARRIVAL` (R152): A migrated context is written into a free slot, which becomes READY with new SLOT and CORE. -/
  | migrationArrival (n : Nat)
  /-- `TICKET_REQUEST` (R317): At the port, assigns the next ticket number and writes or queues the ticket word. -/
  | ticketRequest (r : TicketIn)
  /-- `TICKET_ADVANCE` (R317): At the port, raises CALL and writes CALLED to each newly called number. -/
  | ticketAdvance (r : TicketIn)
  /-- `FLIT_SEAL` (R321): The port seals a flit under the sending key slot and counts the invocation. -/
  | flitSeal (p : Port)
  /-- `LINK_DATA_FLIT` (R326): A received data flit is authenticated and accepted in SEQ order, or dropped and NAKed. -/
  | linkDataFlit (p : Port) (f : List Byte)
  /-- `LINK_MARKER_FLIT` (R321): A received marker switches the receive slot. -/
  | linkMarkerFlit (p : Port) (f : List Byte)
  /-- `LINK_ACK_FLIT` (R326): An acknowledgement frees acknowledged flits from the replay buffer and may end a key switch. -/
  | linkAckFlit (p : Port) (f : List Byte)
  /-- `LINK_NAK_FLIT` (R321): A NAK replays go-back-N from its ACK under the current key. -/
  | linkNakFlit (p : Port) (f : List Byte)
  /-- `LINK_ACK_TIMEOUT` (R326): A data flit unacknowledged for 2 microseconds makes the port seal an acknowledgement-only flit. -/
  | linkAckTimeout (p : Port)
  /-- `LINK_TRAINING` (R326): Link training sets both SEQ counts to 0 and UP to 1. -/
  | linkTraining (l : TrainedLink)
  /-- `LINK_LOSS` (R321): Link loss clears both key slots and UP and raises LINK SUB 2. -/
  | linkLoss (p : Port)
  /-- `WAIT_WAKE` (R134): A waiting slot's condition holds and it becomes READY within 64 cycles, resuming its waiting instruction. -/
  | waitWake (c : CoreId) (sl : SlotId)
  /-- `TRAP_DELIVERY` (R144): Slot 15 in WAIT takes the oldest trap record into TCAUSE, TVAL, TPC and TTS and becomes READY. -/
  | trapDelivery (c : CoreId)
  /-- `SUPERVISOR_RESTART` (R357): The firmware restarts a stopped slot 15 at its entry and posts SVFAULT. -/
  | supervisorRestart (c : CoreId)
  /-- `TIMER_DEADLINE` (R79): When TSC reaches TIMER.DEADLINE the core raises INTR and clears the deadline. -/
  | timerDeadline (c : CoreId)
  /-- `WATCHDOG` (R330): When TSC - LAST reaches the window, the core raises WATCHDOG and counts FIRES. -/
  | watchdog (c : CoreId) (i : Fin 15)
  /-- `BANK_LOCK_STORE` (R140): A supervisor store to BLOCK locks or unlocks vault banks. -/
  | bankLockStore (c : CoreId) (mask : BitVec 16)
  /-- `BANK_LOCK_TIMEOUT` (R140): 256 cycles after a lock the device releases it and raises LOCKTIME. -/
  | bankLockTimeout (c : CoreId)
  /-- `ROT_STORE` (R149): A store to ROT starts a barrel-slot rotation toward INPART. -/
  | rotStore (c : CoreId) (v : Word)
  /-- `SLOT_ROTATION` (R149): At its first owned cycle a slot's context is saved, PARTMAP changes and the incoming frame is loaded. -/
  | slotRotation (c : CoreId) (sl : SlotId)
  /-- `RELOC_STORE` (R153): A store to RELOC starts or refuses a relocation of the core to TARGET. -/
  | relocStore (c : CoreId) (v : Word)
  /-- `RELOCATION_COMPLETE` (R153): Contexts, tables, messages and vault are copied; threads resume on TARGET and FWD is set. -/
  | relocationComplete (c : CoreId)
  /-- `FWD_EXPIRY` (R154): 1 ms after relocation the device clears FWD.V. -/
  | fwdExpiry (c : CoreId)
  /-- `INBOUND_FABRIC_WRITE` (R175): A write from another package or a front port is checked and committed or joins a shared-range phase. -/
  | inboundFabricWrite (w : InWrite)
  /-- `FABRIC_ACK` (R18): An acknowledgement of a fabric write or posted atomic returns to the sender, with flags for a float atomic. -/
  | fabricAck (tag : Word) (flags : BitVec 5)
  /-- `FABRIC_REFUSAL` (R159): A refusal returns to the sender and is reported as FABERR. -/
  | fabricRefusal (tag : Word)
  /-- `POSTED_ATOMIC` (R181): A posted atomic acts at the target port or is refused. -/
  | postedAtomic (a : InAtomic)
  /-- `REDUCTION_CONTRIBUTION` (R189): A contribution reaches the root switch and is counted in a round or held for the next. -/
  | reductionContribution (a : InAtomic)
  /-- `REDUCTION_RESULT_APPLY` (R189): The merged round result is applied at the home port, DONE rises and contributions are acknowledged. -/
  | reductionResultApply (n : Nat)
  /-- `RING_NOTIFY` (R255): A store to a ring's notify word sets LRN and maps the ring to an active slot or marks it pending. -/
  | ringNotify (r : RingId) (part : Part)
  /-- `MAPPER_MAP_PENDING` (R255): A pending ring is mapped in notify order when a slot frees or idles. -/
  | mapperMapPending
  /-- `RING_DEFINE` (R252): A service-core store of V defines a ring and resets RD. -/
  | ringDefine (r : RingId) (v : Word)
  /-- `RECORD_ACCEPT` (R256): An active slot captures the published record at RD, journals it and advances RD. -/
  | recordAccept (q : ActiveId)
  /-- `LAUNCH` (R256): A LAUNCH record waits at the ring head until its population can be placed. -/
  | launch (q : ActiveId)
  /-- `POPULATION_PLACEMENT` (R17): The front end fills the quota slots of every named core, writes the windows and marks the journal PLACED. -/
  | populationPlacement (q : ActiveId)
  /-- `WAITQ` (R256): A WAITQ record completes when its word's condition holds. -/
  | waitq (q : ActiveId)
  /-- `SIGNAL` (R256): After earlier records complete, stores or adds a value to a word. -/
  | signal (q : ActiveId)
  /-- `MARK` (R256): Completes once every earlier record of the ring has completed. -/
  | mark (q : ActiveId)
  /-- `POPULATION_FINISH` (R18): When all threads have halted, writes are acknowledged and Escrow is empty, the front end writes the completion record and frees slots and tiles. -/
  | populationFinish (pop : BitVec 32)
  /-- `KDA_WRITE` (R263): A WRITE datagram is checked and written as an inbound write, then acknowledged. -/
  | kdaWrite (g : Datagram)
  /-- `KDA_RINGPUT` (R263): A RINGPUT writes a ring record and notifies, or is answered as duplicate or full. -/
  | kdaRingput (g : Datagram)
  /-- `KDA_NOTIFY` (R263): A NOTIFY datagram notifies the ring and is acknowledged. -/
  | kdaNotify (g : Datagram)
  /-- `KDA_ACK` (R264): A received ACK ends retransmission of its datagram and halves RATE when ECE is set. -/
  | kdaAck (g : Datagram)
  /-- `KDA_NAK` (R264): A received NAK ends retransmission of its datagram and halves RATE when ECE is set. -/
  | kdaNak (g : Datagram)
  /-- `KDA_RETRANSMIT` (R264): An unacknowledged datagram is retransmitted after a timeout. -/
  | kdaRetransmit (p : Part) (id : Word)
  /-- `KDA_RATE_RAISE` (R264): Each 100 microseconds without an ECE echo adds 400 to RATE. -/
  | kdaRateRaise (p : Part)
  /-- `KDA_TRANSMIT` (R264): The partition's transmit queue sends its next datagram at RATE. -/
  | kdaTransmit (p : Part)
  /-- `TREASURY_REFILL` (R335): At each TSC multiple of 1,000, TRSY is reset to TRBUD and queued requests are granted in order. -/
  | treasuryRefill (d : DieId)
  /-- `GROUP_REQ_STORE` (R340): A store to the clock block's REQ requests a join or leave effective at RND + 2. -/
  | groupReqStore (v : Word)
  /-- `GROUP_LIMIT` (R339): A received LIMIT write schedules a ceiling change at its effective time. -/
  | groupLimit (g : GroupMsg)
  /-- `GROUP_ACK` (R339): A received ACK of a raise is recorded toward the raise taking effect. -/
  | groupAck (g : GroupMsg)
  /-- `GROUP_JOIN` (R340): A received JOIN schedules a member's entry at its round. -/
  | groupJoin (g : GroupMsg)
  /-- `GROUP_LEAVE` (R340): A received LEAVE schedules a member's exit at its round. -/
  | groupLeave (g : GroupMsg)
  /-- `GROUP_BEAT` (R341): A received heartbeat ends a member's silence. -/
  | groupBeat (g : GroupMsg)
  /-- `BEAT_SEND` (R341): Every 100 microseconds each member sends a BEAT. -/
  | beatSend
  /-- `MEMBER_SILENT` (R341): 500 microseconds without a BEAT counts the member in SILENT and floors the ceiling. -/
  | memberSilent (pkg : BitVec 16)
  /-- `MEMBER_EXPEL` (R341): A member silent for 5 ms is expelled and GROUPX is posted. -/
  | memberExpel (pkg : BitVec 16)
  /-- `CEILING_CHANGE` (R339): A scheduled ceiling change takes effect at its effective time or round boundary and sets CLKC. -/
  | ceilingChange (d : DieId)
  /-- `MEMBERSHIP_EFFECT` (R340): A join or leave takes effect at its round EFF and updates STATE and MEMB. -/
  | membershipEffect
  /-- `PACKAGE_RESET` (R353): The root of trust verifies firmware, zeroes memory, releases the dies and starts the service OS, or enters recovery. -/
  | packageReset
  /-- `RECOVERY_IMAGE` (R354): A firmware image arriving in recovery is verified and written to both slots, or discarded. -/
  | recoveryImage (fw : Firmware)
  /-- `PARTITION_RESET` (R359): A store of GO resets a partition: queues, slots, buffers, tables and banks, then posts PARTRESET. -/
  | partitionReset (p : Part)
  /-- `SYSCALL_DOORBELL` (R358): A supervisor store of an index to the doorbell posts SYSCALLQ. -/
  | syscallDoorbell (v : Word)
  /-- `SYSCALL_REPLY` (R358): A service-core store to the reply word raises INTR SUB 2 at the record's core. -/
  | syscallReply (v : Word)
  /-- `EVENT_BLOCK_CLEAR` (R356): A service-core write of 1 clears PEND or OVR of an event word. -/
  | eventBlockClear (e : Fin 7) (v : Word)
  /-- `VAULT_SOFT_ERROR` (R360): A vault SRAM error is corrected and counted, or poisons the word. -/
  | vaultSoftError (c : CoreId) (word : BitVec 21) (fatal : Bool)
  /-- `SERVICE_DATA_ERROR` (R360): An uncorrectable error in service data resets its partition or quiesces all for a warm restart. -/
  | serviceDataError (p : Option Part)
  /-- `WARM_RESTART_COMPLETE` (R360): The service complex restart completes, partitions resume and pending SYSCALLs end ABORTED. -/
  | warmRestartComplete
  /-- `RESTART_TIMEOUT` (R360): A restart not complete 2 s after the error resets every partition. -/
  | restartTimeout
  /-- `CORE_RETIREMENT` (R361): The firmware moves a failing core to a spare, updates the core map and posts CORERET. -/
  | coreRetirement (c : CoreId)
  /-- `PAGE_RETIREMENT` (R362): The firmware copies a failing HBM page to a spare and posts PGRETIRE. -/
  | pageRetirement (page : BitVec 28) (failed : BitVec 512) (spare : Bool)
  /-- `THERMAL_HOLD` (R363): A cooling failure holds compute issue and posts THERMAL with bit 0 set. -/
  | thermalHold
  /-- `THERMAL_RESUME` (R363): At the resume temperature the package lowers its limit, releases issue and posts THERMAL with bit 0 clear. -/
  | thermalResume
  /-- `ILLEGAL_INSTRUCTION` (R43): A fetched word with a reserved major, reserved fn or selector, or a non-zero must-be-zero field traps ILLOP precisely. -/
  | illegalInstruction (w : BitVec 32)
  /-- `INSTRUCTION_FETCH_FAULT` (R30): A fetch of the word at PC that lacks execute rights, does not translate, is remote or is poisoned traps PROT, XLAT, NOREMLD or POISON. -/
  | instructionFetchFault
  /-- `TIME_STAMP_COUNTER_TICK` (R331): Each nanosecond the die's TSC advances by one, skipping or repeating a count as domain synchronisation requires. -/
  | timeStampCounterTick (d : DieId) (n : Fin 3)
  /-- `THERMAL_POWER_LIMIT_CHANGE` (R339): The package's own thermal and power control changes its limit, and the package announces a LIMIT or a raise to its group. -/
  | thermalPowerLimitChange (mhz : BitVec 16)
  /-- `SPDM_MEASUREMENT_REQUEST` (R353): The management sideband answers an SPDM 1.3 measurement request with the accepted firmware slot's digest. -/
  | spdmMeasurementRequest
  deriving DecidableEq, Repr

end Sys2Proof
end

