-- ==== Sys2Proof/WellFormed.lean ====
section
/-! DEFINITION. The rules that tie the fields of an instruction word together: a term that breaks one has no
word, and a word that breaks one traps ILLOP (02_encoding R35-R40, R43). -/

namespace Sys2Proof

/-- A B-format branch may not test the negation of p0 (R38). -/
def branchOk (p : PReg) (n : Bool) : Bool := !(p == 0 && n)

/-- A block of four constant-window words begins at or below k252 (R39). -/
def blockOk (n : KIdx) : Bool := n.val ≤ 252

/-- A post-increment load may not load its own base register (R36). -/
def loadOk (t : XReg) : MemForm → Bool
  | .post a _ => t != a
  | _ => true

/-- A cond and type pair that R41 reserves: unord and ord with i32. -/
def cmpOk : CmpFmt → Bool
  | .i32 => false
  | _ => true

/-- The well-formed instructions (R35-R40, R43, R75, R126). The steps of the device are not encoded, and
each of them is well formed. -/
def Instr.wellFormed : Instr → Bool
  | .ld t _ mem => loadOk t mem
  | .ldz t z mem => loadOk t mem && z != .d
  | .stp _ z _ => z == .w || z == .d
  | .br p n _ => branchOk p n
  | .bdec p n _ _ => branchOk p n
  | .brst _ f _ => f != 0
  | .valloc n => 1 ≤ n.toNat && n.toNat ≤ 4
  | .crw _ r => r.writable
  | .vextr w _ _ l => l.val < w.lanes
  | .vins _ w _ l => l.val < w.lanes
  | .vcmpUnord _ _ _ _ t => cmpOk t
  | .vcmpOrd _ _ _ _ t => cmpOk t
  | .vunpk _ _ n f => n.val < f.blocks
  | .vpack _ _ n f => n.val < f.blocks
  | .tldef _ n => blockOk n
  | .wload _ _ n => blockOk n
  | .mma _ _ _ n => blockOk n
  | .mmaz _ _ _ n => blockOk n
  | .tcopyIn _ n => blockOk n
  | .tcopyOut _ n => blockOk n
  | .dec _ n => blockOk n
  | .tfill _ n => blockOk n
  | .tconv _ _ n => blockOk n
  | _ => true

end Sys2Proof
end

