-- ==== Sys2Proof/Decode.lean ====
section
/-! DEFINITION. Decoding an instruction word and encoding an instruction, both written from the formats and
the opcode map (02_encoding R32-R45). The functions that build a term of one of the later constructors are
marked noncomputable because Lean's compiled code allows no more than 245 constructors with fields in one
inductive; Lean's kernel evaluates them all. -/

namespace Sys2Proof

/-- Why a word is no instruction: every one of these traps ILLOP (R43). -/
inductive DecodeError where
  | reservedMajor
  | reservedFunction
  | reservedSelector
  | nonzeroField
  | pairing
  | noSuchRegister
  deriving DecidableEq, Repr

/-- The instruction `i` where the fixed fields of its word hold what they must (R40, R43). -/
def need (c : Prop) [Decidable c] (i : Instr) : Except DecodeError Instr :=
  if c then .ok i else .error .nonzeroField

/-- Operand b of formats A and P, with the pairing rule of R35. -/
def opB (w : Nat) : Except DecodeError OpB :=
  if bits w 13 1 = 1 then
    if bits w 14 4 = 0 then .ok (.k (Fin.ofNat 256 (bits w 0 8))) else .error .pairing
  else
    if bits w 0 8 = 0 then .ok (.reg (Fin.ofNat 16 (bits w 14 4))) else .error .pairing

/-- Operand b as the bits of its word (R35). -/
def OpB.bits : OpB → Nat
  | .reg x => x.val * 2 ^ 14
  | .k n => 2 ^ 13 + n.val

/-- The address form of format M (R36). -/
def memForm (w : Nat) : Except DecodeError MemForm :=
  match Sys2Proof.bits w 14 2 with
  | 0 => .ok (.off (Fin.ofNat 16 (bits w 18 4)) (BitVec.ofNat 14 (bits w 0 14)))
  | 1 => .ok (.post (Fin.ofNat 16 (bits w 18 4)) (BitVec.ofNat 14 (bits w 0 14)))
  | 2 =>
    if bits w 0 10 = 0 then .ok (.idx (Fin.ofNat 16 (bits w 18 4)) (Fin.ofNat 16 (bits w 10 4)))
    else .error .pairing
  | _ =>
    if bits w 8 6 = 0 ∧ bits w 18 4 = 0 then .ok (.kAddr (Fin.ofNat 256 (bits w 0 8)))
    else .error .pairing

/-- The address form as the bits of its word (R36). -/
def MemForm.bits : MemForm → Nat
  | .off a o => a.val * 2 ^ 18 + o.toNat
  | .post a o => a.val * 2 ^ 18 + 2 ^ 14 + o.toNat
  | .idx a i => a.val * 2 ^ 18 + 2 ^ 15 + i.val * 2 ^ 10
  | .kAddr n => 2 ^ 15 + 2 ^ 14 + n.val

/-- The register of a control-register number; a number that names none is a decode failure (R45, R81). -/
def crNumber (n : Nat) : Except DecodeError Cr :=
  if 0x300 ≤ n ∧ n < 0x400 then
    let p : Port := Fin.ofNat 16 (n / 16 % 16)
    match n % 16 with
    | 0 => .ok (.lkc0 p) | 1 => .ok (.lkc1 p) | 2 => .ok (.lkth p)
    | 3 => .ok (.lkaf p) | 4 => .ok (.lkrt p) | 5 => .ok (.lksta p)
    | _ => .error .noSuchRegister
  else
    match Cr.plain.find? (fun r => r.num == n) with
    | some r => .ok r
    | none => .error .noSuchRegister

/-- The lane width of a width field (R126). -/
def laneWidth : Nat → Except DecodeError LaneWidth
  | 0 => .ok .w | 1 => .ok .d | 2 => .ok .h | _ => .error .reservedSelector

/-- The PS format of a format field (R126). -/
def psFmt : Nat → Except DecodeError PsFmt
  | 0 => .ok .ps2 | 1 => .ok .ps4 | 2 => .ok .ps7 | _ => .error .reservedSelector

/-- The conversion of a conversion code (R130). -/
def conv : Nat → Except DecodeError Conv
  | 0 => .ok .f32i32 | 1 => .ok .f32n32 | 2 => .ok .i32f32 | 3 => .ok .n32f32
  | 4 => .ok .f32f16 | 5 => .ok .f32bf16 | 6 => .ok .f16f32 | 7 => .ok .bf16f32
  | 8 => .ok .f64f32 | 9 => .ok .f32f64 | 10 => .ok .f64i64 | 11 => .ok .i64f64
  | 12 => .ok .f16bf16 | 13 => .ok .bf16f16
  | _ => .error .reservedSelector

/-- The message priority of a pr field (R40). -/
def prio (n : Nat) : Except DecodeError (Fin 4) :=
  if h : n < 4 then .ok ⟨n, h⟩ else .error .reservedSelector

/-- The operations of major 0x00 (R41). -/
def decodeSys (wd : Nat) : Except DecodeError Instr :=
  match bits wd 0 6 with
  | 1 => need (bits wd 6 20 = 0) .nop
  | 2 => need (bits wd 6 20 = 0) .halt
  | 3 => need (bits wd 6 20 = 0) .yield
  | 4 => need (bits wd 14 4 = 0 ∧ bits wd 22 4 = 0) (.trap (Fin.ofNat 16 (bits wd 18 4)) (BitVec.ofNat 8 (bits wd 6 8)))
  | 5 => match bits wd 6 12 with
    | 0 => need (bits wd 18 8 = 0) .sret
    | 1 => need (bits wd 18 8 = 0) .sretHalt
    | 2 => need (bits wd 18 8 = 0) .sretAbort
    | _ => .error .reservedSelector
  | 6 => need (bits wd 18 8 = 0) (.brk (BitVec.ofNat 12 (bits wd 6 12)))
  | 7 => (crNumber (bits wd 6 12)).bind fun r => need (bits wd 18 4 = 0) (.crd (Fin.ofNat 16 (bits wd 22 4)) r)
  | 8 => (crNumber (bits wd 6 12)).bind fun r => need (bits wd 22 4 = 0) (.crw (Fin.ofNat 16 (bits wd 18 4)) r)
  | 9 => need (bits wd 6 16 = 0) (.tsc (Fin.ofNat 16 (bits wd 22 4)))
  | 10 => match bits wd 6 12 with
    | 0 => need (bits wd 18 8 = 0) .fenceCore
    | 1 => need (bits wd 18 8 = 0) .fenceDie
    | 2 => need (bits wd 18 8 = 0) .fencePkg
    | 3 => need (bits wd 18 8 = 0) .fenceDom
    | 4 => need (bits wd 18 8 = 0) .fenceL
    | 5 => need (bits wd 18 8 = 0) .fenceCb
    | _ => .error .reservedSelector
  | 11 => need (bits wd 6 20 = 0) .phase
  | 12 => need (bits wd 6 12 = 0 ∧ bits wd 22 4 = 0) (.watch (Fin.ofNat 16 (bits wd 18 4)))
  | 13 => need (bits wd 6 12 = 0) (.waitr (Fin.ofNat 16 (bits wd 22 4)) (Fin.ofNat 16 (bits wd 18 4)))
  | 14 => need (bits wd 18 8 = 0) (.valloc (BitVec.ofNat 12 (bits wd 6 12)))
  | 15 => need (bits wd 6 20 = 0) .vfree
  | 16 => match bits wd 6 12 with
    | 0 => need (bits wd 22 4 = 0) (.admitTake (Fin.ofNat 16 (bits wd 18 4)))
    | 1 => need (bits wd 18 4 = 0) (.admitEnd (Fin.ofNat 16 (bits wd 22 4)))
    | _ => .error .reservedSelector
  | 17 => need (bits wd 6 12 = 0) (.clkq (Fin.ofNat 16 (bits wd 22 4)) (Fin.ofNat 16 (bits wd 18 4)))
  | _ => .error .reservedFunction

/-- The operations of major 0x01 (R41). -/
def decodeAlu (wd : Nat) : Except DecodeError Instr :=
  match bits wd 8 5 with
  | 0 => (opB wd).bind fun b => .ok (.add (Fin.ofNat 16 (bits wd 22 4)) (Fin.ofNat 16 (bits wd 18 4)) b)
  | 1 => (opB wd).bind fun b => .ok (.sub (Fin.ofNat 16 (bits wd 22 4)) (Fin.ofNat 16 (bits wd 18 4)) b)
  | 2 => (opB wd).bind fun b => .ok (.mul (Fin.ofNat 16 (bits wd 22 4)) (Fin.ofNat 16 (bits wd 18 4)) b)
  | 3 => (opB wd).bind fun b => .ok (.mulh (Fin.ofNat 16 (bits wd 22 4)) (Fin.ofNat 16 (bits wd 18 4)) b)
  | 4 => (opB wd).bind fun b => .ok (.mulhn (Fin.ofNat 16 (bits wd 22 4)) (Fin.ofNat 16 (bits wd 18 4)) b)
  | 5 => (opB wd).bind fun b => .ok (.div (Fin.ofNat 16 (bits wd 22 4)) (Fin.ofNat 16 (bits wd 18 4)) b)
  | 6 => (opB wd).bind fun b => .ok (.divn (Fin.ofNat 16 (bits wd 22 4)) (Fin.ofNat 16 (bits wd 18 4)) b)
  | 7 => (opB wd).bind fun b => .ok (.rem (Fin.ofNat 16 (bits wd 22 4)) (Fin.ofNat 16 (bits wd 18 4)) b)
  | 8 => (opB wd).bind fun b => .ok (.remn (Fin.ofNat 16 (bits wd 22 4)) (Fin.ofNat 16 (bits wd 18 4)) b)
  | 9 => (opB wd).bind fun b => .ok (.and (Fin.ofNat 16 (bits wd 22 4)) (Fin.ofNat 16 (bits wd 18 4)) b)
  | 10 => (opB wd).bind fun b => .ok (.or (Fin.ofNat 16 (bits wd 22 4)) (Fin.ofNat 16 (bits wd 18 4)) b)
  | 11 => (opB wd).bind fun b => .ok (.xor (Fin.ofNat 16 (bits wd 22 4)) (Fin.ofNat 16 (bits wd 18 4)) b)
  | 12 => (opB wd).bind fun b => .ok (.andn (Fin.ofNat 16 (bits wd 22 4)) (Fin.ofNat 16 (bits wd 18 4)) b)
  | 13 => (opB wd).bind fun b => .ok (.shl (Fin.ofNat 16 (bits wd 22 4)) (Fin.ofNat 16 (bits wd 18 4)) b)
  | 14 => (opB wd).bind fun b => .ok (.shr (Fin.ofNat 16 (bits wd 22 4)) (Fin.ofNat 16 (bits wd 18 4)) b)
  | 15 => (opB wd).bind fun b => .ok (.sar (Fin.ofNat 16 (bits wd 22 4)) (Fin.ofNat 16 (bits wd 18 4)) b)
  | 16 => (opB wd).bind fun b => .ok (.rol (Fin.ofNat 16 (bits wd 22 4)) (Fin.ofNat 16 (bits wd 18 4)) b)
  | 17 => (opB wd).bind fun b => .ok (.min (Fin.ofNat 16 (bits wd 22 4)) (Fin.ofNat 16 (bits wd 18 4)) b)
  | 18 => (opB wd).bind fun b => .ok (.max (Fin.ofNat 16 (bits wd 22 4)) (Fin.ofNat 16 (bits wd 18 4)) b)
  | 19 => (opB wd).bind fun b => .ok (.minn (Fin.ofNat 16 (bits wd 22 4)) (Fin.ofNat 16 (bits wd 18 4)) b)
  | 20 => (opB wd).bind fun b => .ok (.maxn (Fin.ofNat 16 (bits wd 22 4)) (Fin.ofNat 16 (bits wd 18 4)) b)
  | 21 => (opB wd).bind fun b => .ok (.lea2 (Fin.ofNat 16 (bits wd 22 4)) (Fin.ofNat 16 (bits wd 18 4)) b)
  | 22 => (opB wd).bind fun b => .ok (.lea4 (Fin.ofNat 16 (bits wd 22 4)) (Fin.ofNat 16 (bits wd 18 4)) b)
  | 23 => (opB wd).bind fun b => .ok (.lea8 (Fin.ofNat 16 (bits wd 22 4)) (Fin.ofNat 16 (bits wd 18 4)) b)
  | 24 => (opB wd).bind fun b => .ok (.addw (Fin.ofNat 16 (bits wd 22 4)) (Fin.ofNat 16 (bits wd 18 4)) b)
  | _ => .error .reservedFunction

/-- The operations of major 0x02 (R41). -/
def decodeAlu2 (wd : Nat) : Except DecodeError Instr :=
  match bits wd 8 5 with
  | 0 => need (bits wd 0 8 = 0 ∧ bits wd 13 5 = 0) (.clz (Fin.ofNat 16 (bits wd 22 4)) (Fin.ofNat 16 (bits wd 18 4)))
  | 1 => need (bits wd 0 8 = 0 ∧ bits wd 13 5 = 0) (.ctz (Fin.ofNat 16 (bits wd 22 4)) (Fin.ofNat 16 (bits wd 18 4)))
  | 2 => need (bits wd 0 8 = 0 ∧ bits wd 13 5 = 0) (.pop (Fin.ofNat 16 (bits wd 22 4)) (Fin.ofNat 16 (bits wd 18 4)))
  | 3 => need (bits wd 0 8 = 0 ∧ bits wd 13 5 = 0) (.bswap (Fin.ofNat 16 (bits wd 22 4)) (Fin.ofNat 16 (bits wd 18 4)))
  | 4 => need (bits wd 0 8 = 0 ∧ bits wd 13 5 = 0) (.sextB (Fin.ofNat 16 (bits wd 22 4)) (Fin.ofNat 16 (bits wd 18 4)))
  | 5 => need (bits wd 0 8 = 0 ∧ bits wd 13 5 = 0) (.sextH (Fin.ofNat 16 (bits wd 22 4)) (Fin.ofNat 16 (bits wd 18 4)))
  | 6 => need (bits wd 0 8 = 0 ∧ bits wd 13 5 = 0) (.sextW (Fin.ofNat 16 (bits wd 22 4)) (Fin.ofNat 16 (bits wd 18 4)))
  | 7 => need (bits wd 0 8 = 0 ∧ bits wd 13 5 = 0) (.zextB (Fin.ofNat 16 (bits wd 22 4)) (Fin.ofNat 16 (bits wd 18 4)))
  | 8 => need (bits wd 0 8 = 0 ∧ bits wd 13 5 = 0) (.zextH (Fin.ofNat 16 (bits wd 22 4)) (Fin.ofNat 16 (bits wd 18 4)))
  | 9 => need (bits wd 0 8 = 0 ∧ bits wd 13 5 = 0) (.zextW (Fin.ofNat 16 (bits wd 22 4)) (Fin.ofNat 16 (bits wd 18 4)))
  | 10 => need (bits wd 0 8 = 0 ∧ bits wd 13 5 = 0) (.mov (Fin.ofNat 16 (bits wd 22 4)) (Fin.ofNat 16 (bits wd 18 4)))
  | 11 => (opB wd).bind fun b => .ok (.bfx (Fin.ofNat 16 (bits wd 22 4)) (Fin.ofNat 16 (bits wd 18 4)) b)
  | 12 => (opB wd).bind fun b => .ok (.bfi (Fin.ofNat 16 (bits wd 22 4)) (Fin.ofNat 16 (bits wd 18 4)) b)
  | _ => .error .reservedFunction

/-- The operations of major 0x03 (R41). -/
def decodeCmp (wd : Nat) : Except DecodeError Instr :=
  match bits wd 8 5 with
  | 0 => (opB wd).bind fun b => need (bits wd 22 1 = 0) (.cmpEq (Fin.ofNat 8 (bits wd 23 3)) (Fin.ofNat 16 (bits wd 18 4)) b)
  | 1 => (opB wd).bind fun b => need (bits wd 22 1 = 0) (.cmpNe (Fin.ofNat 8 (bits wd 23 3)) (Fin.ofNat 16 (bits wd 18 4)) b)
  | 2 => (opB wd).bind fun b => need (bits wd 22 1 = 0) (.cmpLt (Fin.ofNat 8 (bits wd 23 3)) (Fin.ofNat 16 (bits wd 18 4)) b)
  | 3 => (opB wd).bind fun b => need (bits wd 22 1 = 0) (.cmpGe (Fin.ofNat 8 (bits wd 23 3)) (Fin.ofNat 16 (bits wd 18 4)) b)
  | 4 => (opB wd).bind fun b => need (bits wd 22 1 = 0) (.cmpLtn (Fin.ofNat 8 (bits wd 23 3)) (Fin.ofNat 16 (bits wd 18 4)) b)
  | 5 => (opB wd).bind fun b => need (bits wd 22 1 = 0) (.cmpGen (Fin.ofNat 8 (bits wd 23 3)) (Fin.ofNat 16 (bits wd 18 4)) b)
  | 6 => (opB wd).bind fun b => need (bits wd 22 1 = 0) (.tstZ (Fin.ofNat 8 (bits wd 23 3)) (Fin.ofNat 16 (bits wd 18 4)) b)
  | 7 => (opB wd).bind fun b => need (bits wd 22 1 = 0) (.tstNz (Fin.ofNat 8 (bits wd 23 3)) (Fin.ofNat 16 (bits wd 18 4)) b)
  | _ => .error .reservedFunction

/-- The operations of major 0x08 (R41). -/
def decodeShi (wd : Nat) : Except DecodeError Instr :=
  match bits wd 6 2 with
  | 0 => need (bits wd 8 10 = 0) (.shli (Fin.ofNat 16 (bits wd 22 4)) (Fin.ofNat 16 (bits wd 18 4)) (Fin.ofNat 64 (bits wd 0 6)))
  | 1 => need (bits wd 8 10 = 0) (.shri (Fin.ofNat 16 (bits wd 22 4)) (Fin.ofNat 16 (bits wd 18 4)) (Fin.ofNat 64 (bits wd 0 6)))
  | 2 => need (bits wd 8 10 = 0) (.sari (Fin.ofNat 16 (bits wd 22 4)) (Fin.ofNat 16 (bits wd 18 4)) (Fin.ofNat 64 (bits wd 0 6)))
  | 3 => need (bits wd 8 10 = 0) (.roli (Fin.ofNat 16 (bits wd 22 4)) (Fin.ofNat 16 (bits wd 18 4)) (Fin.ofNat 64 (bits wd 0 6)))
  | _ => .error .reservedFunction

/-- The operations of major 0x0B (R41). -/
def decodeCmpi (wd : Nat) : Except DecodeError Instr :=
  match bits wd 20 3 with
  | 0 => .ok (.cmpiEq (Fin.ofNat 8 (bits wd 23 3)) (Fin.ofNat 16 (bits wd 16 4)) (BitVec.ofNat 16 (bits wd 0 16)))
  | 1 => .ok (.cmpiNe (Fin.ofNat 8 (bits wd 23 3)) (Fin.ofNat 16 (bits wd 16 4)) (BitVec.ofNat 16 (bits wd 0 16)))
  | 2 => .ok (.cmpiLt (Fin.ofNat 8 (bits wd 23 3)) (Fin.ofNat 16 (bits wd 16 4)) (BitVec.ofNat 16 (bits wd 0 16)))
  | 3 => .ok (.cmpiGe (Fin.ofNat 8 (bits wd 23 3)) (Fin.ofNat 16 (bits wd 16 4)) (BitVec.ofNat 16 (bits wd 0 16)))
  | 4 => .ok (.cmpiLtn (Fin.ofNat 8 (bits wd 23 3)) (Fin.ofNat 16 (bits wd 16 4)) (BitVec.ofNat 16 (bits wd 0 16)))
  | 5 => .ok (.cmpiGen (Fin.ofNat 8 (bits wd 23 3)) (Fin.ofNat 16 (bits wd 16 4)) (BitVec.ofNat 16 (bits wd 0 16)))
  | _ => .error .reservedFunction

/-- The operations of major 0x0C (R41). -/
def decodePred (wd : Nat) : Except DecodeError Instr :=
  match bits wd 0 5 with
  | 0 => need (bits wd 5 12 = 0) (.pand (Fin.ofNat 8 (bits wd 23 3)) (Fin.ofNat 8 (bits wd 20 3)) (Fin.ofNat 8 (bits wd 17 3)))
  | 1 => need (bits wd 5 12 = 0) (.por (Fin.ofNat 8 (bits wd 23 3)) (Fin.ofNat 8 (bits wd 20 3)) (Fin.ofNat 8 (bits wd 17 3)))
  | 2 => need (bits wd 5 12 = 0) (.pxor (Fin.ofNat 8 (bits wd 23 3)) (Fin.ofNat 8 (bits wd 20 3)) (Fin.ofNat 8 (bits wd 17 3)))
  | 3 => need (bits wd 5 12 = 0) (.pandn (Fin.ofNat 8 (bits wd 23 3)) (Fin.ofNat 8 (bits wd 20 3)) (Fin.ofNat 8 (bits wd 17 3)))
  | 4 => need (bits wd 5 15 = 0) (.pnot (Fin.ofNat 8 (bits wd 23 3)) (Fin.ofNat 8 (bits wd 20 3)))
  | 5 => need (bits wd 5 15 = 0) (.pmov (Fin.ofNat 8 (bits wd 23 3)) (Fin.ofNat 8 (bits wd 20 3)))
  | _ => .error .reservedFunction

/-- The operations of major 0x14 (R41). -/
def decodeAmo (wd : Nat) : Except DecodeError Instr :=
  match bits wd 8 4 with
  | 0 => need (bits wd 0 8 = 0 ∧ bits wd 13 1 = 0) (.amoAdd (Fin.ofNat 16 (bits wd 22 4)) (Fin.ofNat 16 (bits wd 18 4)) (Fin.ofNat 16 (bits wd 14 4)) (WordSize.ofCode (bits wd 12 1)))
  | 1 => need (bits wd 0 8 = 0 ∧ bits wd 13 1 = 0) (.amoAnd (Fin.ofNat 16 (bits wd 22 4)) (Fin.ofNat 16 (bits wd 18 4)) (Fin.ofNat 16 (bits wd 14 4)) (WordSize.ofCode (bits wd 12 1)))
  | 2 => need (bits wd 0 8 = 0 ∧ bits wd 13 1 = 0) (.amoOr (Fin.ofNat 16 (bits wd 22 4)) (Fin.ofNat 16 (bits wd 18 4)) (Fin.ofNat 16 (bits wd 14 4)) (WordSize.ofCode (bits wd 12 1)))
  | 3 => need (bits wd 0 8 = 0 ∧ bits wd 13 1 = 0) (.amoXor (Fin.ofNat 16 (bits wd 22 4)) (Fin.ofNat 16 (bits wd 18 4)) (Fin.ofNat 16 (bits wd 14 4)) (WordSize.ofCode (bits wd 12 1)))
  | 4 => need (bits wd 0 8 = 0 ∧ bits wd 13 1 = 0) (.amoMin (Fin.ofNat 16 (bits wd 22 4)) (Fin.ofNat 16 (bits wd 18 4)) (Fin.ofNat 16 (bits wd 14 4)) (WordSize.ofCode (bits wd 12 1)))
  | 5 => need (bits wd 0 8 = 0 ∧ bits wd 13 1 = 0) (.amoMax (Fin.ofNat 16 (bits wd 22 4)) (Fin.ofNat 16 (bits wd 18 4)) (Fin.ofNat 16 (bits wd 14 4)) (WordSize.ofCode (bits wd 12 1)))
  | 6 => need (bits wd 0 8 = 0 ∧ bits wd 13 1 = 0) (.amoMinn (Fin.ofNat 16 (bits wd 22 4)) (Fin.ofNat 16 (bits wd 18 4)) (Fin.ofNat 16 (bits wd 14 4)) (WordSize.ofCode (bits wd 12 1)))
  | 7 => need (bits wd 0 8 = 0 ∧ bits wd 13 1 = 0) (.amoMaxn (Fin.ofNat 16 (bits wd 22 4)) (Fin.ofNat 16 (bits wd 18 4)) (Fin.ofNat 16 (bits wd 14 4)) (WordSize.ofCode (bits wd 12 1)))
  | 8 => need (bits wd 0 8 = 0 ∧ bits wd 13 1 = 0) (.amoSwap (Fin.ofNat 16 (bits wd 22 4)) (Fin.ofNat 16 (bits wd 18 4)) (Fin.ofNat 16 (bits wd 14 4)) (WordSize.ofCode (bits wd 12 1)))
  | _ => .error .reservedFunction

/-- The operations of major 0x16 (R41). -/
def decodeVamo (wd : Nat) : Except DecodeError Instr :=
  match bits wd 0 4 with
  | 0 => need (bits wd 4 10 = 0) (.vamoAddI32 (Fin.ofNat 64 (bits wd 20 6)) (Fin.ofNat 16 (bits wd 16 4)) (Fin.ofNat 4 (bits wd 14 2)))
  | 1 => need (bits wd 4 10 = 0) (.vamoMinI32 (Fin.ofNat 64 (bits wd 20 6)) (Fin.ofNat 16 (bits wd 16 4)) (Fin.ofNat 4 (bits wd 14 2)))
  | 2 => need (bits wd 4 10 = 0) (.vamoMaxI32 (Fin.ofNat 64 (bits wd 20 6)) (Fin.ofNat 16 (bits wd 16 4)) (Fin.ofNat 4 (bits wd 14 2)))
  | 3 => need (bits wd 4 10 = 0) (.vamoMinnN32 (Fin.ofNat 64 (bits wd 20 6)) (Fin.ofNat 16 (bits wd 16 4)) (Fin.ofNat 4 (bits wd 14 2)))
  | 4 => need (bits wd 4 10 = 0) (.vamoMaxnN32 (Fin.ofNat 64 (bits wd 20 6)) (Fin.ofNat 16 (bits wd 16 4)) (Fin.ofNat 4 (bits wd 14 2)))
  | 5 => need (bits wd 4 10 = 0) (.vamoAnd (Fin.ofNat 64 (bits wd 20 6)) (Fin.ofNat 16 (bits wd 16 4)) (Fin.ofNat 4 (bits wd 14 2)))
  | 6 => need (bits wd 4 10 = 0) (.vamoOr (Fin.ofNat 64 (bits wd 20 6)) (Fin.ofNat 16 (bits wd 16 4)) (Fin.ofNat 4 (bits wd 14 2)))
  | 7 => need (bits wd 4 10 = 0) (.vamoXor (Fin.ofNat 64 (bits wd 20 6)) (Fin.ofNat 16 (bits wd 16 4)) (Fin.ofNat 4 (bits wd 14 2)))
  | 8 => need (bits wd 4 10 = 0) (.vamoAddF32 (Fin.ofNat 64 (bits wd 20 6)) (Fin.ofNat 16 (bits wd 16 4)) (Fin.ofNat 4 (bits wd 14 2)))
  | 9 => need (bits wd 4 10 = 0) (.vamoMinF32 (Fin.ofNat 64 (bits wd 20 6)) (Fin.ofNat 16 (bits wd 16 4)) (Fin.ofNat 4 (bits wd 14 2)))
  | 10 => need (bits wd 4 10 = 0) (.vamoMaxF32 (Fin.ofNat 64 (bits wd 20 6)) (Fin.ofNat 16 (bits wd 16 4)) (Fin.ofNat 4 (bits wd 14 2)))
  | 11 => need (bits wd 4 10 = 0) (.vamoAddBf16 (Fin.ofNat 64 (bits wd 20 6)) (Fin.ofNat 16 (bits wd 16 4)) (Fin.ofNat 4 (bits wd 14 2)))
  | _ => .error .reservedFunction

/-- The operations of major 0x1B (R41). -/
def decodeJr (wd : Nat) : Except DecodeError Instr :=
  match bits wd 8 5 with
  | 0 => need (bits wd 0 8 = 0 ∧ bits wd 13 5 = 0 ∧ bits wd 22 4 = 0) (.jmp (Fin.ofNat 16 (bits wd 18 4)))
  | 1 => need (bits wd 0 8 = 0 ∧ bits wd 13 5 = 0 ∧ bits wd 22 4 = 0) (.callr (Fin.ofNat 16 (bits wd 18 4)))
  | 2 => need (bits wd 0 8 = 0 ∧ bits wd 13 13 = 0) .ret
  | _ => .error .reservedFunction

/-- The operations of major 0x20 (R41). -/
def decodeVi (wd : Nat) : Except DecodeError Instr :=
  match bits wd 0 5 with
  | 0 => .ok (.vaddI32 (Fin.ofNat 64 (bits wd 20 6)) (Fin.ofNat 64 (bits wd 14 6)) (Fin.ofNat 64 (bits wd 8 6)) (Fin.ofNat 8 (bits wd 5 3)))
  | 1 => .ok (.vsubI32 (Fin.ofNat 64 (bits wd 20 6)) (Fin.ofNat 64 (bits wd 14 6)) (Fin.ofNat 64 (bits wd 8 6)) (Fin.ofNat 8 (bits wd 5 3)))
  | 2 => .ok (.vmulI32 (Fin.ofNat 64 (bits wd 20 6)) (Fin.ofNat 64 (bits wd 14 6)) (Fin.ofNat 64 (bits wd 8 6)) (Fin.ofNat 8 (bits wd 5 3)))
  | 3 => .ok (.vmulhI32 (Fin.ofNat 64 (bits wd 20 6)) (Fin.ofNat 64 (bits wd 14 6)) (Fin.ofNat 64 (bits wd 8 6)) (Fin.ofNat 8 (bits wd 5 3)))
  | 4 => .ok (.vminI32 (Fin.ofNat 64 (bits wd 20 6)) (Fin.ofNat 64 (bits wd 14 6)) (Fin.ofNat 64 (bits wd 8 6)) (Fin.ofNat 8 (bits wd 5 3)))
  | 5 => .ok (.vmaxI32 (Fin.ofNat 64 (bits wd 20 6)) (Fin.ofNat 64 (bits wd 14 6)) (Fin.ofNat 64 (bits wd 8 6)) (Fin.ofNat 8 (bits wd 5 3)))
  | 6 => .ok (.vminnI32 (Fin.ofNat 64 (bits wd 20 6)) (Fin.ofNat 64 (bits wd 14 6)) (Fin.ofNat 64 (bits wd 8 6)) (Fin.ofNat 8 (bits wd 5 3)))
  | 7 => .ok (.vmaxnI32 (Fin.ofNat 64 (bits wd 20 6)) (Fin.ofNat 64 (bits wd 14 6)) (Fin.ofNat 64 (bits wd 8 6)) (Fin.ofNat 8 (bits wd 5 3)))
  | 8 => .ok (.vandI32 (Fin.ofNat 64 (bits wd 20 6)) (Fin.ofNat 64 (bits wd 14 6)) (Fin.ofNat 64 (bits wd 8 6)) (Fin.ofNat 8 (bits wd 5 3)))
  | 9 => .ok (.vorI32 (Fin.ofNat 64 (bits wd 20 6)) (Fin.ofNat 64 (bits wd 14 6)) (Fin.ofNat 64 (bits wd 8 6)) (Fin.ofNat 8 (bits wd 5 3)))
  | 10 => .ok (.vxorI32 (Fin.ofNat 64 (bits wd 20 6)) (Fin.ofNat 64 (bits wd 14 6)) (Fin.ofNat 64 (bits wd 8 6)) (Fin.ofNat 8 (bits wd 5 3)))
  | 11 => .ok (.vshlI32 (Fin.ofNat 64 (bits wd 20 6)) (Fin.ofNat 64 (bits wd 14 6)) (Fin.ofNat 64 (bits wd 8 6)) (Fin.ofNat 8 (bits wd 5 3)))
  | 12 => .ok (.vshrI32 (Fin.ofNat 64 (bits wd 20 6)) (Fin.ofNat 64 (bits wd 14 6)) (Fin.ofNat 64 (bits wd 8 6)) (Fin.ofNat 8 (bits wd 5 3)))
  | 13 => .ok (.vsarI32 (Fin.ofNat 64 (bits wd 20 6)) (Fin.ofNat 64 (bits wd 14 6)) (Fin.ofNat 64 (bits wd 8 6)) (Fin.ofNat 8 (bits wd 5 3)))
  | 14 => need (bits wd 8 6 = 0) (.vabsI32 (Fin.ofNat 64 (bits wd 20 6)) (Fin.ofNat 64 (bits wd 14 6)) (Fin.ofNat 8 (bits wd 5 3)))
  | 15 => need (bits wd 8 6 = 0) (.vnegI32 (Fin.ofNat 64 (bits wd 20 6)) (Fin.ofNat 64 (bits wd 14 6)) (Fin.ofNat 8 (bits wd 5 3)))
  | 16 => .ok (.vaddsI32 (Fin.ofNat 64 (bits wd 20 6)) (Fin.ofNat 64 (bits wd 14 6)) (Fin.ofNat 64 (bits wd 8 6)) (Fin.ofNat 8 (bits wd 5 3)))
  | 17 => .ok (.vsubsI32 (Fin.ofNat 64 (bits wd 20 6)) (Fin.ofNat 64 (bits wd 14 6)) (Fin.ofNat 64 (bits wd 8 6)) (Fin.ofNat 8 (bits wd 5 3)))
  | _ => .error .reservedFunction

/-- The operations of major 0x21 (R41). -/
def decodeVf (wd : Nat) : Except DecodeError Instr :=
  match bits wd 0 5 with
  | 0 => .ok (.vaddF32 (Fin.ofNat 64 (bits wd 20 6)) (Fin.ofNat 64 (bits wd 14 6)) (Fin.ofNat 64 (bits wd 8 6)) (Fin.ofNat 8 (bits wd 5 3)))
  | 1 => .ok (.vsubF32 (Fin.ofNat 64 (bits wd 20 6)) (Fin.ofNat 64 (bits wd 14 6)) (Fin.ofNat 64 (bits wd 8 6)) (Fin.ofNat 8 (bits wd 5 3)))
  | 2 => .ok (.vmulF32 (Fin.ofNat 64 (bits wd 20 6)) (Fin.ofNat 64 (bits wd 14 6)) (Fin.ofNat 64 (bits wd 8 6)) (Fin.ofNat 8 (bits wd 5 3)))
  | 3 => .ok (.vdivF32 (Fin.ofNat 64 (bits wd 20 6)) (Fin.ofNat 64 (bits wd 14 6)) (Fin.ofNat 64 (bits wd 8 6)) (Fin.ofNat 8 (bits wd 5 3)))
  | 4 => need (bits wd 8 6 = 0) (.vsqrtF32 (Fin.ofNat 64 (bits wd 20 6)) (Fin.ofNat 64 (bits wd 14 6)) (Fin.ofNat 8 (bits wd 5 3)))
  | 5 => .ok (.vminF32 (Fin.ofNat 64 (bits wd 20 6)) (Fin.ofNat 64 (bits wd 14 6)) (Fin.ofNat 64 (bits wd 8 6)) (Fin.ofNat 8 (bits wd 5 3)))
  | 6 => .ok (.vmaxF32 (Fin.ofNat 64 (bits wd 20 6)) (Fin.ofNat 64 (bits wd 14 6)) (Fin.ofNat 64 (bits wd 8 6)) (Fin.ofNat 8 (bits wd 5 3)))
  | 7 => need (bits wd 8 6 = 0) (.vabsF32 (Fin.ofNat 64 (bits wd 20 6)) (Fin.ofNat 64 (bits wd 14 6)) (Fin.ofNat 8 (bits wd 5 3)))
  | 8 => need (bits wd 8 6 = 0) (.vnegF32 (Fin.ofNat 64 (bits wd 20 6)) (Fin.ofNat 64 (bits wd 14 6)) (Fin.ofNat 8 (bits wd 5 3)))
  | 9 => need (bits wd 8 6 = 0) (.vrcpF32 (Fin.ofNat 64 (bits wd 20 6)) (Fin.ofNat 64 (bits wd 14 6)) (Fin.ofNat 8 (bits wd 5 3)))
  | 10 => need (bits wd 8 6 = 0) (.vrsqrtF32 (Fin.ofNat 64 (bits wd 20 6)) (Fin.ofNat 64 (bits wd 14 6)) (Fin.ofNat 8 (bits wd 5 3)))
  | 11 => need (bits wd 8 6 = 0) (.vexp2F32 (Fin.ofNat 64 (bits wd 20 6)) (Fin.ofNat 64 (bits wd 14 6)) (Fin.ofNat 8 (bits wd 5 3)))
  | 12 => need (bits wd 8 6 = 0) (.vlog2F32 (Fin.ofNat 64 (bits wd 20 6)) (Fin.ofNat 64 (bits wd 14 6)) (Fin.ofNat 8 (bits wd 5 3)))
  | 13 => need (bits wd 8 6 = 0) (.vfloorF32 (Fin.ofNat 64 (bits wd 20 6)) (Fin.ofNat 64 (bits wd 14 6)) (Fin.ofNat 8 (bits wd 5 3)))
  | 14 => need (bits wd 8 6 = 0) (.vceilF32 (Fin.ofNat 64 (bits wd 20 6)) (Fin.ofNat 64 (bits wd 14 6)) (Fin.ofNat 8 (bits wd 5 3)))
  | 15 => need (bits wd 8 6 = 0) (.vrintF32 (Fin.ofNat 64 (bits wd 20 6)) (Fin.ofNat 64 (bits wd 14 6)) (Fin.ofNat 8 (bits wd 5 3)))
  | _ => .error .reservedFunction

/-- The operations of major 0x22 (R41). -/
def decodeVh (wd : Nat) : Except DecodeError Instr :=
  match bits wd 0 4 with
  | 0 => .ok (.vaddH (Fin.ofNat 64 (bits wd 20 6)) (Fin.ofNat 64 (bits wd 14 6)) (Fin.ofNat 64 (bits wd 8 6)) (Fin.ofNat 8 (bits wd 5 3)) (HalfFmt.ofCode (bits wd 4 1)))
  | 1 => .ok (.vsubH (Fin.ofNat 64 (bits wd 20 6)) (Fin.ofNat 64 (bits wd 14 6)) (Fin.ofNat 64 (bits wd 8 6)) (Fin.ofNat 8 (bits wd 5 3)) (HalfFmt.ofCode (bits wd 4 1)))
  | 2 => .ok (.vmulH (Fin.ofNat 64 (bits wd 20 6)) (Fin.ofNat 64 (bits wd 14 6)) (Fin.ofNat 64 (bits wd 8 6)) (Fin.ofNat 8 (bits wd 5 3)) (HalfFmt.ofCode (bits wd 4 1)))
  | 3 => .ok (.vminH (Fin.ofNat 64 (bits wd 20 6)) (Fin.ofNat 64 (bits wd 14 6)) (Fin.ofNat 64 (bits wd 8 6)) (Fin.ofNat 8 (bits wd 5 3)) (HalfFmt.ofCode (bits wd 4 1)))
  | 4 => .ok (.vmaxH (Fin.ofNat 64 (bits wd 20 6)) (Fin.ofNat 64 (bits wd 14 6)) (Fin.ofNat 64 (bits wd 8 6)) (Fin.ofNat 8 (bits wd 5 3)) (HalfFmt.ofCode (bits wd 4 1)))
  | 5 => need (bits wd 8 6 = 0) (.vabsH (Fin.ofNat 64 (bits wd 20 6)) (Fin.ofNat 64 (bits wd 14 6)) (Fin.ofNat 8 (bits wd 5 3)) (HalfFmt.ofCode (bits wd 4 1)))
  | 6 => need (bits wd 8 6 = 0) (.vnegH (Fin.ofNat 64 (bits wd 20 6)) (Fin.ofNat 64 (bits wd 14 6)) (Fin.ofNat 8 (bits wd 5 3)) (HalfFmt.ofCode (bits wd 4 1)))
  | _ => .error .reservedFunction

/-- The operations of major 0x23 (R41). -/
def decodeVd (wd : Nat) : Except DecodeError Instr :=
  match bits wd 0 4 with
  | 0 => .ok (.vaddD (Fin.ofNat 64 (bits wd 20 6)) (Fin.ofNat 64 (bits wd 14 6)) (Fin.ofNat 64 (bits wd 8 6)) (Fin.ofNat 8 (bits wd 5 3)) (DoubleFmt.ofCode (bits wd 4 1)))
  | 1 => .ok (.vsubD (Fin.ofNat 64 (bits wd 20 6)) (Fin.ofNat 64 (bits wd 14 6)) (Fin.ofNat 64 (bits wd 8 6)) (Fin.ofNat 8 (bits wd 5 3)) (DoubleFmt.ofCode (bits wd 4 1)))
  | 2 => .ok (.vmulD (Fin.ofNat 64 (bits wd 20 6)) (Fin.ofNat 64 (bits wd 14 6)) (Fin.ofNat 64 (bits wd 8 6)) (Fin.ofNat 8 (bits wd 5 3)) (DoubleFmt.ofCode (bits wd 4 1)))
  | 3 => need (bits wd 4 1 = 0) (.vdivF64 (Fin.ofNat 64 (bits wd 20 6)) (Fin.ofNat 64 (bits wd 14 6)) (Fin.ofNat 64 (bits wd 8 6)) (Fin.ofNat 8 (bits wd 5 3)))
  | 4 => need (bits wd 4 1 = 0 ∧ bits wd 8 6 = 0) (.vsqrtF64 (Fin.ofNat 64 (bits wd 20 6)) (Fin.ofNat 64 (bits wd 14 6)) (Fin.ofNat 8 (bits wd 5 3)))
  | 5 => .ok (.vminD (Fin.ofNat 64 (bits wd 20 6)) (Fin.ofNat 64 (bits wd 14 6)) (Fin.ofNat 64 (bits wd 8 6)) (Fin.ofNat 8 (bits wd 5 3)) (DoubleFmt.ofCode (bits wd 4 1)))
  | 6 => .ok (.vmaxD (Fin.ofNat 64 (bits wd 20 6)) (Fin.ofNat 64 (bits wd 14 6)) (Fin.ofNat 64 (bits wd 8 6)) (Fin.ofNat 8 (bits wd 5 3)) (DoubleFmt.ofCode (bits wd 4 1)))
  | _ => .error .reservedFunction

/-- The operations of major 0x25 (R41). -/
def decodeVcmp (wd : Nat) : Except DecodeError Instr :=
  match bits wd 0 3 with
  | 0 => need (bits wd 23 3 = 0) (.vcmpEq (Fin.ofNat 8 (bits wd 20 3)) (Fin.ofNat 64 (bits wd 14 6)) (Fin.ofNat 64 (bits wd 8 6)) (Fin.ofNat 8 (bits wd 5 3)) (CmpFmt.ofCode (bits wd 3 2)))
  | 1 => need (bits wd 23 3 = 0) (.vcmpNe (Fin.ofNat 8 (bits wd 20 3)) (Fin.ofNat 64 (bits wd 14 6)) (Fin.ofNat 64 (bits wd 8 6)) (Fin.ofNat 8 (bits wd 5 3)) (CmpFmt.ofCode (bits wd 3 2)))
  | 2 => need (bits wd 23 3 = 0) (.vcmpLt (Fin.ofNat 8 (bits wd 20 3)) (Fin.ofNat 64 (bits wd 14 6)) (Fin.ofNat 64 (bits wd 8 6)) (Fin.ofNat 8 (bits wd 5 3)) (CmpFmt.ofCode (bits wd 3 2)))
  | 3 => need (bits wd 23 3 = 0) (.vcmpGe (Fin.ofNat 8 (bits wd 20 3)) (Fin.ofNat 64 (bits wd 14 6)) (Fin.ofNat 64 (bits wd 8 6)) (Fin.ofNat 8 (bits wd 5 3)) (CmpFmt.ofCode (bits wd 3 2)))
  | 4 => need (bits wd 3 2 = 0 ∧ bits wd 23 3 = 0) (.vcmpLtn (Fin.ofNat 8 (bits wd 20 3)) (Fin.ofNat 64 (bits wd 14 6)) (Fin.ofNat 64 (bits wd 8 6)) (Fin.ofNat 8 (bits wd 5 3)))
  | 5 => need (bits wd 3 2 = 0 ∧ bits wd 23 3 = 0) (.vcmpGen (Fin.ofNat 8 (bits wd 20 3)) (Fin.ofNat 64 (bits wd 14 6)) (Fin.ofNat 64 (bits wd 8 6)) (Fin.ofNat 8 (bits wd 5 3)))
  | 6 => need (bits wd 23 3 = 0) (.vcmpUnord (Fin.ofNat 8 (bits wd 20 3)) (Fin.ofNat 64 (bits wd 14 6)) (Fin.ofNat 64 (bits wd 8 6)) (Fin.ofNat 8 (bits wd 5 3)) (CmpFmt.ofCode (bits wd 3 2)))
  | 7 => need (bits wd 23 3 = 0) (.vcmpOrd (Fin.ofNat 8 (bits wd 20 3)) (Fin.ofNat 64 (bits wd 14 6)) (Fin.ofNat 64 (bits wd 8 6)) (Fin.ofNat 8 (bits wd 5 3)) (CmpFmt.ofCode (bits wd 3 2)))
  | _ => .error .reservedFunction

/-- The operations of major 0x26 (R41). -/
def decodeVmem (wd : Nat) : Except DecodeError Instr :=
  match bits wd 4 3 with
  | 0 => need (bits wd 10 6 = 0) (.vld (Fin.ofNat 64 (bits wd 20 6)) (Fin.ofNat 16 (bits wd 16 4)) (Fin.ofNat 8 (bits wd 7 3)) (Fin.ofNat 16 (bits wd 0 4)))
  | 1 => need (bits wd 10 6 = 0) (.vst (Fin.ofNat 64 (bits wd 20 6)) (Fin.ofNat 16 (bits wd 16 4)) (Fin.ofNat 8 (bits wd 7 3)) (Fin.ofNat 16 (bits wd 0 4)))
  | 2 => need (bits wd 14 2 = 0) (.vlds (Fin.ofNat 64 (bits wd 20 6)) (Fin.ofNat 16 (bits wd 16 4)) (Fin.ofNat 16 (bits wd 10 4)) (Fin.ofNat 8 (bits wd 7 3)) (Fin.ofNat 16 (bits wd 0 4)))
  | 3 => need (bits wd 14 2 = 0) (.vsts (Fin.ofNat 64 (bits wd 20 6)) (Fin.ofNat 16 (bits wd 16 4)) (Fin.ofNat 16 (bits wd 10 4)) (Fin.ofNat 8 (bits wd 7 3)) (Fin.ofNat 16 (bits wd 0 4)))
  | 4 => need (bits wd 2 2 = 0) (.vgath (Fin.ofNat 64 (bits wd 20 6)) (Fin.ofNat 16 (bits wd 16 4)) (Fin.ofNat 64 (bits wd 10 6)) (Fin.ofNat 8 (bits wd 7 3)) (Fin.ofNat 4 (bits wd 0 2)))
  | 5 => need (bits wd 2 2 = 0) (.vscat (Fin.ofNat 64 (bits wd 20 6)) (Fin.ofNat 16 (bits wd 16 4)) (Fin.ofNat 64 (bits wd 10 6)) (Fin.ofNat 8 (bits wd 7 3)) (Fin.ofNat 4 (bits wd 0 2)))
  | _ => .error .reservedFunction

/-- The operations of major 0x27 (R41). -/
def decodeVmisc (wd : Nat) : Except DecodeError Instr :=
  match bits wd 0 5 with
  | 0 => (laneWidth (bits wd 18 2)).bind fun w => need (bits wd 8 6 = 0) (.vbcast (Fin.ofNat 64 (bits wd 20 6)) w (Fin.ofNat 16 (bits wd 14 4)) (Fin.ofNat 8 (bits wd 5 3)))
  | 1 => (laneWidth (bits wd 24 2)).bind fun w => need (bits wd 5 3 = 0) (.vextr w (Fin.ofNat 16 (bits wd 20 4)) (Fin.ofNat 64 (bits wd 14 6)) (Fin.ofNat 64 (bits wd 8 6)))
  | 2 => (laneWidth (bits wd 18 2)).bind fun w => need (bits wd 5 3 = 0) (.vins (Fin.ofNat 64 (bits wd 20 6)) w (Fin.ofNat 16 (bits wd 14 4)) (Fin.ofNat 64 (bits wd 8 6)))
  | 3 => need (bits wd 8 6 = 0) (.vredAddF32 (Fin.ofNat 64 (bits wd 20 6)) (Fin.ofNat 64 (bits wd 14 6)) (Fin.ofNat 8 (bits wd 5 3)))
  | 4 => need (bits wd 8 6 = 0) (.vredMaxF32 (Fin.ofNat 64 (bits wd 20 6)) (Fin.ofNat 64 (bits wd 14 6)) (Fin.ofNat 8 (bits wd 5 3)))
  | 5 => need (bits wd 8 6 = 0) (.vredAddI32 (Fin.ofNat 64 (bits wd 20 6)) (Fin.ofNat 64 (bits wd 14 6)) (Fin.ofNat 8 (bits wd 5 3)))
  | 6 => need (bits wd 8 6 = 0) (.vredMaxI32 (Fin.ofNat 64 (bits wd 20 6)) (Fin.ofNat 64 (bits wd 14 6)) (Fin.ofNat 8 (bits wd 5 3)))
  | 7 => .ok (.vperm (Fin.ofNat 64 (bits wd 20 6)) (Fin.ofNat 64 (bits wd 14 6)) (Fin.ofNat 64 (bits wd 8 6)) (Fin.ofNat 8 (bits wd 5 3)))
  | 8 => .ok (.vsel (Fin.ofNat 64 (bits wd 20 6)) (Fin.ofNat 64 (bits wd 14 6)) (Fin.ofNat 64 (bits wd 8 6)) (Fin.ofNat 8 (bits wd 5 3)))
  | 9 => (conv (bits wd 8 6)).bind fun c => .ok (.vcvt (Fin.ofNat 64 (bits wd 20 6)) (Fin.ofNat 64 (bits wd 14 6)) c (Fin.ofNat 8 (bits wd 5 3)))
  | 10 => (psFmt (bits wd 5 3)).bind fun f => .ok (.vunpk (Fin.ofNat 64 (bits wd 20 6)) (Fin.ofNat 64 (bits wd 14 6)) (Fin.ofNat 64 (bits wd 8 6)) f)
  | 11 => (psFmt (bits wd 5 3)).bind fun f => .ok (.vpack (Fin.ofNat 64 (bits wd 20 6)) (Fin.ofNat 64 (bits wd 14 6)) (Fin.ofNat 64 (bits wd 8 6)) f)
  | 12 => (psFmt (bits wd 5 3)).bind fun f => .ok (.baddq (Fin.ofNat 64 (bits wd 20 6)) (Fin.ofNat 64 (bits wd 14 6)) (Fin.ofNat 64 (bits wd 8 6)) f)
  | 13 => need (bits wd 8 6 = 0) (.vmov (Fin.ofNat 64 (bits wd 20 6)) (Fin.ofNat 64 (bits wd 14 6)) (Fin.ofNat 8 (bits wd 5 3)))
  | 14 => need (bits wd 8 12 = 0) (.viota (Fin.ofNat 64 (bits wd 20 6)) (Fin.ofNat 8 (bits wd 5 3)))
  | _ => .error .reservedFunction

/-- The operations of major 0x28 (R41). -/
def decodeTile (wd : Nat) : Except DecodeError Instr :=
  match bits wd 8 4 with
  | 0 => need (bits wd 12 8 = 0) (.tldef (Fin.ofNat 64 (bits wd 20 6)) (Fin.ofNat 256 (bits wd 0 8)))
  | 1 => need (bits wd 12 2 = 0) (.tlring (Fin.ofNat 64 (bits wd 20 6)) (Fin.ofNat 64 (bits wd 14 6)) (Fin.ofNat 256 (bits wd 0 8)))
  | 2 => need (bits wd 0 8 = 0 ∧ bits wd 12 8 = 0) (.tlwaitR (Fin.ofNat 64 (bits wd 20 6)))
  | 3 => need (bits wd 0 8 = 0 ∧ bits wd 12 8 = 0) (.tlwaitE (Fin.ofNat 64 (bits wd 20 6)))
  | 4 => need (bits wd 0 8 = 0 ∧ bits wd 12 8 = 0) (.tlcons (Fin.ofNat 64 (bits wd 20 6)))
  | 5 => need (bits wd 0 8 = 0 ∧ bits wd 12 2 = 0 ∧ bits wd 18 2 = 0) (.tlstat (Fin.ofNat 64 (bits wd 20 6)) (Fin.ofNat 16 (bits wd 14 4)))
  | 6 => need (bits wd 0 8 = 0 ∧ bits wd 12 8 = 0) (.tlfree (Fin.ofNat 64 (bits wd 20 6)))
  | 7 => need (bits wd 0 8 = 0 ∧ bits wd 12 8 = 0) (.tlpub (Fin.ofNat 64 (bits wd 20 6)))
  | 8 => need (bits wd 0 8 = 0 ∧ bits wd 12 8 = 0) (.tlopen (Fin.ofNat 64 (bits wd 20 6)))
  | _ => .error .reservedFunction

/-- The operations of major 0x29 (R41). -/
def decodeMtx (wd : Nat) : Except DecodeError Instr :=
  match bits wd 8 4 with
  | 0 => need (bits wd 20 6 = 0) (.wload (Fin.ofNat 64 (bits wd 14 6)) (Fin.ofNat 4 (bits wd 12 2)) (Fin.ofNat 256 (bits wd 0 8)))
  | 1 => .ok (.mma (Fin.ofNat 64 (bits wd 20 6)) (Fin.ofNat 64 (bits wd 14 6)) (Fin.ofNat 4 (bits wd 12 2)) (Fin.ofNat 256 (bits wd 0 8)))
  | 2 => .ok (.mmaz (Fin.ofNat 64 (bits wd 20 6)) (Fin.ofNat 64 (bits wd 14 6)) (Fin.ofNat 4 (bits wd 12 2)) (Fin.ofNat 256 (bits wd 0 8)))
  | 3 => need (bits wd 0 8 = 0 ∧ bits wd 14 12 = 0) (.wdrop (Fin.ofNat 4 (bits wd 12 2)))
  | _ => .error .reservedFunction

/-- The operations of major 0x2A (R41). -/
def decodeXfer (wd : Nat) : Except DecodeError Instr :=
  match bits wd 8 4 with
  | 0 => need (bits wd 12 8 = 0) (.tcopyIn (Fin.ofNat 64 (bits wd 20 6)) (Fin.ofNat 256 (bits wd 0 8)))
  | 1 => need (bits wd 12 2 = 0 ∧ bits wd 20 6 = 0) (.tcopyOut (Fin.ofNat 64 (bits wd 14 6)) (Fin.ofNat 256 (bits wd 0 8)))
  | 2 => need (bits wd 12 8 = 0) (.dec (Fin.ofNat 64 (bits wd 20 6)) (Fin.ofNat 256 (bits wd 0 8)))
  | 3 => need (bits wd 12 8 = 0) (.tfill (Fin.ofNat 64 (bits wd 20 6)) (Fin.ofNat 256 (bits wd 0 8)))
  | 4 => need (bits wd 12 2 = 0) (.tconv (Fin.ofNat 64 (bits wd 20 6)) (Fin.ofNat 64 (bits wd 14 6)) (Fin.ofNat 256 (bits wd 0 8)))
  | _ => .error .reservedFunction

/-- The operations of major 0x30 (R41). -/
def decodeGraph (wd : Nat) : Except DecodeError Instr :=
  match bits wd 8 6 with
  | 0 => need (bits wd 0 8 = 0) (.gcopy (Fin.ofNat 16 (bits wd 22 4)) (Fin.ofNat 16 (bits wd 18 4)) (Fin.ofNat 16 (bits wd 14 4)))
  | 1 => need (bits wd 0 8 = 0) (.gsend (Fin.ofNat 16 (bits wd 22 4)) (Fin.ofNat 16 (bits wd 18 4)) (Fin.ofNat 16 (bits wd 14 4)))
  | 2 => need (bits wd 0 8 = 0) (.gcmp (Fin.ofNat 16 (bits wd 22 4)) (Fin.ofNat 16 (bits wd 18 4)) (Fin.ofNat 16 (bits wd 14 4)))
  | 3 => need (bits wd 0 8 = 0) (.ghash (Fin.ofNat 16 (bits wd 22 4)) (Fin.ofNat 16 (bits wd 18 4)) (Fin.ofNat 16 (bits wd 14 4)))
  | 4 => need (bits wd 0 8 = 0) (.grel (Fin.ofNat 16 (bits wd 22 4)) (Fin.ofNat 16 (bits wd 18 4)) (Fin.ofNat 16 (bits wd 14 4)))
  | 5 => need (bits wd 0 8 = 0) (.oalloc (Fin.ofNat 16 (bits wd 22 4)) (Fin.ofNat 16 (bits wd 18 4)) (Fin.ofNat 16 (bits wd 14 4)))
  | 6 => need (bits wd 0 8 = 0 ∧ bits wd 14 8 = 0) (.lmdef (Fin.ofNat 16 (bits wd 22 4)))
  | 7 => need (bits wd 0 8 = 0) (.gland (Fin.ofNat 16 (bits wd 22 4)) (Fin.ofNat 16 (bits wd 18 4)) (Fin.ofNat 16 (bits wd 14 4)))
  | _ => .error .reservedFunction

/-- The operations of major 0x31 (R41). -/
def decodeMsg (wd : Nat) : Except DecodeError Instr :=
  match bits wd 3 5 with
  | 0 => (prio (bits wd 0 3)).bind fun p => .ok (.send (Fin.ofNat 16 (bits wd 22 4)) (Fin.ofNat 16 (bits wd 18 4)) (Fin.ofNat 64 (bits wd 12 6)) (Fin.ofNat 16 (bits wd 8 4)) p)
  | 1 => match bits wd 0 3 with
    | 0 => need (bits wd 18 4 = 0) (.recv (Fin.ofNat 16 (bits wd 22 4)) (Fin.ofNat 64 (bits wd 12 6)) (Fin.ofNat 16 (bits wd 8 4)))
    | 1 => need (bits wd 8 4 = 0) (.recvSet (Fin.ofNat 16 (bits wd 22 4)) (Fin.ofNat 16 (bits wd 18 4)) (Fin.ofNat 64 (bits wd 12 6)))
    | _ => .error .reservedSelector
  | 2 => match bits wd 0 3 with
    | 0 => need (bits wd 18 4 = 0) (.peek (Fin.ofNat 16 (bits wd 22 4)) (Fin.ofNat 64 (bits wd 12 6)) (Fin.ofNat 16 (bits wd 8 4)))
    | 1 => need (bits wd 8 4 = 0) (.peekSet (Fin.ofNat 16 (bits wd 22 4)) (Fin.ofNat 16 (bits wd 18 4)) (Fin.ofNat 64 (bits wd 12 6)))
    | _ => .error .reservedSelector
  | 3 => (prio (bits wd 0 3)).bind fun p => .ok (.req (Fin.ofNat 16 (bits wd 22 4)) (Fin.ofNat 16 (bits wd 18 4)) (Fin.ofNat 64 (bits wd 12 6)) (Fin.ofNat 16 (bits wd 8 4)) p)
  | 4 => need (bits wd 0 3 = 0 ∧ bits wd 12 10 = 0) (.mbxdef (Fin.ofNat 16 (bits wd 22 4)) (Fin.ofNat 16 (bits wd 8 4)))
  | 5 => need (bits wd 0 3 = 0 ∧ bits wd 12 10 = 0) (.mbxq (Fin.ofNat 16 (bits wd 22 4)) (Fin.ofNat 16 (bits wd 8 4)))
  | _ => .error .reservedFunction

/-- The operations of major 0x32 (R41). -/
def decodeEvt (wd : Nat) : Except DecodeError Instr :=
  match bits wd 0 6 with
  | 0 => need (bits wd 6 20 = 0) .evend
  | 1 => match bits wd 6 12 with
    | 0 => need (bits wd 18 4 = 0) (.vtgetLvt (Fin.ofNat 16 (bits wd 22 4)))
    | 1 => need (bits wd 18 4 = 0) (.vtgetGvt (Fin.ofNat 16 (bits wd 22 4)))
    | 2 => need (bits wd 18 4 = 0) (.vtgetEvid (Fin.ofNat 16 (bits wd 22 4)))
    | _ => .error .reservedSelector
  | 2 => need (bits wd 6 12 = 0) (.escst (Fin.ofNat 16 (bits wd 22 4)) (Fin.ofNat 16 (bits wd 18 4)))
  | 3 => need (bits wd 6 20 = 0) .escwait
  | _ => .error .reservedFunction

/-- The operations of major 0x33 (R41). -/
noncomputable def decodeTask (wd : Nat) : Except DecodeError Instr :=
  match bits wd 8 5 with
  | 0 => (opB wd).bind fun b => .ok (.tasknew (Fin.ofNat 16 (bits wd 22 4)) (Fin.ofNat 16 (bits wd 18 4)) b)
  | 1 => need (bits wd 0 8 = 0 ∧ bits wd 13 5 = 0 ∧ bits wd 22 4 = 0) (.taskdec (Fin.ofNat 16 (bits wd 18 4)))
  | _ => .error .reservedFunction

/-- The operations of major 0x34 (R41). -/
noncomputable def decodeBar (wd : Nat) : Except DecodeError Instr :=
  match bits wd 8 5 with
  | 0 => need (bits wd 0 8 = 0 ∧ bits wd 13 5 = 0) (.barnew (Fin.ofNat 16 (bits wd 22 4)) (Fin.ofNat 16 (bits wd 18 4)))
  | 1 => need (bits wd 0 8 = 0 ∧ bits wd 13 5 = 0) (.bararr (Fin.ofNat 16 (bits wd 22 4)) (Fin.ofNat 16 (bits wd 18 4)))
  | 2 => (opB wd).bind fun b => need (bits wd 22 4 = 0) (.barwait (Fin.ofNat 16 (bits wd 18 4)) b)
  | 3 => need (bits wd 0 8 = 0 ∧ bits wd 13 5 = 0) (.bararw (Fin.ofNat 16 (bits wd 22 4)) (Fin.ofNat 16 (bits wd 18 4)))
  | 4 => need (bits wd 0 8 = 0 ∧ bits wd 13 5 = 0 ∧ bits wd 22 4 = 0) (.barfree (Fin.ofNat 16 (bits wd 18 4)))
  | _ => .error .reservedFunction

/-- The operations of major 0x35 (R41). -/
noncomputable def decodeThr (wd : Nat) : Except DecodeError Instr :=
  match bits wd 8 5 with
  | 0 => (opB wd).bind fun b => .ok (.spawn (Fin.ofNat 16 (bits wd 22 4)) (Fin.ofNat 16 (bits wd 18 4)) b)
  | 1 => need (bits wd 0 8 = 0 ∧ bits wd 13 5 = 0) (.migr (Fin.ofNat 16 (bits wd 22 4)) (Fin.ofNat 16 (bits wd 18 4)))
  | 2 => need (bits wd 0 8 = 0 ∧ bits wd 13 5 = 0) (.slotq (Fin.ofNat 16 (bits wd 22 4)) (Fin.ofNat 16 (bits wd 18 4)))
  | _ => .error .reservedFunction

/-- The operations of major 0x36 (R41). -/
noncomputable def decodeFab (wd : Nat) : Except DecodeError Instr :=
  match bits wd 8 5 with
  | 0 => need (bits wd 0 8 = 0 ∧ bits wd 13 1 = 0 ∧ bits wd 22 4 = 0) (.tkget (Fin.ofNat 16 (bits wd 18 4)) (Fin.ofNat 16 (bits wd 14 4)))
  | 1 => need (bits wd 0 8 = 0 ∧ bits wd 13 5 = 0) (.tkwait (Fin.ofNat 16 (bits wd 22 4)) (Fin.ofNat 16 (bits wd 18 4)))
  | 2 => (opB wd).bind fun b => need (bits wd 22 4 = 0) (.tkdone (Fin.ofNat 16 (bits wd 18 4)) b)
  | 3 => need (bits wd 0 8 = 0 ∧ bits wd 13 9 = 0) (.fdrain (Fin.ofNat 16 (bits wd 22 4)))
  | _ => .error .reservedFunction

/-- The operations of major 0x37 (R41). -/
noncomputable def decodeLink (wd : Nat) : Except DecodeError Instr :=
  match bits wd 0 6 with
  | 0 => need (bits wd 11 7 = 0) (.lkey (Fin.ofNat 16 (bits wd 22 4)) (Fin.ofNat 16 (bits wd 18 4)) (Fin.ofNat 2 (bits wd 10 1)) (Fin.ofNat 16 (bits wd 6 4)))
  | 1 => need (bits wd 10 12 = 0) (.lksw (Fin.ofNat 16 (bits wd 22 4)) (Fin.ofNat 16 (bits wd 6 4)))
  | 2 => need (bits wd 10 8 = 0 ∧ bits wd 22 4 = 0) (.lkinj (Fin.ofNat 16 (bits wd 18 4)) (Fin.ofNat 16 (bits wd 6 4)))
  | 3 => need (bits wd 10 12 = 0) (.lkstat (Fin.ofNat 16 (bits wd 22 4)) (Fin.ofNat 16 (bits wd 6 4)))
  | _ => .error .reservedFunction

/-- The operations of major 0x38 (R41). -/
noncomputable def decodeCtx (wd : Nat) : Except DecodeError Instr :=
  match bits wd 0 6 with
  | 0 => match bits wd 6 12 with
    | 0 => .ok (.ctxsave (Fin.ofNat 16 (bits wd 22 4)) (Fin.ofNat 16 (bits wd 18 4)))
    | 1 => .ok (.ctxsaveEvict (Fin.ofNat 16 (bits wd 22 4)) (Fin.ofNat 16 (bits wd 18 4)))
    | _ => .error .reservedSelector
  | 1 => need (bits wd 6 12 = 0) (.ctxload (Fin.ofNat 16 (bits wd 22 4)) (Fin.ofNat 16 (bits wd 18 4)))
  | 2 => match bits wd 6 12 with
    | 0 => .ok (.ctxkeyNew (Fin.ofNat 16 (bits wd 22 4)) (Fin.ofNat 16 (bits wd 18 4)))
    | 1 => need (bits wd 22 4 = 0) (.ctxkeySel (Fin.ofNat 16 (bits wd 18 4)))
    | 2 => .ok (.ctxkeyBind (Fin.ofNat 16 (bits wd 22 4)) (Fin.ofNat 16 (bits wd 18 4)))
    | 3 => need (bits wd 22 4 = 0) (.ctxkeyFree (Fin.ofNat 16 (bits wd 18 4)))
    | _ => .error .reservedSelector
  | 3 => need (bits wd 6 12 = 0) (.shdef (Fin.ofNat 16 (bits wd 22 4)) (Fin.ofNat 16 (bits wd 18 4)))
  | _ => .error .reservedFunction

/-- The instruction of a word of the majors below 0x33 (R41). -/
def decodeLow (wd : Nat) : Except DecodeError Instr :=
  match bits wd 26 6 with
  | 0 => decodeSys wd
  | 1 => decodeAlu wd
  | 2 => decodeAlu2 wd
  | 3 => decodeCmp wd
  | 4 => .ok (.addi (Fin.ofNat 16 (bits wd 22 4)) (Fin.ofNat 16 (bits wd 18 4)) (BitVec.ofNat 18 (bits wd 0 18)))
  | 5 => .ok (.andi (Fin.ofNat 16 (bits wd 22 4)) (Fin.ofNat 16 (bits wd 18 4)) (BitVec.ofNat 18 (bits wd 0 18)))
  | 6 => .ok (.ori (Fin.ofNat 16 (bits wd 22 4)) (Fin.ofNat 16 (bits wd 18 4)) (BitVec.ofNat 18 (bits wd 0 18)))
  | 7 => .ok (.xori (Fin.ofNat 16 (bits wd 22 4)) (Fin.ofNat 16 (bits wd 18 4)) (BitVec.ofNat 18 (bits wd 0 18)))
  | 8 => decodeShi wd
  | 9 => need (bits wd 18 4 = 0) (.lui (Fin.ofNat 16 (bits wd 22 4)) (BitVec.ofNat 18 (bits wd 0 18)))
  | 10 => need (bits wd 8 14 = 32) (.ldk (Fin.ofNat 16 (bits wd 22 4)) (Fin.ofNat 256 (bits wd 0 8)))
  | 11 => decodeCmpi wd
  | 12 => decodePred wd
  | 13 => need (bits wd 0 11 = 0) (.sel (Fin.ofNat 16 (bits wd 22 4)) (Fin.ofNat 16 (bits wd 18 4)) (Fin.ofNat 16 (bits wd 14 4)) (Fin.ofNat 8 (bits wd 11 3)))
  | 16 => (memForm wd).bind fun mem => .ok (.ld (Fin.ofNat 16 (bits wd 22 4)) (Size.ofCode (bits wd 16 2)) mem)
  | 17 => (memForm wd).bind fun mem => .ok (.ldz (Fin.ofNat 16 (bits wd 22 4)) (Size.ofCode (bits wd 16 2)) mem)
  | 18 => (memForm wd).bind fun mem => .ok (.st (Fin.ofNat 16 (bits wd 22 4)) (Size.ofCode (bits wd 16 2)) mem)
  | 19 => (memForm wd).bind fun mem => need (bits wd 17 1 = 1) (.stp (Fin.ofNat 16 (bits wd 22 4)) (Size.ofCode (bits wd 16 2)) mem)
  | 20 => decodeAmo wd
  | 21 => need (bits wd 0 12 = 0 ∧ bits wd 13 1 = 0) (.cas (Fin.ofNat 16 (bits wd 22 4)) (Fin.ofNat 16 (bits wd 18 4)) (Fin.ofNat 16 (bits wd 14 4)) (WordSize.ofCode (bits wd 12 1)))
  | 22 => decodeVamo wd
  | 24 => need (bits wd 18 4 = 0) (.br (Fin.ofNat 8 (bits wd 23 3)) (bits wd 22 1 == 1) (BitVec.ofNat 18 (bits wd 0 18)))
  | 25 => .ok (.bdec (Fin.ofNat 8 (bits wd 23 3)) (bits wd 22 1 == 1) (Fin.ofNat 16 (bits wd 18 4)) (BitVec.ofNat 18 (bits wd 0 18)))
  | 26 => need (bits wd 18 8 = 0) (.call (BitVec.ofNat 18 (bits wd 0 18)))
  | 27 => decodeJr wd
  | 28 => .ok (.brst (Fin.ofNat 64 (bits wd 20 6)) (BitVec.ofNat 4 (bits wd 16 4)) (BitVec.ofNat 16 (bits wd 0 16)))
  | 32 => decodeVi wd
  | 33 => decodeVf wd
  | 34 => decodeVh wd
  | 35 => decodeVd wd
  | 36 => .ok (.vfma (Fin.ofNat 64 (bits wd 20 6)) (Fin.ofNat 64 (bits wd 14 6)) (Fin.ofNat 64 (bits wd 8 6)) (Fin.ofNat 64 (bits wd 2 6)) (FmaFmt.ofCode (bits wd 0 2)))
  | 37 => decodeVcmp wd
  | 38 => decodeVmem wd
  | 39 => decodeVmisc wd
  | 40 => decodeTile wd
  | 41 => decodeMtx wd
  | 42 => decodeXfer wd
  | 48 => decodeGraph wd
  | 49 => decodeMsg wd
  | 50 => decodeEvt wd
  | _ => .error .reservedMajor

/-- The instruction of a word, before the rules that tie its fields together (R41). -/
noncomputable def decodeFields (wd : Nat) : Except DecodeError Instr :=
  match bits wd 26 6 with
  | 51 => decodeTask wd
  | 52 => decodeBar wd
  | 53 => decodeThr wd
  | 54 => decodeFab wd
  | 55 => decodeLink wd
  | 56 => decodeCtx wd
  | _ => decodeLow wd

/-- The decoder: the instruction of a word, or why the word traps ILLOP (R43). -/
noncomputable def decode (w : BitVec 32) : Except DecodeError Instr :=
  (decodeFields w.toNat).bind fun i => if i.wellFormed then .ok i else .error .pairing

/-- A field of value `v` at bit `lo` of a word. -/
abbrev fld (v lo : Nat) : Nat := v * 2 ^ lo

/-- The word of `HALT` (R138). -/
abbrev wordHalt : Nat := 0x00000002

/-- The word of `YIELD` (R137). -/
abbrev wordYield : Nat := 0x00000003

/-- The word of `TRAP` (R147). -/
abbrev wordTrap (a : XReg) (c : BitVec 8) : Nat := 0x00000004 + fld a.val 18 + fld c.toNat 6

/-- The word of `SRET` (R146). -/
abbrev wordSret : Nat := 0x00000005

/-- The word of `SRET_HALT` (R146). -/
abbrev wordSretHalt : Nat := 0x00000045

/-- The word of `SRET_ABORT` (R146). -/
abbrev wordSretAbort : Nat := 0x00000085

/-- The word of `BRK` (R147). -/
abbrev wordBrk (c : BitVec 12) : Nat := 0x00000006 + fld c.toNat 6

/-- The word of `CRD` (R76). -/
abbrev wordCrd (d : XReg) (r : Cr) : Nat := 0x00000007 + fld d.val 22 + fld r.num 6

/-- The word of `CRW` (R76). -/
abbrev wordCrw (a : XReg) (r : Cr) : Nat := 0x00000008 + fld a.val 18 + fld r.num 6

/-- The word of `PHASE` (R187). -/
abbrev wordPhase : Nat := 0x0000000B

/-- The word of `TLDEF` (R208). -/
abbrev wordTldef (t : TileH) (n : KIdx) : Nat := 0xA0000000 + fld t.val 20 + fld n.val 0

/-- The word of `TLRING` (R209). -/
abbrev wordTlring (t : TileH) (u : TileH) (n : KIdx) : Nat := 0xA0000100 + fld t.val 20 + fld u.val 14 + fld n.val 0

/-- The word of `WLOAD` (R216). -/
abbrev wordWload (u : TileH) (w : WSlot) (n : KIdx) : Nat := 0xA4000000 + fld u.val 14 + fld w.val 12 + fld n.val 0

/-- The word of `MMA` (R217). -/
abbrev wordMma (t : TileH) (u : TileH) (w : WSlot) (n : KIdx) : Nat := 0xA4000100 + fld t.val 20 + fld u.val 14 + fld w.val 12 + fld n.val 0

/-- The word of `MMAZ` (R217). -/
abbrev wordMmaz (t : TileH) (u : TileH) (w : WSlot) (n : KIdx) : Nat := 0xA4000200 + fld t.val 20 + fld u.val 14 + fld w.val 12 + fld n.val 0

/-- The word of `WDROP` (R218). -/
abbrev wordWdrop (w : WSlot) : Nat := 0xA4000300 + fld w.val 12

/-- The word of `TCOPY_IN` (R220). -/
abbrev wordTcopyIn (t : TileH) (n : KIdx) : Nat := 0xA8000000 + fld t.val 20 + fld n.val 0

/-- The word of `TCOPY_OUT` (R220). -/
abbrev wordTcopyOut (u : TileH) (n : KIdx) : Nat := 0xA8000100 + fld u.val 14 + fld n.val 0

/-- The word of `DEC` (R224). -/
abbrev wordDec (t : TileH) (n : KIdx) : Nat := 0xA8000200 + fld t.val 20 + fld n.val 0

/-- The word of `TFILL` (R220). -/
abbrev wordTfill (t : TileH) (n : KIdx) : Nat := 0xA8000300 + fld t.val 20 + fld n.val 0

/-- The word of `TCONV` (R221). -/
abbrev wordTconv (t : TileH) (u : TileH) (n : KIdx) : Nat := 0xA8000400 + fld t.val 20 + fld u.val 14 + fld n.val 0

/-- The word of `GCOPY` (R240). -/
abbrev wordGcopy (r : XReg) (w : XReg) (d : XReg) : Nat := 0xC0000000 + fld r.val 22 + fld w.val 18 + fld d.val 14

/-- The word of `GSEND` (R243). -/
abbrev wordGsend (r : XReg) (w : XReg) (d : XReg) : Nat := 0xC0000100 + fld r.val 22 + fld w.val 18 + fld d.val 14

/-- The word of `GCMP` (R245). -/
abbrev wordGcmp (r : XReg) (w : XReg) (d : XReg) : Nat := 0xC0000200 + fld r.val 22 + fld w.val 18 + fld d.val 14

/-- The word of `GHASH` (R244). -/
abbrev wordGhash (r : XReg) (w : XReg) (d : XReg) : Nat := 0xC0000300 + fld r.val 22 + fld w.val 18 + fld d.val 14

/-- The word of `GREL` (R246). -/
abbrev wordGrel (r : XReg) (w : XReg) (d : XReg) : Nat := 0xC0000400 + fld r.val 22 + fld w.val 18 + fld d.val 14

/-- The word of `OALLOC` (R242). -/
abbrev wordOalloc (r : XReg) (w : XReg) (d : XReg) : Nat := 0xC0000500 + fld r.val 22 + fld w.val 18 + fld d.val 14

/-- The word of `LMDEF` (R247). -/
abbrev wordLmdef (r : XReg) : Nat := 0xC0000600 + fld r.val 22

/-- The word of `GLAND` (R248). -/
abbrev wordGland (r : XReg) (w : XReg) (d : XReg) : Nat := 0xC0000700 + fld r.val 22 + fld w.val 18 + fld d.val 14

/-- The word of `SEND` (R272). -/
abbrev wordSend (a : XReg) (b : XReg) (v : VReg) (m : Mbox) (p : Fin 4) : Nat := 0xC4000000 + fld a.val 22 + fld b.val 18 + fld v.val 12 + fld m.val 8 + fld p.val 0

/-- The word of `RECV` (R274). -/
abbrev wordRecv (a : XReg) (v : VReg) (m : Mbox) : Nat := 0xC4000008 + fld a.val 22 + fld v.val 12 + fld m.val 8

/-- The word of `RECV_SET` (R274). -/
abbrev wordRecvSet (a : XReg) (b : XReg) (v : VReg) : Nat := 0xC4000009 + fld a.val 22 + fld b.val 18 + fld v.val 12

/-- The word of `PEEK` (R275). -/
abbrev wordPeek (a : XReg) (v : VReg) (m : Mbox) : Nat := 0xC4000010 + fld a.val 22 + fld v.val 12 + fld m.val 8

/-- The word of `PEEK_SET` (R275). -/
abbrev wordPeekSet (a : XReg) (b : XReg) (v : VReg) : Nat := 0xC4000011 + fld a.val 22 + fld b.val 18 + fld v.val 12

/-- The word of `REQ` (R273). -/
abbrev wordReq (a : XReg) (b : XReg) (v : VReg) (m : Mbox) (p : Fin 4) : Nat := 0xC4000018 + fld a.val 22 + fld b.val 18 + fld v.val 12 + fld m.val 8 + fld p.val 0

/-- The word of `MBXDEF` (R276). -/
abbrev wordMbxdef (a : XReg) (m : Mbox) : Nat := 0xC4000020 + fld a.val 22 + fld m.val 8

/-- The word of `MBXQ` (R277). -/
abbrev wordMbxq (a : XReg) (m : Mbox) : Nat := 0xC4000028 + fld a.val 22 + fld m.val 8

/-- The word of `EVEND` (R287). -/
abbrev wordEvend : Nat := 0xC8000000

/-- The word of `VTGET_LVT` (R288). -/
abbrev wordVtgetLvt (d : XReg) : Nat := 0xC8000001 + fld d.val 22

/-- The word of `VTGET_GVT` (R288). -/
abbrev wordVtgetGvt (d : XReg) : Nat := 0xC8000041 + fld d.val 22

/-- The word of `VTGET_EVID` (R288). -/
abbrev wordVtgetEvid (d : XReg) : Nat := 0xC8000081 + fld d.val 22

/-- The word of `ESCST` (R289). -/
abbrev wordEscst (d : XReg) (a : XReg) : Nat := 0xC8000002 + fld d.val 22 + fld a.val 18

/-- The word of `ESCWAIT` (R290). -/
abbrev wordEscwait : Nat := 0xC8000003

/-- The word of `TASKNEW` (R292). -/
abbrev wordTasknew (d : XReg) (a : XReg) (b : OpB) : Nat := 0xCC000000 + fld d.val 22 + fld a.val 18 + b.bits

/-- The word of `TASKDEC` (R293). -/
abbrev wordTaskdec (a : XReg) : Nat := 0xCC000100 + fld a.val 18

/-- The word of `BARNEW` (R314). -/
abbrev wordBarnew (d : XReg) (a : XReg) : Nat := 0xD0000000 + fld d.val 22 + fld a.val 18

/-- The word of `BARARR` (R314). -/
abbrev wordBararr (d : XReg) (a : XReg) : Nat := 0xD0000100 + fld d.val 22 + fld a.val 18

/-- The word of `BARWAIT` (R314). -/
abbrev wordBarwait (a : XReg) (b : OpB) : Nat := 0xD0000200 + fld a.val 18 + b.bits

/-- The word of `BARARW` (R314). -/
abbrev wordBararw (d : XReg) (a : XReg) : Nat := 0xD0000300 + fld d.val 22 + fld a.val 18

/-- The word of `BARFREE` (R314). -/
abbrev wordBarfree (a : XReg) : Nat := 0xD0000400 + fld a.val 18

/-- The word of `SPAWN` (R295). -/
abbrev wordSpawn (d : XReg) (a : XReg) (b : OpB) : Nat := 0xD4000000 + fld d.val 22 + fld a.val 18 + b.bits

/-- The word of `MIGR` (R296). -/
abbrev wordMigr (d : XReg) (a : XReg) : Nat := 0xD4000100 + fld d.val 22 + fld a.val 18

/-- The word of `TKGET` (R316). -/
abbrev wordTkget (a : XReg) (b : XReg) : Nat := 0xD8000000 + fld a.val 18 + fld b.val 14

/-- The word of `TKDONE` (R316). -/
abbrev wordTkdone (a : XReg) (b : OpB) : Nat := 0xD8000200 + fld a.val 18 + b.bits

/-- The word of `LKEY` (R320). -/
abbrev wordLkey (d : XReg) (a : XReg) (s : Fin 2) (p : Port) : Nat := 0xDC000000 + fld d.val 22 + fld a.val 18 + fld s.val 10 + fld p.val 6

/-- The word of `LKSW` (R320). -/
abbrev wordLksw (d : XReg) (p : Port) : Nat := 0xDC000001 + fld d.val 22 + fld p.val 6

/-- The word of `LKINJ` (R320). -/
abbrev wordLkinj (a : XReg) (p : Port) : Nat := 0xDC000002 + fld a.val 18 + fld p.val 6

/-- The word of `LKSTAT` (R320). -/
abbrev wordLkstat (d : XReg) (p : Port) : Nat := 0xDC000003 + fld d.val 22 + fld p.val 6

/-- The word of `CTXSAVE` (R346). -/
abbrev wordCtxsave (d : XReg) (a : XReg) : Nat := 0xE0000000 + fld d.val 22 + fld a.val 18

/-- The word of `CTXSAVE_EVICT` (R346). -/
abbrev wordCtxsaveEvict (d : XReg) (a : XReg) : Nat := 0xE0000040 + fld d.val 22 + fld a.val 18

/-- The word of `CTXLOAD` (R347). -/
abbrev wordCtxload (d : XReg) (a : XReg) : Nat := 0xE0000001 + fld d.val 22 + fld a.val 18

/-- The word of `CTXKEY_NEW` (R345). -/
abbrev wordCtxkeyNew (d : XReg) (a : XReg) : Nat := 0xE0000002 + fld d.val 22 + fld a.val 18

/-- The word of `CTXKEY_SEL` (R345). -/
abbrev wordCtxkeySel (a : XReg) : Nat := 0xE0000042 + fld a.val 18

/-- The word of `CTXKEY_BIND` (R345). -/
abbrev wordCtxkeyBind (d : XReg) (a : XReg) : Nat := 0xE0000082 + fld d.val 22 + fld a.val 18

/-- The word of `CTXKEY_FREE` (R345). -/
abbrev wordCtxkeyFree (a : XReg) : Nat := 0xE00000C2 + fld a.val 18

/-- The word of `SHDEF` (R306). -/
abbrev wordShdef (d : XReg) (a : XReg) : Nat := 0xE0000003 + fld d.val 22 + fld a.val 18

/-- The word of an instruction, as a number; the steps of the device have no word (R32-R41). -/
def encodeNat : Instr → Option Nat
  | .nop => some (0x00000001)
  | .halt => some (wordHalt)
  | .yield => some (wordYield)
  | .trap a c => some (wordTrap a c)
  | .sret => some (wordSret)
  | .sretHalt => some (wordSretHalt)
  | .sretAbort => some (wordSretAbort)
  | .brk c => some (wordBrk c)
  | .crd d r => some (wordCrd d r)
  | .crw a r => some (wordCrw a r)
  | .tsc d => some (0x00000009 + fld d.val 22)
  | .fenceCore => some (0x0000000A)
  | .fenceDie => some (0x0000004A)
  | .fencePkg => some (0x0000008A)
  | .fenceDom => some (0x000000CA)
  | .fenceL => some (0x0000010A)
  | .fenceCb => some (0x0000014A)
  | .phase => some (wordPhase)
  | .watch a => some (0x0000000C + fld a.val 18)
  | .waitr d a => some (0x0000000D + fld d.val 22 + fld a.val 18)
  | .valloc n => some (0x0000000E + fld n.toNat 6)
  | .vfree => some (0x0000000F)
  | .admitTake a => some (0x00000010 + fld a.val 18)
  | .admitEnd d => some (0x00000050 + fld d.val 22)
  | .clkq d a => some (0x00000011 + fld d.val 22 + fld a.val 18)
  | .add d a b => some (0x04000000 + fld d.val 22 + fld a.val 18 + b.bits)
  | .sub d a b => some (0x04000100 + fld d.val 22 + fld a.val 18 + b.bits)
  | .mul d a b => some (0x04000200 + fld d.val 22 + fld a.val 18 + b.bits)
  | .mulh d a b => some (0x04000300 + fld d.val 22 + fld a.val 18 + b.bits)
  | .mulhn d a b => some (0x04000400 + fld d.val 22 + fld a.val 18 + b.bits)
  | .div d a b => some (0x04000500 + fld d.val 22 + fld a.val 18 + b.bits)
  | .divn d a b => some (0x04000600 + fld d.val 22 + fld a.val 18 + b.bits)
  | .rem d a b => some (0x04000700 + fld d.val 22 + fld a.val 18 + b.bits)
  | .remn d a b => some (0x04000800 + fld d.val 22 + fld a.val 18 + b.bits)
  | .and d a b => some (0x04000900 + fld d.val 22 + fld a.val 18 + b.bits)
  | .or d a b => some (0x04000A00 + fld d.val 22 + fld a.val 18 + b.bits)
  | .xor d a b => some (0x04000B00 + fld d.val 22 + fld a.val 18 + b.bits)
  | .andn d a b => some (0x04000C00 + fld d.val 22 + fld a.val 18 + b.bits)
  | .shl d a b => some (0x04000D00 + fld d.val 22 + fld a.val 18 + b.bits)
  | .shr d a b => some (0x04000E00 + fld d.val 22 + fld a.val 18 + b.bits)
  | .sar d a b => some (0x04000F00 + fld d.val 22 + fld a.val 18 + b.bits)
  | .rol d a b => some (0x04001000 + fld d.val 22 + fld a.val 18 + b.bits)
  | .min d a b => some (0x04001100 + fld d.val 22 + fld a.val 18 + b.bits)
  | .max d a b => some (0x04001200 + fld d.val 22 + fld a.val 18 + b.bits)
  | .minn d a b => some (0x04001300 + fld d.val 22 + fld a.val 18 + b.bits)
  | .maxn d a b => some (0x04001400 + fld d.val 22 + fld a.val 18 + b.bits)
  | .lea2 d a b => some (0x04001500 + fld d.val 22 + fld a.val 18 + b.bits)
  | .lea4 d a b => some (0x04001600 + fld d.val 22 + fld a.val 18 + b.bits)
  | .lea8 d a b => some (0x04001700 + fld d.val 22 + fld a.val 18 + b.bits)
  | .addw d a b => some (0x04001800 + fld d.val 22 + fld a.val 18 + b.bits)
  | .clz d a => some (0x08000000 + fld d.val 22 + fld a.val 18)
  | .ctz d a => some (0x08000100 + fld d.val 22 + fld a.val 18)
  | .pop d a => some (0x08000200 + fld d.val 22 + fld a.val 18)
  | .bswap d a => some (0x08000300 + fld d.val 22 + fld a.val 18)
  | .sextB d a => some (0x08000400 + fld d.val 22 + fld a.val 18)
  | .sextH d a => some (0x08000500 + fld d.val 22 + fld a.val 18)
  | .sextW d a => some (0x08000600 + fld d.val 22 + fld a.val 18)
  | .zextB d a => some (0x08000700 + fld d.val 22 + fld a.val 18)
  | .zextH d a => some (0x08000800 + fld d.val 22 + fld a.val 18)
  | .zextW d a => some (0x08000900 + fld d.val 22 + fld a.val 18)
  | .mov d a => some (0x08000A00 + fld d.val 22 + fld a.val 18)
  | .bfx d a b => some (0x08000B00 + fld d.val 22 + fld a.val 18 + b.bits)
  | .bfi d a b => some (0x08000C00 + fld d.val 22 + fld a.val 18 + b.bits)
  | .cmpEq p a b => some (0x0C000000 + fld p.val 23 + fld a.val 18 + b.bits)
  | .cmpNe p a b => some (0x0C000100 + fld p.val 23 + fld a.val 18 + b.bits)
  | .cmpLt p a b => some (0x0C000200 + fld p.val 23 + fld a.val 18 + b.bits)
  | .cmpGe p a b => some (0x0C000300 + fld p.val 23 + fld a.val 18 + b.bits)
  | .cmpLtn p a b => some (0x0C000400 + fld p.val 23 + fld a.val 18 + b.bits)
  | .cmpGen p a b => some (0x0C000500 + fld p.val 23 + fld a.val 18 + b.bits)
  | .tstZ p a b => some (0x0C000600 + fld p.val 23 + fld a.val 18 + b.bits)
  | .tstNz p a b => some (0x0C000700 + fld p.val 23 + fld a.val 18 + b.bits)
  | .addi d a i => some (0x10000000 + fld d.val 22 + fld a.val 18 + fld i.toNat 0)
  | .andi d a i => some (0x14000000 + fld d.val 22 + fld a.val 18 + fld i.toNat 0)
  | .ori d a i => some (0x18000000 + fld d.val 22 + fld a.val 18 + fld i.toNat 0)
  | .xori d a i => some (0x1C000000 + fld d.val 22 + fld a.val 18 + fld i.toNat 0)
  | .shli d a n => some (0x20000000 + fld d.val 22 + fld a.val 18 + fld n.val 0)
  | .shri d a n => some (0x20000040 + fld d.val 22 + fld a.val 18 + fld n.val 0)
  | .sari d a n => some (0x20000080 + fld d.val 22 + fld a.val 18 + fld n.val 0)
  | .roli d a n => some (0x200000C0 + fld d.val 22 + fld a.val 18 + fld n.val 0)
  | .lui d i => some (0x24000000 + fld d.val 22 + fld i.toNat 0)
  | .ldk d n => some (0x28002000 + fld d.val 22 + fld n.val 0)
  | .cmpiEq p a i => some (0x2C000000 + fld p.val 23 + fld a.val 16 + fld i.toNat 0)
  | .cmpiNe p a i => some (0x2C100000 + fld p.val 23 + fld a.val 16 + fld i.toNat 0)
  | .cmpiLt p a i => some (0x2C200000 + fld p.val 23 + fld a.val 16 + fld i.toNat 0)
  | .cmpiGe p a i => some (0x2C300000 + fld p.val 23 + fld a.val 16 + fld i.toNat 0)
  | .cmpiLtn p a i => some (0x2C400000 + fld p.val 23 + fld a.val 16 + fld i.toNat 0)
  | .cmpiGen p a i => some (0x2C500000 + fld p.val 23 + fld a.val 16 + fld i.toNat 0)
  | .pand p a b => some (0x30000000 + fld p.val 23 + fld a.val 20 + fld b.val 17)
  | .por p a b => some (0x30000001 + fld p.val 23 + fld a.val 20 + fld b.val 17)
  | .pxor p a b => some (0x30000002 + fld p.val 23 + fld a.val 20 + fld b.val 17)
  | .pandn p a b => some (0x30000003 + fld p.val 23 + fld a.val 20 + fld b.val 17)
  | .pnot p a => some (0x30000004 + fld p.val 23 + fld a.val 20)
  | .pmov p a => some (0x30000005 + fld p.val 23 + fld a.val 20)
  | .sel d a b p => some (0x34000000 + fld d.val 22 + fld a.val 18 + fld b.val 14 + fld p.val 11)
  | .ld t z mem => some (0x40000000 + fld t.val 22 + fld z.code 16 + mem.bits)
  | .ldz t z mem => some (0x44000000 + fld t.val 22 + fld z.code 16 + mem.bits)
  | .st t z mem => some (0x48000000 + fld t.val 22 + fld z.code 16 + mem.bits)
  | .stp t z mem => some (0x4C020000 + fld t.val 22 + fld (z.code % 2) 16 + mem.bits)
  | .amoAdd d a b z => some (0x50000000 + fld d.val 22 + fld a.val 18 + fld b.val 14 + fld z.code 12)
  | .amoAnd d a b z => some (0x50000100 + fld d.val 22 + fld a.val 18 + fld b.val 14 + fld z.code 12)
  | .amoOr d a b z => some (0x50000200 + fld d.val 22 + fld a.val 18 + fld b.val 14 + fld z.code 12)
  | .amoXor d a b z => some (0x50000300 + fld d.val 22 + fld a.val 18 + fld b.val 14 + fld z.code 12)
  | .amoMin d a b z => some (0x50000400 + fld d.val 22 + fld a.val 18 + fld b.val 14 + fld z.code 12)
  | .amoMax d a b z => some (0x50000500 + fld d.val 22 + fld a.val 18 + fld b.val 14 + fld z.code 12)
  | .amoMinn d a b z => some (0x50000600 + fld d.val 22 + fld a.val 18 + fld b.val 14 + fld z.code 12)
  | .amoMaxn d a b z => some (0x50000700 + fld d.val 22 + fld a.val 18 + fld b.val 14 + fld z.code 12)
  | .amoSwap d a b z => some (0x50000800 + fld d.val 22 + fld a.val 18 + fld b.val 14 + fld z.code 12)
  | .cas d a b z => some (0x54000000 + fld d.val 22 + fld a.val 18 + fld b.val 14 + fld z.code 12)
  | .vamoAddI32 v a g => some (0x58000000 + fld v.val 20 + fld a.val 16 + fld g.val 14)
  | .vamoMinI32 v a g => some (0x58000001 + fld v.val 20 + fld a.val 16 + fld g.val 14)
  | .vamoMaxI32 v a g => some (0x58000002 + fld v.val 20 + fld a.val 16 + fld g.val 14)
  | .vamoMinnN32 v a g => some (0x58000003 + fld v.val 20 + fld a.val 16 + fld g.val 14)
  | .vamoMaxnN32 v a g => some (0x58000004 + fld v.val 20 + fld a.val 16 + fld g.val 14)
  | .vamoAnd v a g => some (0x58000005 + fld v.val 20 + fld a.val 16 + fld g.val 14)
  | .vamoOr v a g => some (0x58000006 + fld v.val 20 + fld a.val 16 + fld g.val 14)
  | .vamoXor v a g => some (0x58000007 + fld v.val 20 + fld a.val 16 + fld g.val 14)
  | .vamoAddF32 v a g => some (0x58000008 + fld v.val 20 + fld a.val 16 + fld g.val 14)
  | .vamoMinF32 v a g => some (0x58000009 + fld v.val 20 + fld a.val 16 + fld g.val 14)
  | .vamoMaxF32 v a g => some (0x5800000A + fld v.val 20 + fld a.val 16 + fld g.val 14)
  | .vamoAddBf16 v a g => some (0x5800000B + fld v.val 20 + fld a.val 16 + fld g.val 14)
  | .br p n i => some (0x60000000 + fld p.val 23 + fld n.toNat 22 + fld i.toNat 0)
  | .bdec p n a i => some (0x64000000 + fld p.val 23 + fld n.toNat 22 + fld a.val 18 + fld i.toNat 0)
  | .call i => some (0x68000000 + fld i.toNat 0)
  | .jmp a => some (0x6C000000 + fld a.val 18)
  | .callr a => some (0x6C000100 + fld a.val 18)
  | .ret => some (0x6C000200)
  | .brst t f i => some (0x70000000 + fld t.val 20 + fld f.toNat 16 + fld i.toNat 0)
  | .vaddI32 d a b m => some (0x80000000 + fld d.val 20 + fld a.val 14 + fld b.val 8 + fld m.val 5)
  | .vsubI32 d a b m => some (0x80000001 + fld d.val 20 + fld a.val 14 + fld b.val 8 + fld m.val 5)
  | .vmulI32 d a b m => some (0x80000002 + fld d.val 20 + fld a.val 14 + fld b.val 8 + fld m.val 5)
  | .vmulhI32 d a b m => some (0x80000003 + fld d.val 20 + fld a.val 14 + fld b.val 8 + fld m.val 5)
  | .vminI32 d a b m => some (0x80000004 + fld d.val 20 + fld a.val 14 + fld b.val 8 + fld m.val 5)
  | .vmaxI32 d a b m => some (0x80000005 + fld d.val 20 + fld a.val 14 + fld b.val 8 + fld m.val 5)
  | .vminnI32 d a b m => some (0x80000006 + fld d.val 20 + fld a.val 14 + fld b.val 8 + fld m.val 5)
  | .vmaxnI32 d a b m => some (0x80000007 + fld d.val 20 + fld a.val 14 + fld b.val 8 + fld m.val 5)
  | .vandI32 d a b m => some (0x80000008 + fld d.val 20 + fld a.val 14 + fld b.val 8 + fld m.val 5)
  | .vorI32 d a b m => some (0x80000009 + fld d.val 20 + fld a.val 14 + fld b.val 8 + fld m.val 5)
  | .vxorI32 d a b m => some (0x8000000A + fld d.val 20 + fld a.val 14 + fld b.val 8 + fld m.val 5)
  | .vshlI32 d a b m => some (0x8000000B + fld d.val 20 + fld a.val 14 + fld b.val 8 + fld m.val 5)
  | .vshrI32 d a b m => some (0x8000000C + fld d.val 20 + fld a.val 14 + fld b.val 8 + fld m.val 5)
  | .vsarI32 d a b m => some (0x8000000D + fld d.val 20 + fld a.val 14 + fld b.val 8 + fld m.val 5)
  | .vabsI32 d a m => some (0x8000000E + fld d.val 20 + fld a.val 14 + fld m.val 5)
  | .vnegI32 d a m => some (0x8000000F + fld d.val 20 + fld a.val 14 + fld m.val 5)
  | .vaddsI32 d a b m => some (0x80000010 + fld d.val 20 + fld a.val 14 + fld b.val 8 + fld m.val 5)
  | .vsubsI32 d a b m => some (0x80000011 + fld d.val 20 + fld a.val 14 + fld b.val 8 + fld m.val 5)
  | .vaddF32 d a b m => some (0x84000000 + fld d.val 20 + fld a.val 14 + fld b.val 8 + fld m.val 5)
  | .vsubF32 d a b m => some (0x84000001 + fld d.val 20 + fld a.val 14 + fld b.val 8 + fld m.val 5)
  | .vmulF32 d a b m => some (0x84000002 + fld d.val 20 + fld a.val 14 + fld b.val 8 + fld m.val 5)
  | .vdivF32 d a b m => some (0x84000003 + fld d.val 20 + fld a.val 14 + fld b.val 8 + fld m.val 5)
  | .vsqrtF32 d a m => some (0x84000004 + fld d.val 20 + fld a.val 14 + fld m.val 5)
  | .vminF32 d a b m => some (0x84000005 + fld d.val 20 + fld a.val 14 + fld b.val 8 + fld m.val 5)
  | .vmaxF32 d a b m => some (0x84000006 + fld d.val 20 + fld a.val 14 + fld b.val 8 + fld m.val 5)
  | .vabsF32 d a m => some (0x84000007 + fld d.val 20 + fld a.val 14 + fld m.val 5)
  | .vnegF32 d a m => some (0x84000008 + fld d.val 20 + fld a.val 14 + fld m.val 5)
  | .vrcpF32 d a m => some (0x84000009 + fld d.val 20 + fld a.val 14 + fld m.val 5)
  | .vrsqrtF32 d a m => some (0x8400000A + fld d.val 20 + fld a.val 14 + fld m.val 5)
  | .vexp2F32 d a m => some (0x8400000B + fld d.val 20 + fld a.val 14 + fld m.val 5)
  | .vlog2F32 d a m => some (0x8400000C + fld d.val 20 + fld a.val 14 + fld m.val 5)
  | .vfloorF32 d a m => some (0x8400000D + fld d.val 20 + fld a.val 14 + fld m.val 5)
  | .vceilF32 d a m => some (0x8400000E + fld d.val 20 + fld a.val 14 + fld m.val 5)
  | .vrintF32 d a m => some (0x8400000F + fld d.val 20 + fld a.val 14 + fld m.val 5)
  | .vaddH d a b m t => some (0x88000000 + fld d.val 20 + fld a.val 14 + fld b.val 8 + fld m.val 5 + fld t.code 4)
  | .vsubH d a b m t => some (0x88000001 + fld d.val 20 + fld a.val 14 + fld b.val 8 + fld m.val 5 + fld t.code 4)
  | .vmulH d a b m t => some (0x88000002 + fld d.val 20 + fld a.val 14 + fld b.val 8 + fld m.val 5 + fld t.code 4)
  | .vminH d a b m t => some (0x88000003 + fld d.val 20 + fld a.val 14 + fld b.val 8 + fld m.val 5 + fld t.code 4)
  | .vmaxH d a b m t => some (0x88000004 + fld d.val 20 + fld a.val 14 + fld b.val 8 + fld m.val 5 + fld t.code 4)
  | .vabsH d a m t => some (0x88000005 + fld d.val 20 + fld a.val 14 + fld m.val 5 + fld t.code 4)
  | .vnegH d a m t => some (0x88000006 + fld d.val 20 + fld a.val 14 + fld m.val 5 + fld t.code 4)
  | .vaddD d a b m t => some (0x8C000000 + fld d.val 20 + fld a.val 14 + fld b.val 8 + fld m.val 5 + fld t.code 4)
  | .vsubD d a b m t => some (0x8C000001 + fld d.val 20 + fld a.val 14 + fld b.val 8 + fld m.val 5 + fld t.code 4)
  | .vmulD d a b m t => some (0x8C000002 + fld d.val 20 + fld a.val 14 + fld b.val 8 + fld m.val 5 + fld t.code 4)
  | .vdivF64 d a b m => some (0x8C000003 + fld d.val 20 + fld a.val 14 + fld b.val 8 + fld m.val 5)
  | .vsqrtF64 d a m => some (0x8C000004 + fld d.val 20 + fld a.val 14 + fld m.val 5)
  | .vminD d a b m t => some (0x8C000005 + fld d.val 20 + fld a.val 14 + fld b.val 8 + fld m.val 5 + fld t.code 4)
  | .vmaxD d a b m t => some (0x8C000006 + fld d.val 20 + fld a.val 14 + fld b.val 8 + fld m.val 5 + fld t.code 4)
  | .vfma d a b c t => some (0x90000000 + fld d.val 20 + fld a.val 14 + fld b.val 8 + fld c.val 2 + fld t.code 0)
  | .vcmpEq e a b m t => some (0x94000000 + fld e.val 20 + fld a.val 14 + fld b.val 8 + fld m.val 5 + fld t.code 3)
  | .vcmpNe e a b m t => some (0x94000001 + fld e.val 20 + fld a.val 14 + fld b.val 8 + fld m.val 5 + fld t.code 3)
  | .vcmpLt e a b m t => some (0x94000002 + fld e.val 20 + fld a.val 14 + fld b.val 8 + fld m.val 5 + fld t.code 3)
  | .vcmpGe e a b m t => some (0x94000003 + fld e.val 20 + fld a.val 14 + fld b.val 8 + fld m.val 5 + fld t.code 3)
  | .vcmpLtn e a b m => some (0x94000004 + fld e.val 20 + fld a.val 14 + fld b.val 8 + fld m.val 5)
  | .vcmpGen e a b m => some (0x94000005 + fld e.val 20 + fld a.val 14 + fld b.val 8 + fld m.val 5)
  | .vcmpUnord e a b m t => some (0x94000006 + fld e.val 20 + fld a.val 14 + fld b.val 8 + fld m.val 5 + fld t.code 3)
  | .vcmpOrd e a b m t => some (0x94000007 + fld e.val 20 + fld a.val 14 + fld b.val 8 + fld m.val 5 + fld t.code 3)
  | .vld v a m s => some (0x98000000 + fld v.val 20 + fld a.val 16 + fld m.val 7 + fld s.val 0)
  | .vst v a m s => some (0x98000010 + fld v.val 20 + fld a.val 16 + fld m.val 7 + fld s.val 0)
  | .vlds v a x m s => some (0x98000020 + fld v.val 20 + fld a.val 16 + fld x.val 10 + fld m.val 7 + fld s.val 0)
  | .vsts v a x m s => some (0x98000030 + fld v.val 20 + fld a.val 16 + fld x.val 10 + fld m.val 7 + fld s.val 0)
  | .vgath v a i m s => some (0x98000040 + fld v.val 20 + fld a.val 16 + fld i.val 10 + fld m.val 7 + fld s.val 0)
  | .vscat v a i m s => some (0x98000050 + fld v.val 20 + fld a.val 16 + fld i.val 10 + fld m.val 7 + fld s.val 0)
  | .vbcast d w a m => some (0x9C000000 + fld d.val 20 + fld w.code 18 + fld a.val 14 + fld m.val 5)
  | .vextr w x a l => some (0x9C000001 + fld w.code 24 + fld x.val 20 + fld a.val 14 + fld l.val 8)
  | .vins d w a l => some (0x9C000002 + fld d.val 20 + fld w.code 18 + fld a.val 14 + fld l.val 8)
  | .vredAddF32 d a m => some (0x9C000003 + fld d.val 20 + fld a.val 14 + fld m.val 5)
  | .vredMaxF32 d a m => some (0x9C000004 + fld d.val 20 + fld a.val 14 + fld m.val 5)
  | .vredAddI32 d a m => some (0x9C000005 + fld d.val 20 + fld a.val 14 + fld m.val 5)
  | .vredMaxI32 d a m => some (0x9C000006 + fld d.val 20 + fld a.val 14 + fld m.val 5)
  | .vperm d a b m => some (0x9C000007 + fld d.val 20 + fld a.val 14 + fld b.val 8 + fld m.val 5)
  | .vsel d a b m => some (0x9C000008 + fld d.val 20 + fld a.val 14 + fld b.val 8 + fld m.val 5)
  | .vcvt d a c m => some (0x9C000009 + fld d.val 20 + fld a.val 14 + fld c.code 8 + fld m.val 5)
  | .vunpk d a n f => some (0x9C00000A + fld d.val 20 + fld a.val 14 + fld n.val 8 + fld f.code 5)
  | .vpack d a n f => some (0x9C00000B + fld d.val 20 + fld a.val 14 + fld n.val 8 + fld f.code 5)
  | .baddq d a b f => some (0x9C00000C + fld d.val 20 + fld a.val 14 + fld b.val 8 + fld f.code 5)
  | .vmov d a m => some (0x9C00000D + fld d.val 20 + fld a.val 14 + fld m.val 5)
  | .viota d m => some (0x9C00000E + fld d.val 20 + fld m.val 5)
  | .tldef t n => some (wordTldef t n)
  | .tlring t u n => some (wordTlring t u n)
  | .tlwaitR t => some (0xA0000200 + fld t.val 20)
  | .tlwaitE t => some (0xA0000300 + fld t.val 20)
  | .tlcons t => some (0xA0000400 + fld t.val 20)
  | .tlstat t d => some (0xA0000500 + fld t.val 20 + fld d.val 14)
  | .tlfree t => some (0xA0000600 + fld t.val 20)
  | .tlpub t => some (0xA0000700 + fld t.val 20)
  | .tlopen t => some (0xA0000800 + fld t.val 20)
  | .wload u w n => some (wordWload u w n)
  | .mma t u w n => some (wordMma t u w n)
  | .mmaz t u w n => some (wordMmaz t u w n)
  | .wdrop w => some (wordWdrop w)
  | .tcopyIn t n => some (wordTcopyIn t n)
  | .tcopyOut u n => some (wordTcopyOut u n)
  | .dec t n => some (wordDec t n)
  | .tfill t n => some (wordTfill t n)
  | .tconv t u n => some (wordTconv t u n)
  | .gcopy r w d => some (wordGcopy r w d)
  | .gsend r w d => some (wordGsend r w d)
  | .gcmp r w d => some (wordGcmp r w d)
  | .ghash r w d => some (wordGhash r w d)
  | .grel r w d => some (wordGrel r w d)
  | .oalloc r w d => some (wordOalloc r w d)
  | .lmdef r => some (wordLmdef r)
  | .gland r w d => some (wordGland r w d)
  | .send a b v m p => some (wordSend a b v m p)
  | .recv a v m => some (wordRecv a v m)
  | .recvSet a b v => some (wordRecvSet a b v)
  | .peek a v m => some (wordPeek a v m)
  | .peekSet a b v => some (wordPeekSet a b v)
  | .req a b v m p => some (wordReq a b v m p)
  | .mbxdef a m => some (wordMbxdef a m)
  | .mbxq a m => some (wordMbxq a m)
  | .evend => some (wordEvend)
  | .vtgetLvt d => some (wordVtgetLvt d)
  | .vtgetGvt d => some (wordVtgetGvt d)
  | .vtgetEvid d => some (wordVtgetEvid d)
  | .escst d a => some (wordEscst d a)
  | .escwait => some (wordEscwait)
  | .tasknew d a b => some (wordTasknew d a b)
  | .taskdec a => some (wordTaskdec a)
  | .barnew d a => some (wordBarnew d a)
  | .bararr d a => some (wordBararr d a)
  | .barwait a b => some (wordBarwait a b)
  | .bararw d a => some (wordBararw d a)
  | .barfree a => some (wordBarfree a)
  | .spawn d a b => some (wordSpawn d a b)
  | .migr d a => some (wordMigr d a)
  | .slotq d a => some (0xD4000200 + fld d.val 22 + fld a.val 18)
  | .tkget a b => some (wordTkget a b)
  | .tkwait d a => some (0xD8000100 + fld d.val 22 + fld a.val 18)
  | .tkdone a b => some (wordTkdone a b)
  | .fdrain d => some (0xD8000300 + fld d.val 22)
  | .lkey d a s p => some (wordLkey d a s p)
  | .lksw d p => some (wordLksw d p)
  | .lkinj a p => some (wordLkinj a p)
  | .lkstat d p => some (wordLkstat d p)
  | .ctxsave d a => some (wordCtxsave d a)
  | .ctxsaveEvict d a => some (wordCtxsaveEvict d a)
  | .ctxload d a => some (wordCtxload d a)
  | .ctxkeyNew d a => some (wordCtxkeyNew d a)
  | .ctxkeySel a => some (wordCtxkeySel a)
  | .ctxkeyBind d a => some (wordCtxkeyBind d a)
  | .ctxkeyFree a => some (wordCtxkeyFree a)
  | .shdef d a => some (wordShdef d a)
  | .xinvStart _ _ => none
  | .xinvDone _ => none
  | .clklWrite _ => none
  | .tsWrite _ _ _ => none
  | .phaseComplete _ => none
  | .engineEnqueue _ _ => none
  | .matrixArbiterPass _ _ => none
  | .wloadComplete _ _ => none
  | .wdropExecute _ _ => none
  | .matrixCommandComplete _ _ => none
  | .copyCommandComplete _ _ => none
  | .decBlockStart _ _ => none
  | .decBlockComplete _ _ => none
  | .mintStep _ _ => none
  | .mintStopPoint _ _ => none
  | .gsendFinish _ _ => none
  | .zoneWriteAccept _ => none
  | .zoneEndWrite _ => none
  | .zoneComplete _ _ => none
  | .messageArrival _ => none
  | .antiMessageArrival _ => none
  | .rollback _ _ => none
  | .clearingCut _ => none
  | .clearingRoundClose _ _ => none
  | .gvtPublish _ => none
  | .taskDecrement _ => none
  | .taskStart _ => none
  | .stageHandlerStart _ _ => none
  | .migrationArrival _ => none
  | .ticketRequest _ => none
  | .ticketAdvance _ => none
  | .flitSeal _ => none
  | .linkDataFlit _ _ => none
  | .linkMarkerFlit _ _ => none
  | .linkAckFlit _ _ => none
  | .linkNakFlit _ _ => none
  | .linkAckTimeout _ => none
  | .linkTraining _ => none
  | .linkLoss _ => none
  | .waitWake _ _ => none
  | .trapDelivery _ => none
  | .supervisorRestart _ => none
  | .timerDeadline _ => none
  | .watchdog _ _ => none
  | .bankLockStore _ _ => none
  | .bankLockTimeout _ => none
  | .rotStore _ _ => none
  | .slotRotation _ _ => none
  | .relocStore _ _ => none
  | .relocationComplete _ => none
  | .fwdExpiry _ => none
  | .inboundFabricWrite _ => none
  | .fabricAck _ _ => none
  | .fabricRefusal _ => none
  | .postedAtomic _ => none
  | .reductionContribution _ => none
  | .reductionResultApply _ => none
  | .ringNotify _ _ => none
  | .mapperMapPending => none
  | .ringDefine _ _ => none
  | .recordAccept _ => none
  | .launch _ => none
  | .populationPlacement _ => none
  | .waitq _ => none
  | .signal _ => none
  | .mark _ => none
  | .populationFinish _ => none
  | .kdaWrite _ => none
  | .kdaRingput _ => none
  | .kdaNotify _ => none
  | .kdaAck _ => none
  | .kdaNak _ => none
  | .kdaRetransmit _ _ => none
  | .kdaRateRaise _ => none
  | .kdaTransmit _ => none
  | .treasuryRefill _ => none
  | .groupReqStore _ => none
  | .groupLimit _ => none
  | .groupAck _ => none
  | .groupJoin _ => none
  | .groupLeave _ => none
  | .groupBeat _ => none
  | .beatSend => none
  | .memberSilent _ => none
  | .memberExpel _ => none
  | .ceilingChange _ => none
  | .membershipEffect => none
  | .packageReset => none
  | .recoveryImage _ => none
  | .partitionReset _ => none
  | .syscallDoorbell _ => none
  | .syscallReply _ => none
  | .eventBlockClear _ _ => none
  | .vaultSoftError _ _ _ => none
  | .serviceDataError _ => none
  | .warmRestartComplete => none
  | .restartTimeout => none
  | .coreRetirement _ => none
  | .pageRetirement _ _ _ => none
  | .thermalHold => none
  | .thermalResume => none
  | .illegalInstruction _ => none
  | .instructionFetchFault => none
  | .timeStampCounterTick _ _ => none
  | .thermalPowerLimitChange _ => none
  | .spdmMeasurementRequest => none

/-- The word of an instruction (R32-R41). -/
def encode (i : Instr) : Option (BitVec 32) := (encodeNat i).map (BitVec.ofNat 32)

/-- The instruction the decoder reads from the four bytes of a word, lowest address first (R28). -/
noncomputable def decodeBytes (b : List Byte) : Except DecodeError Instr := decode (BitVec.ofNat 32 (ofBytes b))

/-- The instruction of a row's word as the opcode table numbers its bits: every instruction is one 32-bit
word, stored little-endian (R28). -/
noncomputable def decodeTableWord (_nbits w : Nat) : Option Instr :=
  match decodeBytes (toBytes 4 w) with
  | .ok i => some i
  | .error _ => none

end Sys2Proof
end

