-- ==== Sys2Proof/Config.lean ====
section
/-! DEFINITION. What is fixed for the part, and the values the spec leaves open. A free value has no body:
nothing can be proved about which value it is. -/

namespace Sys2Proof.Config

/-- The firmware entry, where each slot 15 starts (08_slots R133, R144). DESIGN CHOICE: the spec names the
entry and gives no address (notes/assumptions/2). -/
def firmwareEntry : Word := 0

/-- The package id and the other settings of the configuration record at reset (23_system R355). The
Treasury budget and the retirement thresholds are the defaults of R335, R361 and R362; the package id is a
DESIGN CHOICE (notes/assumptions/3). -/
def defaultRecord : ConfigRecord := { pkg := 0, trbud := 1150000, uncLim := 2, corLim := 16 }

/-- The `n`-th free choice between two behaviours that the spec allows (notes/assumptions/5). -/
opaque freeBool : Nat → Bool

/-- The `n`-th free 64-bit value (notes/assumptions/5). -/
opaque freeWord : Nat → Word

/-- The `n`-th free content of a vector register: what the vector registers hold at the start of an event
(04_registers R74; notes/assumptions/5). -/
opaque freeVec : Nat → Vec

/-- The `n`-th free content of a mask register: what m1-m7 hold at the start of an event (04_registers R74;
notes/assumptions/5). -/
opaque freeMask : Nat → BitVec 32

/-- The `n`-th context key that the root of trust draws (20_counters R345; notes/assumptions/5). -/
opaque freeKey : Nat → BitVec 256

/-- Whether both signatures over a firmware image verify (23_system R353; notes/assumptions/7). -/
opaque signed : List Byte → Bool

/-- The digest of a firmware image that an SPDM measurement reports (23_system R353; notes/assumptions/7). -/
opaque digest : List Byte → List Byte

/-- The first byte of the HBM region (09_memories R158). -/
def hbmBase : Nat := 0x10000000000
/-- The byte after the HBM region (09_memories R158). -/
def hbmEnd : Nat := 0x20000000000
/-- The mailbox windows (09_memories R164). -/
def mboxBase : Nat := 0x40000000000
/-- The reduction window (10_access R188). -/
def redBase : Nat := 0x50000000000
/-- Control space (09_memories R158). -/
def ctlBase : Nat := 0x60000000000
/-- The command front end's block (14_queues R251). -/
def queueBase : Nat := 0x60010000000
/-- The partition table (18_tables R303). -/
def partBase : Nat := 0x60020000000
/-- The bank maps (18_tables R304). -/
def bankBase : Nat := 0x60021000000
/-- The range tables (18_tables R307). -/
def rangeBase : Nat := 0x60022000000
/-- POTB (18_tables R310). -/
def potBase : Nat := 0x60023000000
/-- The core maps (18_tables R311). -/
def mapBase : Nat := 0x60030000000
/-- The die counter blocks (20_counters R329). -/
def countBase : Nat := 0x60040000000
/-- The watchdog blocks (20_counters R330). -/
def watchBase : Nat := 0x60040100000
/-- The clock block (20_counters R338). -/
def clockBase : Nat := 0x60050000000
/-- The event block (23_system R356). -/
def eventBase : Nat := 0x60060000000
/-- The reset words (23_system R359). -/
def resetBase : Nat := 0x60060000100
/-- The forward block (23_system R358). -/
def fwdBase : Nat := 0x60060000200

end Sys2Proof.Config
end

