-- ==== Sys2Proof/Machine/State.lean ====
section
/-! DEFINITION. Everything the spec gives the machine, as plain data, and the machine right after reset.
Each record's comment names the file and rule of spec/ that gives it. -/

namespace Sys2Proof.Machine

/-- Who stops a run: nobody. Every behaviour the spec describes is a next state, so this type has no
constructor that a meaning uses; `stuck` is there for a reader to see that none does (safe: it is never
raised). -/
inductive Fault where
  /-- Raised by no meaning (safe). -/
  | stuck
  deriving DecidableEq, Repr

/-- Why an instruction has no meaning. -/
inductive Refusal where
  /-- Raised by `exec`'s arm of an instruction that has no meaning yet; safe, since the run stops. -/
  | notModelled (mnemonic : String)
  deriving DecidableEq, Repr

/-! ### Finite maps -/

/-- A map from numbers to values, as pairs with rising keys; a number that is not listed has the map's
default. -/
abbrev SMap (α : Type) := List (Nat × α)

/-- The value of key `q`, `d` where it is not listed. -/
def SMap.get {α : Type} (d : α) : SMap α → Nat → α
  | [], _ => d
  | (k, v) :: t, q => if k = q then v else SMap.get d t q

/-- The map with `v` at key `q`. -/
def SMap.set {α : Type} : SMap α → Nat → α → SMap α
  | [], q, v => [(q, v)]
  | (k, w) :: t, q, v =>
    if k = q then (q, v) :: t
    else if q < k then (q, v) :: (k, w) :: t
    else (k, w) :: SMap.set t q v

/-- The map without key `q`. -/
def SMap.del {α : Type} (m : SMap α) (q : Nat) : SMap α := m.filter (fun e => e.1 != q)

/-! ### Places, traps and waits -/

/-- A slot of a core. -/
structure Place where
  core : CoreId
  slot : SlotId
  deriving DecidableEq, Repr

/-- The trap causes (08_slots R142). -/
inductive Cause where
  | illop | priv | vreg | align | xlat | prot | noremld | shape | tile | decerr | decfmt | bargen | graph
  | mbox | vtorder | logfull | phasefull | stale | tagfail | watchdog | poison | pglost | syscall | brkpt
  | intr | link | faberr | locktime
  deriving DecidableEq, Repr

/-- The code of a trap cause (08_slots R142). -/
def Cause.code : Cause → BitVec 8
  | .illop => 0x01 | .priv => 0x02 | .vreg => 0x03 | .align => 0x04 | .xlat => 0x05 | .prot => 0x06
  | .noremld => 0x07 | .shape => 0x08 | .tile => 0x09 | .decerr => 0x0A | .decfmt => 0x0B | .bargen => 0x0C
  | .graph => 0x0D | .mbox => 0x0E | .vtorder => 0x0F | .logfull => 0x10 | .phasefull => 0x11
  | .stale => 0x12 | .tagfail => 0x13 | .watchdog => 0x14 | .poison => 0x15 | .pglost => 0x16
  | .syscall => 0x17 | .brkpt => 0x18 | .intr => 0x19 | .link => 0x1A | .faberr => 0x1B | .locktime => 0x1C

/-- A queued trap record (08_slots R144), with the population of the thread that trapped, 0 for a core event (14_queues R258,
21_prog_preempt R349). -/
structure TrapRec where
  pop   : BitVec 32
  cause : Cause
  sub   : BitVec 8
  slot  : SlotId
  async : Bool
  tval  : Word
  tpc   : Word
  tts   : Word
  deriving DecidableEq, Repr

/-- TCAUSE, TVAL, TPC and TTS (04_registers R78). -/
structure TrapRegs where
  tcause : Word
  tval   : Word
  tpc    : Word
  tts    : Word
  deriving DecidableEq, Repr

/-- The states of a slot (08_slots R133). -/
inductive SlotState where
  | free | ready | stalled | wait | parked | held | done | transit | stopped
  deriving DecidableEq, Repr

/-- The code that `slotq` reports (08_slots R133). -/
def SlotState.code : SlotState → Nat
  | .free => 0 | .ready => 1 | .stalled => 2 | .wait => 3 | .parked => 4 | .held => 5 | .done => 6
  | .transit => 7 | .stopped => 8

/-- The stores of an event or of the logs that can be full (15_messages R286). -/
inductive LogKind where
  | escrow | undo | sent
  deriving DecidableEq, Repr

/-- The engine queues of a core (11_matrix R205). -/
inductive QueueKind where
  | matrix | copy | dec
  deriving DecidableEq, Repr

/-- What a tile is waited for to be (11_matrix R191, R210-R217). -/
inductive TileWant where
  | ready | readyOrFailed | emptyOk | fillingDone | forMma | freeable | ringFreeable
  deriving DecidableEq, Repr

/-- What a waiting slot waits for (08_slots R139). -/
inductive Cond where
  /-- `valloc`, `ctxload`: `n` registers free and this slot's request first in the grant order (04_registers R73). -/
  | regs (n : Nat)
  /-- `phase`: the phase the thread has arrived at completes (10_access R187). -/
  | phaseOver (pop : BitVec 32) (gen : Nat)
  /-- `waitr`: the word at `da` differs from `old`, or the monitor fired (10_access R185). -/
  | word (da : Nat) (old : Word)
  /-- A tile of this core is in a state (11_matrix R210-R217). -/
  | tile (h : TileH) (want : TileWant)
  /-- An engine queue of this core has a free entry (11_matrix R204). -/
  | queue (q : QueueKind)
  /-- A weight slot is unheld or held by this core and population (11_matrix R201). -/
  | weights (ws : WSlot)
  /-- The Treasury grants the allowance this slot asked for (20_counters R336). -/
  | allowance
  /-- A message of one of these mailboxes is deliverable (15_messages R270). -/
  | message (set : BitVec 16)
  /-- GVT passes a time (15_messages R287). -/
  | gvtAbove (t : BitVec 48)
  /-- The thread owns no Escrow entry (15_messages R290). -/
  | escrowEmpty
  /-- A store of actions has space (15_messages R286). -/
  | logSpace (k : LogKind) (n : Nat)
  /-- The undo log has room for the checkpoint of the event that `recv` from these mailboxes begins, or that event would have
  LVT = GVT (15_messages R279, R286). -/
  | checkpoint (set : BitVec 16)
  /-- A barrier round completes, or the handle is no longer valid (18_tables R314). -/
  | barrier (h : Word) (round : BitVec 16)
  /-- A ticket word is called (18_tables R316). -/
  | ticket (da : Nat)
  /-- Every earlier fabric write and posted atomic of the thread is acknowledged (18_tables R316, 09_memories R174). -/
  | acked
  /-- Every message and decrement that the thread sent to a core in a fence's scope has been taken (09_memories R174,
  15_messages R267). -/
  | sent (scope : Nat)
  /-- The undo log, the sent log or the spill area is empty, or XINV is idle (04_registers R79, R80). -/
  | undoEmpty | sentEmpty | spillEmpty | xinvIdle
  /-- ROT or RELOC is idle (08_slots R140). -/
  | rotIdle | relocIdle
  /-- A Mint run slot of the die is free (13_graphs R235). -/
  | mintFree
  /-- The running Mint instruction of the slot ends or stops (13_graphs R235). -/
  | mintRun
  /-- A landing zone leaves REWRITING (13_graphs R248). -/
  | zoneDone (z : ZoneId)
  /-- Slot 15 waits for a trap record (08_slots R144). -/
  | trapRecord
  /-- A vault bank is unlocked (08_slots R140). -/
  | bank (core : CoreId) (bank : BitVec 4)
  /-- The flags of every earlier posted float atomic of the thread at `p` have come back (07_vector R117, 10_access R183). -/
  | flags (p : Place)
  /-- Every earlier store of the thread is in committed memory or in the combining buffer (09_memories R171). -/
  | stored
  /-- The replay buffer of a port has room for a marker (14_queues R250, 18_tables R320). -/
  | replayRoom (p : Port)
  deriving DecidableEq, Repr

/-- How far a waiting instruction has got, for its next issue. -/
inductive Progress where
  | none
  /-- A phase was arrived at (10_access R187). -/
  | arrived (gen : Nat)
  /-- A barrier round was arrived at (18_tables R314). -/
  | joined (round : BitVec 16)
  /-- An open event was ended (15_messages R287). -/
  | ended
  /-- The Treasury granted the allowance (20_counters R336). -/
  | granted
  /-- The image of a context is on its way to another package (20_counters R346). -/
  | sealed
  deriving DecidableEq, Repr

/-- A locked bank that an access has met, and whether the lock has released it since: it then completes before a new lock of the bank
takes effect (08_slots R140). -/
structure Stall where
  core  : CoreId
  bank  : BitVec 4
  freed : Bool
  deriving DecidableEq, Repr

/-- The monitor of a slot (10_access R185). -/
structure Monitor where
  line  : Nat
  fired : Bool
  deriving DecidableEq, Repr

/-- Where a running Mint instruction stands (13_graphs R235, R236, R243). -/
inductive MintStage where
  | walking | admitting | objects | sizes | header
  deriving DecidableEq, Repr

/-- A running Mint instruction (13_graphs R235, R236): its operation, destination and record, the device
page of each page of the record (translated at issue), DEST, VTLOG and STKSIZE of the header captured at issue,
whether the root step is done, and the steps since issue. -/
structure MintRun where
  op     : Nat
  xd     : XReg
  recAddr : Word
  pages  : List (Nat × Nat)
  dest   : Word
  vtlog  : Nat
  stk    : Nat
  rooted : Bool
  steps  : Nat
  stage  : MintStage
  deriving DecidableEq, Repr

/-- A context-key binding of a slot (20_counters R344). -/
structure Binding where
  key  : BitVec 10
  base : Word
  len  : Nat
  deriving DecidableEq, Repr

/-- An event's key (15_messages R270): VRT, 3 − PRIO, 3 − PR, SPKG, SCORE, MID. -/
structure EvKey where
  vrt   : Nat
  prio  : Nat
  pr    : Nat
  spkg  : Nat
  score : Nat
  mid   : Nat
  deriving DecidableEq, Repr

/-- A pending rollback of a slot: the earliest event to undo, and the times of its causes, which stay
terms of GVT (15_messages R283, 20_counters R334). -/
structure Pending where
  evid   : BitVec 32
  causes : List (BitVec 48)
  deriving DecidableEq, Repr

/-- A slot and its thread (01_device R21, 04_registers R71, R78). -/
structure Slot where
  /-- The slot's state (08_slots R133). -/
  state    : SlotState
  /-- x0-x15 (R71). -/
  x        : Vector Word 16
  /-- p0-p7, p0 held as 1 (R71). -/
  p        : BitVec 8
  /-- m0-m7 (R71); 0 while the slot holds no vector registers. -/
  m        : Vector (BitVec 32) 8
  /-- v0 to v(VCNT − 1); the length is VCNT (R71, R73). -/
  v        : List Vec
  /-- PC (R78). -/
  pc       : Word
  /-- TS.OPT, TS.EVO, TS.PROT, TS.PART (R78). -/
  opt      : Bool
  evo      : Bool
  prot     : Bool
  part     : Part
  /-- FRM.MODE, FFLAGS (R78). -/
  frm      : BitVec 3
  fflags   : BitVec 5
  /-- PRVB, PRVL (R78). -/
  prvb     : Word
  prvl     : Word
  /-- LVT, EVSB, EVSL, EVID (R78). -/
  lvt      : BitVec 48
  evsb     : Word
  evsl     : Word
  evid     : BitVec 32
  /-- POPID, THIDX (R78). -/
  popid    : BitVec 32
  thidx    : BitVec 32
  /-- The state range captured for the open event (15_messages R279). -/
  range    : Option (Word × Word)
  /-- What the slot waits for (08_slots R139), and how far its instruction has got. -/
  wait     : Option Cond
  prog     : Progress
  /-- The locked banks that the slot's instruction has met (08_slots R140). -/
  stalls   : List Stall
  /-- The monitor (10_access R185). -/
  monitor  : Option Monitor
  /-- RES (20_counters R337). -/
  res      : Nat
  /-- Set by `yield` until the next cycle the slot owns (08_slots R135). -/
  yielded  : Bool
  /-- A pending rollback (15_messages R283), and the anti-messages its sequence still waits for (R299). -/
  pending  : Option Pending
  antiOut  : Nat
  /-- Fabric writes refused since the last `fdrain` (18_tables R316). -/
  refused  : Nat
  /-- The Mint instruction in progress (13_graphs R235). -/
  mint     : Option MintRun
  /-- The context-key binding (20_counters R344). -/
  binding  : Option Binding
  /-- Reserved under 21_prog_preempt R349. -/
  reserved : Bool
  /-- The rotation of the slot waits for a `ctxsave.evict` (08_slots R151). -/
  evicting : Bool
  /-- The handler thread of a stage's mailbox, for RUN: the core and the mailbox (15_messages R294). -/
  stage    : Option (CoreId × Mbox)
  /-- The mailboxes whose OWNER the thread became, each with its core and the slot number it names (15_messages R268). -/
  owned    : List (CoreId × SlotId × Mbox)
  /-- The slot stops at its next boundary and halts (08_slots R146, `sret.abort`). -/
  stopping : Bool
  /-- A boundary trap, an INTR with its subcode, that waits for the slot's next boundary (08_slots R141, R143). -/
  intr     : Option Nat
  /-- The trap record of a parked slot (08_slots R144, 23_system R358, 21_prog_preempt R348). -/
  trapped  : Option TrapRec
  /-- What a slot in TRANSIT becomes once its context is whole (08_slots R134); none for a slot that waits for a message
  or for the rest of a rotation. -/
  into     : Option SlotState
  /-- By package offset: the instruction words that the thread may still be given, fetched since its last `fence.cb`
  (02_encoding R31); and the step after that fence, 0 before the first (R52). -/
  ibuf     : SMap (List (BitVec 32))
  fenced   : Nat
  /-- The TSC of the die that the thread was on when it last left a slot (20_counters R332). -/
  seen     : Word
  deriving DecidableEq, Repr

/-! ### Memory-side records of a core -/

/-- The address forms (09_memories R157). -/
inductive Form where
  | loc | dev | virt
  deriving DecidableEq, Repr

/-- The identity of a thread in its buffered stores (09_memories R364). -/
structure Ident where
  pop   : BitVec 32
  thidx : BitVec 32
  slot  : SlotId
  deriving DecidableEq, Repr

/-- A combining-buffer entry (09_memories R169, R364): the line's address as issued and device address, the
byte mask and the data; `merged` is set by `fence.l` (R171), `inbound` marks a shared-range write (R175), `left` names the core to which
relocations have taken its thread from this one (08_slots R153). `at_` holds, by byte, the step of the store that wrote it last (R171). -/
structure Entry where
  who     : Ident
  retired : Bool
  form    : Form
  line    : Word
  da      : Nat
  mask    : BitVec 64
  data    : BitVec 512
  merged  : Bool
  inbound : Bool
  left    : Option CoreId
  at_     : SMap Nat
  deriving DecidableEq, Repr

/-- A command in an engine queue (11_matrix R204): who issued it, and for which population. -/
structure Issuer where
  place : Place
  pop   : BitVec 32
  part  : Part
  deriving DecidableEq, Repr

/-- A captured shape record (18_tables R305). -/
structure Shape where
  fmt    : Nat
  rowMaj : Bool
  rd     : Bool
  wr     : Bool
  valid  : Bool
  len    : Nat
  vecs   : Nat
  blocks : Nat
  deriving DecidableEq, Repr

/-- A device range that a command translated at issue: each page's device address (11_matrix R204). -/
abbrev Pages := List (Nat × Nat)

/-- A block that the decompression engine has claimed a slot for (11_matrix R222, R224). -/
structure DecBlock where
  slot : TileH
  /-- Offset of the block in the source, payload bits, decoded bytes, code lengths, CRC, last flag. -/
  at_  : Nat
  bits : Nat
  size : Nat
  lens : Word
  crc  : BitVec 32
  last : Bool
  deriving DecidableEq, Repr

/-- What the decompression engine finds in a block's header: the block, with the shape that it names, or a failure with its
status flags and ERR (11_matrix R222, R224). -/
inductive Header where
  | block (shape : Nat) (b : DecBlock)
  | failed (flags err : Nat)
  deriving DecidableEq, Repr

/-- The shadow copy of a tile that the matrix unit fills: bytes by their offset in the tile, and the offsets of
poisoned words (11_matrix R192, R206). -/
structure Shadow where
  bytes  : SMap Byte
  poison : List Nat
  deriving DecidableEq, Repr

/-- The work of an engine command (11_matrix R215-R224). -/
inductive Work where
  | wload (ws : WSlot) (src : TileH) (shape : Shape) (fmt : Nat)
  | mma (zero : Bool) (dst src : TileH) (ws : WSlot) (fmt rnd : Nat) (act out : Shape) (pass : Nat)
  | wdrop (ws : WSlot)
  | copyIn (named dst : TileH) (pages : Pages) (src : Word) (len : Nat)
  | copyOut (src : TileH) (pages : Pages) (dst : Word) (len : Nat)
  | fill (named dst : TileH) (pattern : Word) (len : Nat)
  | conv (named dst src : TileH) (from_ to_ : Shape) (rnd : Nat)
  | dec (named : TileH) (pages : Pages) (src : Word) (limit blocks : Nat) (off count : Nat)
      (stall : Option Nat) (head : Option Header) (cur : Option DecBlock)
  deriving DecidableEq, Repr

/-- A queued engine command. -/
structure Cmd where
  by_  : Issuer
  work : Work
  deriving DecidableEq, Repr

/-! ### Messages, logs and the Escrow -/

/-- Who hears of the acceptance or the refusal of an inbound write: nobody, the package that sent it, with its
tag, only of a refusal where more packets of the write follow (19_prog_link R325), or the sender of a KDA datagram, with the queue set's partition, the message id and
whether it arrived marked CE (14_queues R263). -/
inductive Ack where
  | none
  | fabric (pkg : BitVec 13) (tag : Word)
  | more (pkg : BitVec 13) (tag : Word)
  | kda (part : Part) (id : Word) (ce : Bool)
  deriving DecidableEq, Repr

/-- A message (15_messages R266) with what its packet carries: the sender's partition, the domain of its
population where bound (R269), the colour (20_counters R333), the sending population and place, and who hears of
its acceptance. -/
structure Msg where
  h0     : Word
  h1     : Word
  body   : BitVec 384
  part   : Part
  dom    : Option (BitVec 16)
  colour : Bool
  pop    : BitVec 32
  place  : Place
  ack    : Ack
  deriving DecidableEq, Repr

/-- An event: the slot of its thread, the partition (rotation may bring threads of several to one slot), and its
EVID (15_messages R279, 08_slots R149). -/
structure Event where
  slot : SlotId
  part : Part
  evid : BitVec 32
  deriving DecidableEq, Repr

/-- A message in a mailbox; a processed one belongs to an event (15_messages R274). -/
structure MboxMsg where
  msg  : Msg
  done : Option Event
  deriving DecidableEq, Repr

/-- The words of an undo-log record (15_messages R279): a store record, or a checkpoint with the mailbox
of the event's message. -/
inductive UndoRec where
  | store (by_ : Event) (da : Nat) (old : Word)
  | check (by_ : Event) (vrt : BitVec 48) (key : EvKey) (x : Vector Word 16) (pc : Word) (lvt : BitVec 48)
      (p : BitVec 8) (mb : Mbox)
  deriving DecidableEq, Repr

/-- A sent-log entry (15_messages R281). -/
structure SentRec where
  h0   : Word
  h1   : Word
  desc : Word
  by_  : Event
  deriving DecidableEq, Repr

/-- The action of an Escrow entry (15_messages R280, R289, R292, R293). -/
inductive EscAct where
  | store (da : Nat) (mask : BitVec 64) (data : BitVec 512)
  | send (desc : Word) (m : Msg)
  | taskDec (da : Nat)
  | taskNew (da : Nat) (w3 : Word) (queue : Bool)
  deriving DecidableEq, Repr

/-- An Escrow entry (15_messages R280), with the place of the thread that owns it (R290). -/
structure EscEntry where
  owner : Place
  lvt   : BitVec 48
  score : CoreId
  issue : Word
  slot  : SlotId
  evid  : BitVec 32
  pop   : BitVec 32
  part  : Part
  act   : EscAct
  deriving DecidableEq, Repr

/-- The carried context of a migrating thread, with the slot that it left (15_messages R296). -/
structure Carried where
  from_ : Place
  slot : Slot
  xd   : XReg
  deriving DecidableEq, Repr

/-- What travels on the die's mesh and waits to arrive (15_messages R267, R293, R296; 13_graphs R249); a decrement
with the locked banks that it has met (08_slots R140). -/
inductive Net where
  | msg (dst : CoreId) (mb : Mbox) (forwarded counted : Bool) (m : Msg)
  | taskDec (da : Nat) (by_ : Issuer) (stalls : List Stall)
  | migrate (dst : Place) (c : Carried)
  deriving DecidableEq, Repr

/-- A landing zone of a core (13_graphs R248): STATE 0 ARMED, 1 RECEIVING, 2 REWRITING, 3 DONE; `endAt` is the
zone offset of the accepted end write (R249). -/
structure Zone where
  v     : Bool
  base  : Nat
  size  : Nat
  mbx   : Mbox
  state : BitVec 2
  src   : BitVec 13
  vbase : Word
  owner : BitVec 32
  part  : Part
  endAt : Nat
  deriving DecidableEq, Repr

/-- A watchdog entry (20_counters R330), with the window in force since LAST (04_registers R79) and the time since LAST
in which no unhalted thread of the population occupied a slot, or in which issue was held (08_slots R149, 23_system R360). -/
structure WatchEntry where
  pop  : BitVec 32
  v    : Bool
  last : Word
  win  : BitVec 32
  idle : Word
  deriving DecidableEq, Repr

/-- A copy of a block that the core captured: its package offset, its bytes, and the step in which they were read from
memory (02_encoding R52). -/
structure Copy where
  at_   : Nat
  bytes : List Byte
  when_ : Nat
  deriving DecidableEq, Repr

/-- A core (04_registers R79, and the rules named at the fields). -/
structure Core where
  slots    : Vector Slot 16
  /-- TTB, MBT, ULOGB, ULOGL, SLOGB, SLOGL (R79). -/
  ttb      : Word
  mbt      : Word
  ulogb    : Word
  ulogl    : Word
  slogb    : Word
  slogl    : Word
  /-- MXW.WEIGHT, PHBUF, PARTMAP (R79). -/
  weight   : BitVec 4
  phbuf    : Word
  partmap  : Word
  /-- TIMER.DEADLINE, WDWIN.WINDOW (R79). -/
  timer    : Word
  wdwin    : BitVec 32
  /-- FWD.TARGET, FWD.V, and the TSC at which V was set (R79, 08_slots R154). -/
  fwdTo    : BitVec 10
  fwdV     : Bool
  fwdAt    : Word
  /-- TCAUSE, TVAL, TPC, TTS of slot 15 (R78), and the hidden save (08_slots R145). -/
  trap     : TrapRegs
  hidden   : Option TrapRegs
  /-- The supervisor's entry (08_slots R144). -/
  entry    : Word
  /-- Queued trap records, oldest first (08_slots R144). -/
  records  : List TrapRec
  /-- The record being handled, to be delivered again after a restart (23_system R357). -/
  current  : Option TrapRec
  /-- The compute cycle, and the partition last served by the shared lending rule (08_slots R135). -/
  cycle    : Nat
  served   : Part
  /-- BLOCK.LOCK, and for each locked bank the cycle of its store (08_slots R140). -/
  lock     : BitVec 16
  lockAt   : SMap Nat
  /-- ROT.SLOTS, ROT.INPART, ROT.BUSY; the slots still to rotate, and the cycle of the store (08_slots R140, R149). -/
  rotSlots : BitVec 15
  rotPart  : Part
  rotLeft  : BitVec 15
  rotAt    : Nat
  /-- RELOC.TARGET, RELOC.ERR, RELOC.BUSY (08_slots R140). -/
  relocTo  : BitVec 10
  relocErr : Bool
  relocBusy : Bool
  /-- The tenant slots have entered TRANSIT for the relocation (08_slots R153). -/
  relocIn  : Bool
  /-- Waiting `valloc` requests in the order of their issue (04_registers R73). -/
  grants   : List (SlotId × Nat)
  /-- The combining buffer, and the spilled records with their place in the spill area, both in creation
  order (09_memories R169, R170, R172). -/
  buffer   : List Entry
  spill    : List (Nat × Entry)
  /-- The engine queues (11_matrix R205). -/
  matrixQ  : List Cmd
  copyQ    : List Cmd
  decQ     : List Cmd
  /-- The locked banks that the command at the head of a queue has met (08_slots R140). -/
  stalls   : List (QueueKind × Stall)
  /-- The shadow copies of tiles that the matrix unit fills, by handle (11_matrix R192). -/
  shadow   : SMap Shadow
  /-- The messages of each mailbox in arrival order (15_messages R268-R270). -/
  mail     : SMap (List MboxMsg)
  /-- MID, the core's send count (15_messages R266, R272). -/
  mid      : BitVec 28
  /-- The Escrow issue number (15_messages R280). -/
  escIssue : Word
  /-- The undo log and the sent log, oldest first, each record with its position: the number of units, or of
  entries, that were appended before it (15_messages R279, R281); the positions that an empty log goes on from. -/
  undo     : List (Nat × UndoRec)
  undoAt   : Nat
  sent     : List (Nat × SentRec)
  sentAt   : Nat
  /-- The run list: records in the core, and the first of those chained in the vault with their number
  (15_messages R291, R293; 14_queues R250). -/
  runList  : List Nat
  /-- Anti-messages that wait for a rollback before they meet their partner (15_messages R284). -/
  antis    : List (Mbox × Msg)
  /-- The landing zones (13_graphs R248). -/
  zones    : Vector Zone 8
  /-- The watchdog block (20_counters R330). -/
  watch    : Vector WatchEntry 15
  fires    : Word
  /-- The context key entry that CTXSC shows (04_registers R82). -/
  keySel   : BitVec 10
  /-- The captured copies that the core may give again (02_encoding R52). -/
  captured : List Copy
  /-- The TSC of the supervisor's last stop, and whether it came within 1 s of the one before (23_system R357). -/
  lastStop : Option Word
  restop   : Bool
  /-- The core was retired with no spare left (23_system R361). -/
  absent   : Bool
  /-- Uncorrectable errors of the core's vault, each with its bank and its TSC (23_system R361). -/
  vaultErrs : List (Nat × Word)
  deriving DecidableEq, Repr

/-! ### Clusters and dies -/

/-- A weight slot of a matrix unit (11_matrix R201): the holder, K, COLS and FMT of the last `wload` enqueued; and
the latched weights as the bytes of the tile, their poisoned words, and the shape and format they are read in. -/
structure Weights where
  holder : Option (CoreId × BitVec 32)
  k      : Nat
  cols   : Nat
  fmt    : Nat
  shape  : Shape
  as_    : Nat
  bytes  : List Byte
  poison : List Nat
  deriving DecidableEq, Repr

/-- A cluster (01_device R10, 11_matrix R201-R205): weight slots, the member and the passes taken of the
matrix arbiter's round, and the rotation of the copy and decompression engines. -/
structure Cluster where
  ws      : Vector Weights 4
  member  : Fin 8
  taken   : Nat
  quota   : Vector (BitVec 4) 8
  copyAt  : Fin 8
  decAt   : Fin 8
  deriving DecidableEq, Repr

/-- A request to the Treasury (20_counters R336): a slot's, with its estimate. -/
structure Ask where
  place : Place
  cost  : Nat
  deriving DecidableEq, Repr

/-- A cached translation entry (18_tables R309): the partition, the virtual addresses that it concerns, where it lies, a
page-table entry at a package offset or a range entry by its index, and the words that were read there. -/
structure Cached where
  part  : Part
  base  : Nat
  size  : Nat
  range : Bool
  at_   : Nat
  words : List Word
  deriving DecidableEq, Repr

/-- A compute die (04_registers R80, and the rules named at the fields). -/
structure Die where
  /-- GVT, VTDOM.DOM, VTDOM.V, TSC (R80). -/
  gvt      : BitVec 48
  dom      : BitVec 16
  domV     : Bool
  tsc      : Word
  /-- The counts since the TSC last made a count of 0 or 2 (20_counters R331). -/
  steady   : Nat
  /-- CLKC, CLKL (R80). -/
  clkc     : BitVec 16
  clkl     : BitVec 16
  /-- TRSY and the Treasury's queue, whose length is ADMW (R80, 20_counters R336). -/
  trsy     : BitVec 32
  asks     : List Ask
  /-- The Escrow, whose length is ESCN (R80, 15_messages R280). -/
  escrow   : List EscEntry
  /-- ROLLS, ANNIH, GVTR (R80). -/
  rolls    : Word
  annih    : Word
  gvtr     : BitVec 32
  /-- XINV.SCOPE, PART, PAGE, BUSY (R80). -/
  xscope   : BitVec 3
  xpart    : Part
  xpage    : BitVec 45
  xbusy    : Bool
  /-- The counter block (20_counters R329). -/
  trgr     : Word
  trwt     : Word
  trbud    : BitVec 32
  escr     : Word
  escd     : Word
  gvtrn    : Word
  emsg     : Word
  eanti    : Word
  etask    : Word
  etrap    : Word
  secc     : Word
  seuc     : Word
  /-- The Clearing (20_counters R333, R334): the colour, the counts per colour, the contribution, whether a
  round is open and when it may begin, and the minima that wait to be published, oldest first. -/
  colour   : Bool
  sent     : Vector Nat 2
  rcvd     : Vector Nat 2
  low      : Nat
  open_    : Bool
  closedAt : Word
  toGvt    : List Nat
  /-- The translation cache (18_tables R309). -/
  cache    : List Cached
  /-- Pending ceiling changes: effective time, MHz (20_counters R342). -/
  sched    : List (Word × BitVec 16)
  /-- The core map: physical cores by logical number, and the free spares (18_tables R311). -/
  phys     : SMap (BitVec 8)
  spares   : BitVec 8
  /-- The slot whose Mint run stepped last, by its number in the die (13_graphs R238). -/
  mintAt   : Nat
  /-- Clusters. -/
  clusters : Vector Cluster 16
  deriving DecidableEq, Repr

/-! ### Partitions, populations and the command front end -/

/-- A datagram of a transmit queue, with the message id of its header (14_queues R262, R264). -/
structure TxGram where
  id    : Word
  bytes : List Byte
  sent  : Bool
  deriving DecidableEq, Repr

/-- A partition: its table entry (18_tables R303), bank map (R304), range table (R307), KDA queue set
(14_queues R261) and reset word (23_system R359). -/
structure Partition where
  words   : Vector Word 7
  banks   : SMap (BitVec 16)
  ranges  : SMap (Vector Word 4)
  addr    : BitVec 128
  uport   : BitVec 16
  gen     : BitVec 32
  en      : Bool
  maxs    : BitVec 6
  rate    : BitVec 32
  txq     : List TxGram
  /-- The datagrams that wait for room in the transmit queue, oldest first (14_queues R250). -/
  txwait  : List (List Byte)
  /-- The times of the last halving and of the last raise of RATE (14_queues R264). -/
  halved  : Word
  raised  : Word
  busy    : Bool
  /-- A store of GO that waits for BUSY = 0 or for the end of a quiescence (23_system R359, R360). -/
  go      : Bool
  deriving DecidableEq, Repr

/-- A thread that a rotation or a `ctxsave.evict` took out of its slot: its place, and the slot as it was, for
what the frame or image does not hold (08_slots R149, 21_prog_preempt R349). -/
structure Away where
  place : Place
  slot  : Slot
  deriving DecidableEq, Repr

/-- A population (01_device R16-R20, 14_queues R257, R258). -/
structure Pop where
  id      : BitVec 32
  part    : Part
  dom     : Option (BitVec 16)
  cores   : List CoreId
  home    : CoreId
  /-- The phases completed, the slots that have arrived at the phase in progress, and the threads that are out
  of their slots (09_memories R172, 10_access R187). -/
  phase   : Nat
  arrived : List Place
  away    : List Away
  /-- Device pages of its shared ranges: base and length (09_memories R175). -/
  shared  : List (Nat × Nat)
  ring    : RingId
  journal : Word
  compl   : Nat
  tag     : Word
  placed  : Word
  status  : BitVec 8
  cause   : BitVec 8
  tval    : Word
  faberr  : Bool
  failAt  : Word
  fails   : Word
  deriving DecidableEq, Repr

/-- An outstanding fabric write or posted atomic (01_device R18, 10_access R181). -/
structure Outstanding where
  tag   : Word
  place : Place
  pop   : BitVec 32
  /-- The thread has become DONE. -/
  gone  : Bool
  addr  : Word
  /-- Whether it is an anti-message's mailbox-window write (17_prog_pipeline R299), or a float atomic whose flags
  return (R183); and the work record of a `gsend` that made it (13_graphs R243, 16_prog_graphsend R298). -/
  anti  : Bool
  float : Bool
  mint  : Option Nat
  deriving DecidableEq, Repr

/-- A fabric packet for a port (19_prog_link R325). -/
structure Packet where
  target : BitVec 56
  kind   : BitVec 4
  core   : CoreId
  part   : Part
  dom    : Option (BitVec 16)
  fn     : BitVec 5
  tag    : Word
  data   : List Byte
  isEnd  : Bool
  /-- More packets of the write follow. -/
  more   : Bool
  deriving DecidableEq, Repr

/-- A ring table entry (14_queues R252). -/
structure Ring where
  base   : Word
  v      : Bool
  log    : BitVec 5
  part   : Part
  ext    : Bool
  errc   : BitVec 4
  cb     : Word
  rd     : Word
  slot   : BitVec 5
  mapped : Bool
  pend   : Bool
  lrn    : Word
  /-- Stores of V that wait until the active slot is idle (14_queues R252). -/
  held   : List Word
  deriving DecidableEq, Repr

/-- A record an active slot has accepted and that has not completed (14_queues R256): its journal index, the
package offset of its word or completion record, the captured launch record, and the population once placed. -/
structure Running where
  index   : Word
  kind    : BitVec 4
  words   : Vector Word 8
  journal : Word
  at_     : Nat
  image   : List Word
  pop     : Option (BitVec 32)
  deriving DecidableEq, Repr

/-- An active slot of the front end (14_queues R251): its ring, the wait kind, the record at its head. -/
structure Active where
  ring : Option RingId
  wait : BitVec 3
  head : Option Running
  deriving DecidableEq, Repr

/-- A context key entry (18_tables R322, 20_counters R344). -/
structure KeyEntry where
  key  : BitVec 256
  sc   : Word
  part : Part
  v    : Bool
  live : Bool
  deriving DecidableEq, Repr

/-- A link key slot (18_tables R319); `spent` once its last marker has been sealed (R321). -/
structure KeySlot where
  key    : BitVec 256
  txsalt : BitVec 32
  rxsalt : BitVec 32
  rxlast : BitVec 48
  loaded : Bool
  due    : Bool
  spent  : Bool
  deriving DecidableEq, Repr

/-- A data flit or a marker that waits to be acknowledged: its TYPE, SEQ and payload (18_tables R318, 19_prog_link
R326). -/
structure Flit where
  kind    : BitVec 8
  seq     : BitVec 32
  payload : List Byte
  deriving DecidableEq, Repr

/-- A scale-up port (04_registers R81, 18_tables R318-R321, 19_prog_link R326). -/
structure LinkPort where
  lkc    : Vector (BitVec 48) 2
  lkth   : BitVec 48
  lkaf   : BitVec 32
  lkrt   : BitVec 32
  txs    : Bool
  rxs    : Bool
  swp    : Bool
  up     : Bool
  keys   : Vector KeySlot 2
  next   : BitVec 32
  expect : BitVec 32
  /-- Packets that wait for a flit; flits to replay; the replay buffer. -/
  txq    : List Packet
  again  : List Flit
  replay : List Flit
  /-- Whether `next` has passed 2^32 − 1 since training, so that every SEQ has been sent (R320). -/
  wrapped : Bool
  /-- A NAK to send, the acknowledgement owed since a TSC, the armed injection with whether its SEQ was still to be
  sent (R320), the failures in a row. -/
  nak    : Bool
  owed   : Option Word
  inject : Option (BitVec 32 × Bool)
  failed : Nat
  /-- The flits put on the wire, newest first (the port's output). -/
  wire   : List (List Byte)
  /-- The packages that the trained port leads toward (19_prog_link R324). -/
  beyond : List Nat
  deriving DecidableEq, Repr

/-- A contribution to a reduction round (10_access R189), with the bytes between the unit's first byte and its target's. -/
structure Contribution where
  pkg  : BitVec 13
  tag  : Word
  core : CoreId
  off  : Nat
  data : List Byte
  deriving DecidableEq, Repr

/-- A round of a unit at the root switch (10_access R189): the unit, the header in force, the counted
contributions and those held for the next round. -/
structure Round where
  unit  : Nat
  head  : Word
  given : List Contribution
  held  : List Contribution
  deriving DecidableEq, Repr

/-- A ticket request at the port, with its thread where it comes from this package (18_tables R316, R317). -/
structure Ticket where
  req : TicketIn
  by_ : Option Issuer
  deriving DecidableEq, Repr

/-- A package of the collective group protocol, this one among them (20_counters R338-R341): the group that it is in force in, or was
heard in; whether its membership is in force; the limit in force with the changes that have an effective time, the raise that waits for
acknowledgements with the round it names and who acknowledged it, the last heartbeat, and the joins (of a group) and leaves (none) that
were requested and have not taken effect, in order, each with its round. -/
structure Member where
  pkg     : BitVec 16
  gid     : BitVec 16
  in_     : Bool
  limit   : BitVec 16
  changes : List (Word × BitVec 16)
  raise   : Option (BitVec 16 × Word)
  acks    : List (BitVec 16)
  beat    : Word
  silent  : Bool
  pend    : List (Word × Option (BitVec 16))
  deriving DecidableEq, Repr

/-- The clock block and the group protocol (20_counters R338-R341): `gid` is the GID stored last, `eff` the round of the last request; `own` is the limit of the package's own
thermal and power control; `cap` holds the ceiling down after a leave, an expulsion or a silence until the raise
rule has released it at `capUntil`; `heard` holds the acknowledgements heard, each with its source and the round that it
names; `out` holds the packages that were expelled or have left, until they join again; `sent` holds the control writes sent to
the group, newest first. -/
structure Group where
  gid     : BitVec 16
  eff     : BitVec 48
  expel   : Word
  self    : Member
  members : List Member
  own     : BitVec 16
  cap     : Option (BitVec 16)
  capRound : Word
  capAcks : List (BitVec 16)
  capUntil : Option Word
  heard    : List (BitVec 16 × Word)
  out      : List (BitVec 16)
  lastBeat : Word
  sent    : List (List Byte)
  deriving DecidableEq, Repr

/-- Boot and error containment (23_system R353-R363): the firmware slots, the accepted one with its configuration
record, the recovery state, quiescence with the TSC of its error and whether its 2 s have passed, the thermal hold,
the TSC since which compute issue is held for either, the last measurement. -/
structure Boot where
  slotA    : Option Firmware
  slotB    : Option Firmware
  accepted : Option Firmware
  record   : ConfigRecord
  recovery : Bool
  quiet    : Option Word
  lapsed   : Bool
  hot      : Bool
  still    : Option Word
  measured : Option (List Byte)
  deriving DecidableEq, Repr

/-- What the I/O dies keep of a virtual-time domain: its colour, whether a round is open, when the last one closed, and the counts and
the contribution of dies that have left it, where no die of the package is left in it (20_counters R333, R334; notes/assumptions/80). -/
structure DomRound where
  colour   : Bool
  open_    : Bool
  closedAt : Word
  sent     : Vector Nat 2
  rcvd     : Vector Nat 2
  low      : Nat
  deriving DecidableEq, Repr

/-- A core's turn to issue, an event of the device, a store by a service core, or a datagram that the service OS gives to
a partition's transmit queue (14_queues R250). -/
inductive Turn where
  | core (c : CoreId)
  | event (i : Instr)
  | service (off : Nat) (size : Nat) (v : Word)
  | datagram (p : Part) (bytes : List Byte)
  deriving DecidableEq, Repr

/-- The machine: one package. -/
structure State where
  /-- The slot whose instruction is executed (the model's own; notes/assumptions/4). -/
  cur      : Place
  /-- What happens next, in order (the model's own; notes/assumptions/4). -/
  schedule : List Turn
  /-- The counter of free values (the model's own; notes/assumptions/5). -/
  fresh    : Nat
  /-- Committed memory by package offset, canonical: rising addresses, no zero byte (09_memories R156, R166). -/
  mem      : List Host.Cell
  /-- Poisoned 8-byte words, by package offset / 8, and lost 256-byte lines of HBM, by offset / 256
  (10_access R177, 23_system R362). -/
  poison   : List Nat
  lost     : List Nat
  /-- Cores, dies and partitions; one not listed is as after reset. -/
  cores    : SMap Core
  dies     : SMap Die
  parts    : SMap Partition
  /-- What the I/O dies keep of the virtual-time domains, by domain id (20_counters R333). -/
  domains  : SMap DomRound
  /-- Populations that have not finished, by id, and the next id (01_device R16-R18). -/
  pops     : List Pop
  nextPop  : BitVec 32
  /-- What travels on the mesh, in the order of each channel (15_messages R267). -/
  net      : List Net
  /-- Outstanding fabric writes and posted atomics, and the next write tag (01_device R18). -/
  out      : List Outstanding
  nextTag  : Word
  /-- The command front end: ring table, active slots, pending rings in notify order, running records by
  ring, journal block (14_queues R251-R259). -/
  rings    : SMap Ring
  actives  : SMap Active
  pendingRings : List RingId
  running  : SMap (List Running)
  jbase    : Word
  jlog     : BitVec 5
  jhead    : Word
  jcons    : Word
  /-- POTB (18_tables R310). -/
  potb     : Word
  /-- Context keys (18_tables R322). -/
  keys     : SMap KeyEntry
  /-- Scale-up ports (04_registers R81). -/
  ports    : SMap LinkPort
  /-- Rounds at the root switch (10_access R189). -/
  rounds   : List Round
  /-- Ticket requests whose acceptance is withheld (18_tables R317). -/
  tickets  : List Ticket
  /-- Ticket words of this package, by offset: named by a `tkget` and not yet returned by a `tkwait`
  (18_tables R315, R316). -/
  ticketWords : List Nat
  /-- Inbound shared-range writes whose acceptance is withheld until a spill record frees (09_memories R175). -/
  withheld : List (InWrite × Ack)
  /-- Replies to KDA peers, newest first (14_queues R263; the port's output). -/
  replies  : List (List Byte)
  /-- The group clock protocol (20_counters R338). -/
  group    : Group
  /-- The event block (23_system R356): ARG, OVR and PEND of each word. -/
  events   : Vector Word 7
  /-- The forward block: FWRB, FWRLOG, FWRRSV, FWRDONE (23_system R358). -/
  fwrb     : Word
  fwrlog   : BitVec 5
  fwrrsv   : Word
  fwrdone  : Word
  /-- Task records that are armed or queued, by package offset (15_messages R291). -/
  tasks    : List Nat
  /-- The work records of Mint runs that are live, by package offset, each with the population of its run (13_graphs R232). -/
  works    : List (Nat × BitVec 32)
  /-- Corrected errors of HBM of the last second, each with its 4 KiB page and its time (23_system R362). -/
  hbmErrs  : List (Nat × Word)
  /-- Inbound writes of several packets of which one was refused: the source package and the tag (19_prog_link R325). -/
  broken   : List (BitVec 13 × Word)
  /-- Identities raised at the interrupt controller of the I/O die, newest first (23_system R356; the package's output). -/
  raised   : List Nat
  /-- Boot and error containment (23_system R353-R363). -/
  boot     : Boot
  deriving DecidableEq, Repr

/-! ### Right after reset -/

/-- A slot that holds no thread (08_slots R133); every register at the value R71 and R78 give at power-on,
and 0 for x0-x15, which the spec gives no power-on value (notes/assumptions/1). -/
def Slot.empty : Slot :=
  { state := .free, x := Vector.replicate 16 0, p := 1, m := Vector.replicate 8 0, v := [], pc := 0,
    opt := false, evo := false, prot := false, part := 0, frm := 0, fflags := 0, prvb := 0, prvl := 0,
    lvt := 0, evsb := 0, evsl := 0, evid := 0, popid := 0, thidx := 0, range := none, wait := none,
    prog := .none, stalls := [], monitor := none, res := 0, yielded := false, pending := none, antiOut := 0,
    refused := 0, mint := none, binding := none, reserved := false, evicting := false, stage := none, owned := [],
    stopping := false, intr := none, trapped := none, into := none, ibuf := [], fenced := 0, seen := 0 }

/-- Slot 15 at power-on: READY at the firmware entry (08_slots R133, R144). -/
def Slot.supervisor : Slot := { Slot.empty with state := .ready, pc := Config.firmwareEntry }

/-- A landing-zone entry at reset (13_graphs R248). -/
def Zone.empty : Zone :=
  { v := false, base := 0, size := 0, mbx := 0, state := 0, src := 0, vbase := 0, owner := 0, part := 0, endAt := 0 }

/-- A core at reset (04_registers R79). -/
def Core.reset : Core :=
  { slots := (Vector.replicate 16 Slot.empty).set 15 Slot.supervisor,
    ttb := 0, mbt := 0, ulogb := 0, ulogl := 0, slogb := 0, slogl := 0,
    weight := 1, phbuf := 0, partmap := 0, timer := 0, wdwin := 10000,
    fwdTo := 0, fwdV := false, fwdAt := 0,
    trap := { tcause := 0, tval := 0, tpc := 0, tts := 0 }, hidden := none, entry := Config.firmwareEntry,
    records := [], current := none, cycle := 0, served := 7, lock := 0, lockAt := [],
    rotSlots := 0, rotPart := 0, rotLeft := 0, rotAt := 0, relocTo := 0, relocErr := false, relocBusy := false, relocIn := false,
    grants := [], buffer := [], spill := [], matrixQ := [], copyQ := [], decQ := [], stalls := [], shadow := [], mail := [], mid := 0,
    escIssue := 0, undo := [], undoAt := 0, sent := [], sentAt := 0, runList := [], antis := [],
    zones := Vector.replicate 8 Zone.empty,
    watch := Vector.replicate 15 { pop := 0, v := false, last := 0, win := 10000, idle := 0 }, fires := 0, keySel := 0,
    captured := [], lastStop := none, restop := false, absent := false, vaultErrs := [] }

/-- No shape (18_tables R305). -/
def Shape.none : Shape :=
  { fmt := 0, rowMaj := false, rd := false, wr := false, valid := false, len := 0, vecs := 0, blocks := 0 }

/-- A cluster at reset (11_matrix R201, R203, R205). -/
def Cluster.reset : Cluster :=
  { ws := Vector.replicate 4 { holder := none, k := 0, cols := 0, fmt := 0, shape := Shape.none, as_ := 0, bytes := [], poison := [] },
    member := 0, taken := 0, quota := Vector.replicate 8 1, copyAt := 0, decAt := 0 }

/-- A die at reset (04_registers R80, 20_counters R329, R333, 18_tables R311). -/
def Die.reset : Die :=
  { gvt := 0, dom := 0, domV := false, tsc := 0, steady := 1000, clkc := 1200, clkl := 3300,
    trsy := Config.defaultRecord.trbud, asks := [], escrow := [], rolls := 0, annih := 0, gvtr := 1000,
    xscope := 0, xpart := 0, xpage := 0, xbusy := false,
    trgr := 0, trwt := 0, trbud := Config.defaultRecord.trbud, escr := 0, escd := 0, gvtrn := 0, emsg := 0,
    eanti := 0, etask := 0, etrap := 0, secc := 0, seuc := 0,
    colour := false, sent := Vector.replicate 2 0, rcvd := Vector.replicate 2 0, low := 2 ^ 48 - 1,
    open_ := false, closedAt := 0, toGvt := [], cache := [], sched := [], phys := [], spares := 0xFF, mintAt := 0,
    clusters := Vector.replicate 16 Cluster.reset }

/-- A domain that nobody has named yet: no round is open, and nothing is counted (20_counters R333). -/
def DomRound.reset : DomRound :=
  { colour := false, open_ := false, closedAt := 0, sent := Vector.replicate 2 0, rcvd := Vector.replicate 2 0, low := 2 ^ 48 - 1 }

/-- A partition at reset (18_tables R303, 14_queues R261, 23_system R359). -/
def Partition.reset : Partition :=
  { words := Vector.replicate 7 0, banks := [], ranges := [], addr := 0, uport := 50560, gen := 0, en := false,
    maxs := 4, rate := 1600000, txq := [], txwait := [], halved := 0, raised := 0, busy := false, go := false }

/-- A ring table entry at reset (14_queues R252). -/
def Ring.reset : Ring :=
  { base := 0, v := false, log := 0, part := 0, ext := false, errc := 0, cb := 0, rd := 0, slot := 0,
    mapped := false, pend := false, lrn := 0, held := [] }

/-- A free active slot (14_queues R250). -/
def Active.free : Active := { ring := none, wait := 0, head := none }

/-- A context key entry at reset (18_tables R322). -/
def KeyEntry.reset : KeyEntry := { key := 0, sc := 0, part := 0, v := false, live := false }

/-- A scale-up port at reset (04_registers R81, 18_tables R319). -/
def LinkPort.reset : LinkPort :=
  { lkc := Vector.replicate 2 0, lkth := 0x10000000000, lkaf := 0, lkrt := 0, txs := false, rxs := false,
    swp := false, up := false,
    keys := Vector.replicate 2 { key := 0, txsalt := 0, rxsalt := 0, rxlast := 0, loaded := false, due := false, spent := false },
    next := 0, expect := 0, txq := [], again := [], replay := [], wrapped := false, nak := false, owed := none, inject := none,
    failed := 0, wire := [], beyond := [] }

/-- A package that is in force in no group, with a limit and nothing pending (20_counters R338). -/
def Member.start (pkg gid limit : BitVec 16) (beat : Word) : Member :=
  { pkg, gid, in_ := false, limit, changes := [], raise := none, acks := [], beat, silent := false, pend := [] }

/-- The group protocol at reset: the package is alone, with the ceiling that CLKC holds (20_counters R338, 04_registers
R80; notes/assumptions/1). -/
def Group.reset : Group :=
  { gid := 0, eff := 0, expel := 0, self := Member.start 0 0 1200 0, members := [], own := 3300,
    cap := none, capRound := 0, capAcks := [], capUntil := none, heard := [], out := [], lastBeat := 0, sent := [] }

/-- Boot at reset: the accepted configuration record is the default one, and the firmware slots hold no
image in the model (notes/assumptions/3). -/
def Boot.reset : Boot :=
  { slotA := none, slotB := none, accepted := none, record := Config.defaultRecord, recovery := false,
    quiet := none, lapsed := false, hot := false, still := none, measured := none }

/-- The package right after reset (23_system R353): memory is zero, every slot 15 is READY at the firmware
entry, no partition exists, every table and queue is empty. -/
def State.reset : State :=
  { cur := { core := 0, slot := 15 }, schedule := [], fresh := 0, mem := [], poison := [], lost := [],
    cores := [], dies := [], parts := [], domains := [], pops := [], nextPop := 1, net := [], out := [], nextTag := 0,
    rings := [], actives := [], pendingRings := [], running := [], jbase := 0, jlog := 0, jhead := 0,
    jcons := 0, potb := 0, keys := [], ports := [], rounds := [], tickets := [], ticketWords := [], withheld := [],
    replies := [], group := Group.reset, events := Vector.replicate 7 0, fwrb := 0, fwrlog := 0, fwrrsv := 0,
    fwrdone := 0, tasks := [], works := [], hbmErrs := [], broken := [], raised := [], boot := Boot.reset }

end Sys2Proof.Machine
end

