-- ==== Sys2Proof/Machine/Ops.lean ====
section
/-! DEFINITION. The named operations over cores, slots, registers and memory; how an instruction ends; and
taking a trap, the one operation every trap goes through, with the halt of a thread beside it. -/

namespace Sys2Proof.Machine

/-- An outcome of the machine. -/
abbrev Out := Host.Outcome State Fault Refusal

/-! ### Cores, dies, partitions, slots -/

/-- The core with package-wide id `c` (01_device R10). -/
def State.core (s : State) (c : Nat) : Core := SMap.get Core.reset s.cores c
/-- The state with core `c` replaced. -/
def State.setCore (s : State) (c : Nat) (k : Core) : State := { s with cores := SMap.set s.cores c k }
/-- The state with core `c` changed by `f`. -/
def State.modCore (s : State) (c : Nat) (f : Core → Core) : State := s.setCore c (f (s.core c))
/-- Compute die `d`. -/
def State.die (s : State) (d : Nat) : Die := SMap.get Die.reset s.dies d
/-- The state with die `d` changed by `f`. -/
def State.modDie (s : State) (d : Nat) (f : Die → Die) : State :=
  { s with dies := SMap.set s.dies d (f (s.die d)) }
/-- Partition `p`. -/
def State.partition (s : State) (p : Nat) : Partition := SMap.get Partition.reset s.parts p
/-- The state with partition `p` changed by `f`. -/
def State.modPart (s : State) (p : Nat) (f : Partition → Partition) : State :=
  { s with parts := SMap.set s.parts p (f (s.partition p)) }
/-- Ring `r`. -/
def State.ring (s : State) (r : Nat) : Ring := SMap.get Ring.reset s.rings r
/-- The state with ring `r` changed by `f`. -/
def State.modRing (s : State) (r : Nat) (f : Ring → Ring) : State :=
  { s with rings := SMap.set s.rings r (f (s.ring r)) }
/-- Scale-up port `p`. -/
def State.port (s : State) (p : Nat) : LinkPort := SMap.get LinkPort.reset s.ports p
/-- The state with port `p` changed by `f`. -/
def State.modPort (s : State) (p : Nat) (f : LinkPort → LinkPort) : State :=
  { s with ports := SMap.set s.ports p (f (s.port p)) }

/-- The die of core `c` (01_device R10). -/
abbrev dieOf (c : Nat) : Nat := c / 128
/-- The cluster of core `c` in its die, and its member number there (01_device R10). -/
abbrev clusterOf (c : Nat) : Nat := c % 128 / 8
/-- The member number of core `c` in its cluster. -/
abbrev memberOf (c : Nat) : Nat := c % 8

/-- The slot at a place. -/
def State.slotAt (s : State) (p : Place) : Slot := (s.core p.core.val).slots[p.slot.val]
/-- The core with slot `i` changed by `f`. -/
def Core.modSlot (k : Core) (i : SlotId) (f : Slot → Slot) : Core :=
  { k with slots := k.slots.set i.val (f k.slots[i.val]) }
/-- The state with the slot at `p` changed by `f`. -/
def State.modSlot (s : State) (p : Place) (f : Slot → Slot) : State :=
  s.modCore p.core.val fun k => k.modSlot p.slot f

/-- The slot whose instruction is executed. -/
def State.me (s : State) : Slot := s.slotAt s.cur
/-- The state with that slot changed by `f`. -/
def State.modMe (s : State) (f : Slot → Slot) : State := s.modSlot s.cur f
/-- The core whose instruction is executed. -/
def State.myCore (s : State) : Core := s.core s.cur.core.val
/-- Its number. -/
def State.myId (s : State) : Nat := s.cur.core.val
/-- The state with that core changed by `f`. -/
def State.modMyCore (s : State) (f : Core → Core) : State := s.modCore s.cur.core.val f
/-- The die of the executing core. -/
def State.myDie (s : State) : Die := s.die (dieOf s.cur.core.val)
/-- The state with that die changed by `f`. -/
def State.modMyDie (s : State) (f : Die → Die) : State := s.modDie (dieOf s.cur.core.val) f
/-- Whether the executing slot is the supervisor slot (01_device R21). -/
def State.isSup (s : State) : Bool := s.cur.slot.val == 15
/-- The package id (23_system R355). -/
def State.pkg (s : State) : Nat := s.boot.record.pkg.toNat
/-- Slots `0` to `14`, the tenant slots, and all slots of a core. -/
def tenantSlots : List SlotId := [0, 1, 2, 3, 4, 5, 6, 7, 8, 9, 10, 11, 12, 13, 14]
/-- All slots of a core. -/
def allSlots : List SlotId := tenantSlots ++ [15]

/-- The word of TS (04_registers R78). -/
def Slot.ts (t : Slot) : Word :=
  BitVec.ofNat 64 (t.opt.toNat + 2 * t.evo.toNat + 4 * t.prot.toNat + 16 * t.part.val)
/-- VCNT (04_registers R78). -/
def Slot.vcnt (t : Slot) : Nat := t.v.length
/-- The partition that PARTMAP gives slot `i`, where V`i` is set (04_registers R79). -/
def Core.partOf (k : Core) (i : SlotId) : Option Part :=
  if k.partmap.toNat / 2 ^ (4 * i.val + 3) % 2 = 1 then
    some (Fin.ofNat 8 (k.partmap.toNat / 2 ^ (4 * i.val)))
  else none
/-- The core with the PARTMAP nibble of slot `i` set to partition `p`, or cleared. -/
def Core.setPartOf (k : Core) (i : SlotId) (p : Option Part) : Core :=
  let old := k.partmap.toNat / 2 ^ (4 * i.val) % 16
  let nib := match p with | some q => 8 + q.val | none => 0
  { k with partmap := BitVec.ofNat 64 (k.partmap.toNat - old * 2 ^ (4 * i.val) + nib * 2 ^ (4 * i.val)) }
/-- Physical vector registers that no slot holds (04_registers R70, R73). -/
def Core.freeVectors (k : Core) : Nat := 256 - (k.slots.toList.map Slot.vcnt).sum

/-! ### Registers -/

/-- X[r] (02_encoding R48). -/
def State.x (s : State) (r : XReg) : Word := s.me.x[r.val]
/-- X[r] ← v. -/
def Slot.setX (t : Slot) (r : XReg) (v : Word) : Slot := { t with x := t.x.set r.val v }
/-- X[r] ← v, in the executing slot. -/
def State.setX (s : State) (r : XReg) (v : Word) : State := s.modMe fun t => t.setX r v
/-- Pred(r): 1 for p0 (02_encoding R34, R48). -/
def State.pred (s : State) (r : PReg) : Bool := r.val == 0 || s.me.p.getLsbD r.val
/-- A write of p`r`; a write of p0 is discarded (02_encoding R34). -/
def Slot.setP (t : Slot) (r : PReg) (b : Bool) : Slot :=
  if r.val = 0 then t
  else { t with p := if b then t.p ||| BitVec.ofNat 8 (2 ^ r.val)
                     else t.p &&& ~~~ BitVec.ofNat 8 (2 ^ r.val) }
/-- A write of p`r`, in the executing slot. -/
def State.setP (s : State) (r : PReg) (b : Bool) : State := s.modMe fun t => t.setP r b
/-- Mask m`r`: all ones for m0 (04_registers R71). -/
def State.mask (s : State) (r : MReg) : BitVec 32 := if r.val = 0 then BitVec.allOnes 32 else s.me.m[r.val]
/-- A write of m`r`; a write of m0 is discarded (02_encoding R34). -/
def State.setM (s : State) (r : MReg) (v : BitVec 32) : State :=
  if r.val = 0 then s else s.modMe fun t => { t with m := t.m.set r.val v }
/-- V[r]. -/
def State.v (s : State) (r : VReg) : Vec := s.me.v.getD r.val 0
/-- V[r] ← w. -/
def State.setV (s : State) (r : VReg) (w : Vec) : State := s.modMe fun t => { t with v := t.v.set r.val w }
/-- Flags into FFLAGS, sticky (04_registers R78). -/
def State.orFlags (s : State) (f : BitVec 5) : State := s.modMe fun t => { t with fflags := t.fflags ||| f }

/-! ### Time, populations, pulses -/

/-- The TSC of the executing die. -/
def State.tscNow (s : State) : Word := s.myDie.tsc
/-- Whether compute issue is held, by a quiescence or a thermal hold (23_system R360, R363). -/
def State.still (s : State) : Bool := s.boot.still.isSome
/-- The population with an id. -/
def State.pop? (s : State) (id : BitVec 32) : Option Pop := s.pops.find? fun p => p.id == id
/-- The population of the executing thread. -/
def State.myPop (s : State) : Option Pop := s.pop? s.me.popid
/-- The domain of the executing thread's population (01_device R20). -/
def State.myDom (s : State) : Option (BitVec 16) := s.myPop.bind Pop.dom
/-- The state with population `id` changed by `f`. -/
def State.modPop (s : State) (id : BitVec 32) (f : Pop → Pop) : State :=
  { s with pops := s.pops.map fun p => if p.id == id then f p else p }
/-- A retired-work pulse of a population: its watchdog entry's LAST ← TSC (08_slots R155, 20_counters R330). -/
def State.pulse (s : State) (id : BitVec 32) : State :=
  match s.pop? id with
  | none => s
  | some p =>
    s.modCore p.home.val fun k =>
      { k with watch := k.watch.map fun e =>
          if e.v && e.pop == id then { e with last := (s.die (dieOf p.home.val)).tsc, win := k.wdwin, idle := 0 } else e }

/-! ### Committed memory -/

/-- The byte at an offset; a byte that is not listed is 0 (09_memories R156). -/
def Memory.get : List Host.Cell → Nat → Byte
  | [], _ => 0
  | (a, b) :: t, q => if a = q then b else if q < a then 0 else Memory.get t q
/-- The memory with byte `b` at `q`; a 0 removes the entry. -/
def Memory.put : List Host.Cell → Nat → Byte → List Host.Cell
  | [], q, b => if b = 0 then [] else [(q, b)]
  | (a, x) :: t, q, b =>
    if q < a then (if b = 0 then (a, x) :: t else (q, b) :: (a, x) :: t)
    else if a = q then (if b = 0 then t else (q, b) :: t)
    else (a, x) :: Memory.put t q b
/-- The canonical form: rising offsets, no 0 byte. -/
def Memory.wf : List Host.Cell → Bool
  | [] => true
  | [(_, b)] => b != 0
  | (a, b) :: (a', b') :: t => b != 0 && decide (a < a') && Memory.wf ((a', b') :: t)
/-- The `n` bytes from an offset. -/
def Memory.read (m : List Host.Cell) (q : Nat) : Nat → List Byte
  | 0 => []
  | n + 1 => Memory.get m q :: Memory.read m (q + 1) n
/-- The memory with each listed byte written. -/
def Memory.write (m : List Host.Cell) : List (Nat × Byte) → List Host.Cell
  | [] => m
  | (a, b) :: t => Memory.write (Memory.put m a b) t

/-- The `n` bytes of committed memory from a package offset. -/
def State.bytes (s : State) (q n : Nat) : List Byte := Memory.read s.mem q n
/-- The number that the `n` bytes from a package offset spell. -/
def State.num (s : State) (q n : Nat) : Nat := ofBytes (s.bytes q n)
/-- The 8-byte word at a package offset. -/
def State.word (s : State) (q : Nat) : Word := BitVec.ofNat 64 (s.num q 8)
/-- The bytes `bs`, each with its offset, from offset `q`. -/
def cells (q : Nat) : List Byte → List (Nat × Byte)
  | [] => []
  | b :: t => (q, b) :: cells (q + 1) t
/-- The bytes that a mask selects of a 64-byte line at `q`, each with its offset. -/
def maskCells (q : Nat) (mask : BitVec 64) (data : BitVec 512) : List (Nat × Byte) :=
  (List.range 64).filterMap fun i =>
    if mask.getLsbD i then some (q + i, data.extractLsb' (8 * i) 8) else none

/-- The bytes of a monitor's line, the line of R169 (10_access R185; notes/assumptions/8). -/
def lineBytes : Nat := 64
/-- The core with the monitors of its slots fired on the lines of the offsets `ws` (10_access R185). -/
def Core.fire (k : Core) (ws : List (Nat × Byte)) : Core :=
  { k with slots := k.slots.map fun t =>
      match t.monitor with
      | some m => if ws.any (fun w => w.1 / lineBytes == m.line) then { t with monitor := some { m with fired := true } } else t
      | none => t }
/-- The listed bytes become committed: monitors fire, and a poisoned word that is covered whole is poisoned
no longer (09_memories R166, 10_access R177, R185). -/
def State.commit (s : State) (ws : List (Nat × Byte)) : State :=
  { s with
    mem := Memory.write s.mem ws
    poison := s.poison.filter fun w => !(List.range 8).all fun i => ws.any fun e => e.1 == 8 * w + i
    cores := s.cores.map fun e => (e.1, e.2.fire ws) }
/-- The bytes `bs` become committed from offset `q`. -/
def State.commitAt (s : State) (q : Nat) (bs : List Byte) : State := s.commit (cells q bs)
/-- A word becomes committed at offset `q`. -/
def State.commitWord (s : State) (q : Nat) (v : Word) : State := s.commitAt q (toBytes 8 v.toNat)
/-- Whether one of `n` bytes from `q` lies in a poisoned word; the first such word (10_access R177). -/
def State.poisonedAt (s : State) (q n : Nat) : Option Nat :=
  (List.range (n / 8 + 2)).findSome? fun i =>
    let w := q / 8 + i
    if 8 * w < q + n && s.poison.contains w then some w else none
/-- Whether the line of one of `n` bytes from `q` was lost; the first such line (09_memories R163). -/
def State.lostAt (s : State) (q n : Nat) : Option Nat :=
  (List.range (n / 256 + 2)).findSome? fun i =>
    let l := q / 256 + i
    if 256 * l < q + n && s.lost.contains l then some l else none
/-- The monitors fire on the 64-byte lines whose first offsets `on` picks: every byte of those lines is written, changed or not
(10_access R185). -/
def State.fireLines (s : State) (on : Nat → Bool) : State :=
  { s with cores := s.cores.map fun e => (e.1, { e.2 with slots := e.2.slots.map fun t =>
      match t.monitor with
      | some m => if on (m.line * lineBytes) then { t with monitor := some { m with fired := true } } else t
      | none => t }) }
/-- A store to control space at an offset fires the monitors on its line (10_access R185). -/
def State.fireAt (s : State) (q : Nat) : State := { s with cores := s.cores.map fun e => (e.1, e.2.fire [(q, 0)]) }
/-- The package offset of the first byte of a core's vault (01_device R11). -/
abbrev vaultBase (c : Nat) : Nat := dieOf c * 2 ^ 31 + c % 128 * 2 ^ 24
/-- The core of a vault offset (01_device R11). -/
abbrev vaultCore (q : Nat) : Nat := q / 2 ^ 31 * 128 + q / 2 ^ 24 % 128
/-- Whether an offset lies in a vault (09_memories R158). -/
abbrev inVault (q : Nat) : Bool := decide (q < 2 ^ 34)
/-- Whether an offset lies in HBM (09_memories R158). -/
abbrev inHbm (q : Nat) : Bool := decide (Config.hbmBase ≤ q ∧ q < Config.hbmEnd)
/-- Whether an offset lies in the reduction window (09_memories R165). -/
def inRed (q : Nat) : Bool := decide (Config.redBase ≤ q ∧ q < Config.redBase + 0x100000)
/-- Whether `n` bytes from an offset lie in the system area proper of the executing core's vault, as a
local-alias address (09_memories R160). -/
abbrev inSystemArea (a n : Nat) : Bool := decide (0x800 ≤ a ∧ a + n ≤ 0xC000)

/-! ### Fields of memory that a store does not change -/

/-- The bits of byte `j` of a reduction header that a store writes (10_access R188). -/
def redMask (j : Nat) : Byte :=
  match j with | 0 => 0xFF | 1 => 0x1F | 2 => 0x1F | 3 => 0x01 | 7 => 0x80 | _ => 0
/-- The bits of byte `j` of a tile's status word that are no Reserved field (11_matrix R199). -/
def statusMask (j : Nat) : Byte :=
  if j = 1 then 0x01 else if j = 0 ∨ (8 ≤ j ∧ j < 12) ∨ (16 ≤ j ∧ j < 28) then 0xFF else 0
/-- The bits of byte `j` of a ticket entry that are no Reserved field (18_tables R315). -/
def ticketMask (j : Nat) : Byte :=
  if j < 8 ∨ (10 ≤ j ∧ j < 15) then 0xFF else if j = 8 then 0x1F else if j = 9 then 0xF0 else if j = 15 then 0x80 else 0
/-- The bits of byte `j` of a tile table entry that are no Reserved field (11_matrix R190). -/
def tileMask (j : Nat) : Byte :=
  match j with
  | 0 => 0xC0 | 3 | 4 | 6 | 7 | 8 | 9 | 10 | 11 | 1 | 2 => 0xFF | 5 => 0x03 | 12 => 0x1F
  | _ => if 16 ≤ j ∧ j < 36 then 0xFF else 0
/-- The bits of byte `j` of a layout map entry that are no Reserved field (13_graphs R229). -/
def layoutMask (j : Nat) : Byte :=
  if j < 8 ∨ j = 10 ∨ j = 16 then 0xFF else if j = 8 then 0x7F else if j = 9 ∨ j = 17 then 0x0F else if j = 15 then 0x80 else 0
/-- The bits of byte `j` of a barrier entry that are no Reserved field (18_tables R312). -/
def barrierMask (j : Nat) : Byte :=
  if j < 2 ∨ j = 4 ∨ j = 5 ∨ 8 ≤ j then 0xFF else if j = 2 then 0x0F else if j = 7 then 0x80 else 0
/-- The bits of byte `j` of a shape record that are no Reserved field (18_tables R305). -/
def shapeMask (j : Nat) : Byte :=
  if j = 0 then 0x1F else if j = 1 then 0x03 else if j = 7 then 0x80 else if 8 ≤ j ∧ j < 20 then 0xFF else 0
/-- The maps of the spec that stand in memory (00_scope R3, R4). -/
inductive Map where
  | status | tile | mailbox | ticket | task | work | layout | barrier | shape
  deriving DecidableEq, Repr
/-- What a store of byte `b` leaves of byte `j` of a map that held `old` there (00_scope R3, R4; 11_matrix R190, R199, 13_graphs
R229, R232, 15_messages R268, R291, 18_tables R305, R312, R315). -/
def Map.byte (k : Map) (j : Nat) (old b : Byte) : Byte :=
  match k with
  | .status => b &&& statusMask j
  | .tile => b &&& tileMask (j % 64)
  | .mailbox => old
  | .ticket => b &&& ticketMask (j % 32)
  | .task =>
    if 0x30 ≤ j then 0 else if (0x18 ≤ j ∧ j < 0x1D) ∨ (0x20 ≤ j ∧ j < 0x24) ∨ 0x28 ≤ j then old else b
  | .work =>
    if j = 4 then b &&& 0x1F else if 5 ≤ j ∧ j < 8 then 0 else if j = 1 ∨ (0x10 ≤ j ∧ j < 0x18) ∨ (0x28 ≤ j ∧ j < 0x2C) then b else old
  | .layout => b &&& layoutMask (j % 32)
  | .barrier => b &&& barrierMask (j % 16)
  | .shape => b &&& shapeMask (j % 32)
/-- The cells of an entry of a map that bytes are copied into, the Reserved bits 0 (00_scope R4). -/
def maskTable (k : Map) (q : Nat) (bs : List Byte) : List (Nat × Byte) :=
  bs.zipIdx.map fun b => (q + b.2, k.byte b.2 0 b.1)
/-- A map in memory: its kind, its package offset and its bytes. -/
structure Table where
  kind : Map
  at_  : Nat
  size : Nat
  deriving DecidableEq, Repr
/-- Whether a table holds the byte at an offset. -/
abbrev Table.holds (t : Table) (q : Nat) : Bool := decide (t.at_ ≤ q ∧ q < t.at_ + t.size)
/-- The status words of the defined tiles of core `c` (11_matrix R190, R199). -/
def State.statusWords (s : State) (c : Nat) : List Table :=
  (List.range 64).filterMap fun h =>
    let q := vaultBase c + bits (s.core c).ttb.toNat 12 12 * 2 ^ 12 + 64 * h
    if (Memory.get s.mem (q + 12)).getLsbD 3 && !(Memory.get s.mem (q + 8)).getLsbD 4 then
      let w := s.num q 8
      some { kind := .status, at_ := vaultBase c + bits w 6 18 * 64 + 64 * bits w 24 18, size := 32 }
    else none
/-- The table of a core at the page that a base register names, where that page lies in the system area (11_matrix R190, 15_messages
R268; notes/assumptions/74). -/
def systemTable (kind : Map) (c : Nat) (base : Word) (size : Nat) : List Table :=
  let a := bits base.toNat 12 12 * 2 ^ 12
  if inSystemArea a size then [{ kind, at_ := vaultBase c + a, size }] else []
/-- The maps of the core in whose vault an offset lies. -/
def State.vaultTables (s : State) (q : Nat) : List Table :=
  if !inVault q then []
  else
    let c := vaultCore q
    if 0x10000 ≤ q % 2 ^ 24 then s.statusWords c
    else systemTable .tile c (s.core c).ttb 4096 ++ systemTable .mailbox c (s.core c).mbt 1024
/-- The tables of the enabled partitions (18_tables R303, R305, R312, R315; 13_graphs R229). -/
def State.partTables (s : State) : List Table :=
  s.parts.flatMap fun e =>
    let w (i : Fin 7) : Nat := e.2.words[i.val].toNat
    let at_ (i : Fin 7) : Nat := bits (w i) 12 44 * 2 ^ 12 % 2 ^ 43
    if e.2.words[0].getLsbD 63 then
      [{ kind := .ticket, at_ := at_ 4, size := 32 * 2 ^ min 12 (w 4 % 16) }, { kind := .layout, at_ := at_ 2, size := 131072 },
       { kind := .barrier, at_ := at_ 3, size := 65536 }, { kind := .shape, at_ := at_ 1, size := 32 * (w 6 % 2 ^ 17) }]
    else []
/-- The live records of tasks and of Mint runs (13_graphs R232, 15_messages R291; notes/assumptions/74). -/
def State.recordTables (s : State) : List Table :=
  (s.tasks.map fun t => { kind := .task, at_ := t, size := 64 }) ++ s.works.map fun w => { kind := .work, at_ := w.1, size := 64 }
/-- The maps that the bytes about an offset may lie in. -/
def State.tables (s : State) (q : Nat) : List Table := s.vaultTables q ++ s.recordTables ++ s.partTables
/-- What a store of byte `b` at offset `q` leaves there: Reserved fields read 0, and fields that only the device changes keep their
byte (00_scope R3, R4). -/
def State.portByte (s : State) (maps : List Table) (q : Nat) (b : Byte) : Byte :=
  if inRed q then
    if decide (q % 128 < 8) then (if q % 8 = 4 ∨ q % 8 = 5 then Memory.get s.mem q else b &&& redMask (q % 8)) else b
  else match maps.find? fun t => t.holds q with
    | some t => t.kind.byte (q - t.at_) (Memory.get s.mem q) b
    | none => b
/-- The same of a single byte. -/
def State.portBit (s : State) (q : Nat) (b : Byte) : Byte := s.portByte (s.tables q) q b
/-- The cells that a store of `ws` leaves, each in the line of `q` or after it (00_scope R3, R4). -/
def State.portCells (s : State) (q : Nat) (ws : List (Nat × Byte)) : List (Nat × Byte) :=
  let maps := s.tables q
  ws.map fun c => (c.1, s.portByte maps c.1 c.2)
/-- The listed bytes are stored at a memory port, each in the line of `q` or after it: Reserved fields and fields that only the device
changes stay, and a work record whose STATE becomes none of 1 to 3 is one no longer (00_scope R3, R4, 09_memories R166, 13_graphs
R232; notes/assumptions/74). -/
def State.portCommit (s : State) (q : Nat) (ws : List (Nat × Byte)) : State :=
  let t := s.commit (s.portCells q ws)
  { t with works := t.works.filter fun w => decide (0 < (Memory.get t.mem (w.1 + 1)).toNat ∧ (Memory.get t.mem (w.1 + 1)).toNat < 4) }

/-! ### Free values -/

/-- The number of the `i`-th free choice of this step (notes/assumptions/5). -/
def State.choice (s : State) (i : Nat) : Nat := s.fresh * 2 ^ 64 + i

/-! ### Range entries, page tables and the caches of their entries -/

/-- The form of a virtual address; none where bit 63 is set and bits 62-56 are not zero (09_memories R157). -/
def formOf (va : Word) : Option Form :=
  if va.toNat < 2 ^ 24 then some .loc
  else if va.toNat < 2 ^ 63 then some .virt
  else if va.toNat < 2 ^ 63 + 2 ^ 56 then some .dev
  else none

/-- What a translation yields: the device address and the rights (18_tables R307, R308). -/
structure Mapped where
  da  : Nat
  r   : Bool
  w   : Bool
  x   : Bool
  cow : Bool
  deriving DecidableEq, Repr

/-- What a translation gives: the entries that it read, for the caches to hold, and the mapping (18_tables R309). -/
abbrev Looked := List Cached × Option Mapped

/-- Whether a cached entry concerns `va` of partition `p` (18_tables R309). -/
def Cached.covers (c : Cached) (p va : Nat) : Bool := c.part.val == p && decide (c.base ≤ va ∧ va < c.base + c.size)
/-- The words that a read of an entry uses on die `d` for `va`: those that stand there, or, by the `i`-th free choice for its page,
those that a cache still holds and that `mine` picks (18_tables R309; notes/assumptions/5, 33). -/
def State.entryWords (s : State) (d va i : Nat) (now : List Word) (mine : Cached → Bool) : List Word :=
  let olds := ((s.die d).cache.filter fun c => mine c && c.words != now).map Cached.words
  if olds = [] then now
  else (now :: olds).getD ((Config.freeWord (s.choice (2 ^ 60 + 128 * (va / 4096) + i))).toNat % (olds.length + 1)) now
/-- The range entries of a partition as four words each (18_tables R307). -/
def State.rangeEntry (s : State) (p i : Nat) : Vector Word 4 :=
  SMap.get (Vector.replicate 4 0) (s.partition p).ranges i
/-- BASE of a range entry. -/
def rangeBase (e : List Word) : Nat := (e.getD 0 0).toNat / 2 ^ 12 * 2 ^ 12
/-- LIMIT of a range entry. -/
def rangeLimit (e : List Word) : Nat := (e.getD 1 0).toNat / 2 ^ 12 * 2 ^ 12
/-- What a range entry maps `va` to, where `va` hits it (18_tables R307). -/
def rangeMap (e : List Word) (va : Nat) : Option Mapped :=
  let w0 := (e.getD 0 0).toNat
  if bits w0 3 1 = 1 ∧ rangeBase e ≤ va ∧ va < rangeLimit e then
    some { da := (bits (e.getD 2 0).toNat 12 44 * 2 ^ 12 + (va - rangeBase e)) % 2 ^ 56,
           r := bits w0 0 1 == 1, w := bits w0 1 1 == 1, x := bits w0 2 1 == 1, cow := false }
  else none
/-- The range lookup from entry `i` on: the lowest-numbered entry that `va` hits (18_tables R307). -/
def State.rangeLook (s : State) (d p va : Nat) : Nat → Nat → Looked
  | 0, _ => ([], none)
  | n + 1, i =>
    let e := s.entryWords d va i (s.rangeEntry p i).toList fun c => c.range && c.part.val == p && c.at_ == i
    let k : Cached := { part := Fin.ofNat 8 p, base := rangeBase e, size := rangeLimit e - rangeBase e, range := true, at_ := i, words := e }
    match rangeMap e va with
    | some m => ([k], some m)
    | none => let r := s.rangeLook d p va n (i + 1); (k :: r.1, r.2)

/-- A valid page-table entry: V set, the zero fields zero (18_tables R308). -/
def pteOk (e : Nat) : Bool := bits e 0 1 == 1 && bits e 56 8 == 0 && bits e 7 5 == 0
/-- The page that a leaf of `size` bytes maps `va` to (18_tables R308). -/
def leaf (e size va : Nat) : Mapped :=
  { da := bits e 12 44 * 2 ^ 12 / size * size + va % size,
    r := bits e 1 1 == 1, w := bits e 2 1 == 1, x := bits e 3 1 == 1, cow := bits e 6 1 == 1 }
/-- The page-table entry at an offset as die `d` reads it for `va`, by the `i`-th choice: what a cache holds of that entry, or of one of
the same 64 KiB block (18_tables R308, R309). -/
def State.pte (s : State) (d p va i at_ : Nat) : Nat :=
  ((s.entryWords d va i [s.word at_] fun c =>
    !c.range && c.covers p va && (c.at_ == at_ || (c.size == 65536 && c.at_ / 128 == at_ / 128))).getD 0 0).toNat
/-- The entry that a cache keeps of a page-table entry that concerns `size` bytes about `va`. -/
def pteCached (p va size at_ e : Nat) : Cached :=
  { part := Fin.ofNat 8 p, base := va / size * size, size, range := false, at_, words := [BitVec.ofNat 64 e] }
/-- The walk below a table at `t`, from a level down (18_tables R308). Of the 16 entries of a 64 KiB block
that differ, any one may be used (notes/assumptions/5). -/
def State.walk (s : State) (d p va : Nat) : Nat → Nat → Looked
  | 0, t =>
    let i := bits va 12 9
    let e := s.pte d p va 64 (t + 8 * i)
    if !pteOk e then ([pteCached p va 4096 (t + 8 * i) e], none)
    else if bits e 5 1 = 1 then
      let block := (List.range 16).map fun j =>
        let at_ := t + 8 * (i / 16 * 16 + j)
        (at_, if i % 16 = j then e else s.pte d p va (80 + j) at_)
      let f := if block.all (fun g => g.2 == e) then (t + 8 * i, e)
               else block.getD ((Config.freeWord (s.choice (2 ^ 60 + 128 * (va / 4096) + 69))).toNat % 16) (t + 8 * i, e)
      (block.map fun g => pteCached p va 65536 g.1 g.2, if pteOk f.2 then some (leaf f.2 65536 va) else none)
    else ([pteCached p va 4096 (t + 8 * i) e], some (leaf e 4096 va))
  | n + 1, t =>
    let at_ := t + 8 * bits va (12 + 9 * (n + 1)) 9
    let e := s.pte d p va (65 + n) at_
    let k := pteCached p va (2 ^ (12 + 9 * (n + 1))) at_ e
    if !pteOk e || bits e 5 1 == 1 || (bits e 4 1 == 1 && decide (2 ≤ n)) then ([k], none)
    else if bits e 4 1 = 1 then ([k], some (leaf e (2 ^ (12 + 9 * (n + 1))) va))
    else let r := s.walk d p va n (bits e 12 44 * 2 ^ 12 % 2 ^ 43); (k :: r.1, r.2)
/-- The range table first, then Walk(va) from PTROOT (09_memories R157, 02_encoding R50, 18_tables R308). -/
def State.look (s : State) (d p va : Nat) : Looked :=
  let r := s.rangeLook d p va 64 0
  if r.2.isSome || bits va 57 6 != 0 then r
  else
    let w := s.walk d p va 4 (bits (s.partition p).words[0].toNat 12 44 * 2 ^ 12 % 2 ^ 43)
    (r.1 ++ w.1, w.2)
/-- The translation of `va` on die `d` for partition `p` (02_encoding R50). -/
def State.mapping (s : State) (d p va : Nat) : Option Mapped := (s.look d p va).2
/-- The translation caches of die `d` hold the entries that partition `p` has read for `va`, beside those they held
(18_tables R302, R309). -/
def State.touchFor (s : State) (d p : Nat) (va : Word) : State :=
  if formOf va = some .virt then
    s.modDie d fun k => { k with cache := ((s.look d p va.toNat).1.filter fun c => !k.cache.contains c) ++ k.cache }
  else s
/-- The same for an access of the executing thread; slot 15 has no partition, and no access of it is looked up. -/
def State.touch (s : State) (va : Word) : State := if s.isSup then s else s.touchFor (dieOf s.myId) s.me.part.val va
/-- The caches after a trap whose TVAL is the address of the access that failed: what was read for it is held (18_tables R309). -/
def State.tried (s : State) (c : Cause) (v : Word) : State :=
  match c with
  | .xlat | .prot | .noremld | .poison => s.touch v
  | _ => s

/-! ### How an instruction ends -/

/-- Why an instruction does not complete: a precise trap, an access to a lost line, a wait with the changes
its issue makes, a stall on an earlier instruction's result, or one on a locked bank (00_scope R5, 02_encoding R47,
08_slots R139, R140). `value` is a trap whose TVAL is a value and no address that was translated, and `after` one of an access that came
after those to the addresses `vas`, which were translated. -/
inductive Stop where
  | trap (cause : Cause) (sub : Nat) (tval : Word)
  | value (cause : Cause) (tval : Word)
  | after (vas : List Word) (e : Stop)
  | lost (line : Nat) (tval : Word)
  | wait (s : State) (until_ : Cond)
  | interlock (s : State) (until_ : Cond)
  | stall (core : CoreId) (bank : BitVec 4)

/-- A step of an instruction's pseudocode: it gives a value, or stops. -/
abbrev Act (α : Type) := Except Stop α

/-- Trap(cause, tval), with subcode 0 (02_encoding R48). -/
def trap {α : Type} (c : Cause) (v : Word) : Act α := .error (.trap c 0 v)
/-- A trap with a subcode (08_slots R142). -/
def trapSub {α : Type} (c : Cause) (sub : Nat) (v : Word) : Act α := .error (.trap c sub v)
/-- Goes on where `b` holds; otherwise traps. -/
def check (b : Bool) (c : Cause) (v : Word) : Act Unit := if b then .ok () else trap c v
/-- Goes on where `b` holds; otherwise traps with a TVAL that is no address that was translated. -/
def checkValue (b : Bool) (c : Cause) (v : Word) : Act Unit := if b then .ok () else .error (.value c v)
/-- What `r` gives, once the addresses `vas` are translated. -/
def afterAll {α : Type} (vas : List Word) (r : Act α) : Act α := match r with | .error e => .error (.after vas e) | .ok v => .ok v
/-- Wait(cond): the slot leaves the ready set (02_encoding R48). -/
def waitFor {α : Type} (s : State) (c : Cond) : Act α := .error (.wait s c)
/-- Goes on where no flag of the thread at `p` is still to come; otherwise the instruction stalls (07_vector R117, 02_encoding
R47). -/
def needFlags (s : State) (out : Bool) (p : Place) : Act Unit := if out then .error (.interlock s (.flags p)) else .ok ()

/-! ### Trap records -/

/-- TCAUSE of a record (04_registers R78). -/
def TrapRec.tcause (r : TrapRec) : Word :=
  BitVec.ofNat 64 (r.cause.code.toNat + 256 * r.sub.toNat + 65536 * r.slot.val + 1048576 * r.async.toNat)
/-- The trap registers that a record is delivered into (08_slots R144). -/
def TrapRec.regs (r : TrapRec) : TrapRegs := { tcause := r.tcause, tval := r.tval, tpc := r.tpc, tts := r.tts }

/-- The slot's wait is abandoned: its instruction issues again from its start (08_slots R139). An arrival at a phase
stays (10_access R187). -/
def Slot.abandon (t : Slot) : Slot :=
  let kept := match t.prog with | .arrived g => Progress.arrived g | _ => .none
  { t with wait := none, prog := kept, stalls := [], mint := none, yielded := false }
/-- The package offset of byte `o` of a run's work record (13_graphs R235). -/
def MintRun.at_ (m : MintRun) (o : Nat) : Nat :=
  let va := m.recAddr.toNat + o
  (SMap.get 0 m.pages (va / 4096) + va % 4096) % 2 ^ 43
/-- BUSY is cleared in the work record of the slot's Mint instruction, which stops (13_graphs R236). -/
def State.stopMint (s : State) (p : Place) : State :=
  match (s.slotAt p).mint with
  | some m => s.commitAt (m.at_ 3) [Memory.get s.mem (m.at_ 3) &&& 0xFE]
  | none => s
/-- The wait of the slot at `p` is abandoned, with its places in the grant order and in the Treasury's queue
(08_slots R139, 04_registers R73, 20_counters R336). -/
def State.abandon (s : State) (p : Place) : State :=
  (((s.stopMint p).modCore p.core.val fun k =>
      { k.modSlot p.slot Slot.abandon with grants := k.grants.filter fun g => g.1 != p.slot }).modDie
    (dieOf p.core.val) fun d => { d with asks := d.asks.filter fun a => a.place != p })

/-- A trap of a tenant slot: the slot is PARKED and its record is queued (08_slots R141, R144). -/
def State.park (s : State) (p : Place) (cause : Cause) (sub : Nat) (async : Bool) (tval tpc : Word) : State :=
  let r : TrapRec := { pop := (s.slotAt p).popid, cause, sub := BitVec.ofNat 8 sub, slot := p.slot, async, tval, tpc, tts := (s.slotAt p).ts }
  (s.abandon p).modCore p.core.val fun k =>
    { k.modSlot p.slot (fun t => { t with state := .parked, trapped := some r }) with records := k.records ++ [r] }

/-- A precise trap of slot 15: it nests, or stops the slot (08_slots R145). -/
def State.nest (s : State) (p : Place) (cause : Cause) (sub : Nat) (tval tpc : Word) : State :=
  let now := (s.die (dieOf p.core.val)).tsc
  (s.abandon p).modCore p.core.val fun k =>
    if k.trap.tcause.toNat % 256 ≠ 0 ∧ k.hidden = none then
      let r : TrapRec := { pop := 0, cause, sub := BitVec.ofNat 8 sub, slot := 15, async := false, tval, tpc, tts := k.slots[15].ts }
      { k.modSlot 15 (fun t => { t with pc := k.entry, state := .ready }) with hidden := some k.trap, trap := r.regs }
    else
      let again := match k.lastStop with | some a => decide (now.toNat - a.toNat ≤ 1000000000) | none => false
      { k.modSlot 15 (fun t => { t with state := .stopped }) with lastStop := some now, restop := again }

/-- Taking a precise trap at the slot at `p` (08_slots R141-R145, 02_encoding R46): TPC is the trapping
instruction, or the next one for SYSCALL (R147). -/
def State.takeTrap (s : State) (p : Place) (cause : Cause) (sub : Nat) (tval : Word) : State :=
  let pc := (s.slotAt p).pc
  if p.slot.val = 15 then s.nest p cause sub tval pc
  else s.park p cause sub false tval (if cause = .syscall then pc + 4 else pc)

/-- A core event of class E: it is queued with SLOT 15, or merges into the queued record of its cause and is
counted in ETRAP (08_slots R144, 20_counters R329). -/
def State.raiseEvent (s : State) (c : Nat) (cause : Cause) (sub : Nat) (tval : Word) : State :=
  if (s.core c).records.any (fun r => r.cause == cause && r.async && r.slot.val == 15) then
    s.modDie (dieOf c) fun d => { d with etrap := d.etrap + 1 }
  else s.modCore c fun k =>
    { k with records := k.records ++ [{ pop := 0, cause, sub := BitVec.ofNat 8 sub, slot := 15, async := true, tval, tpc := 0, tts := 0 }] }

/-- A refused message, write or atomic: FABERR at the sending core's supervisor, and in the completion record
of the population (01_device R18, 15_messages R269, 14_queues R258). -/
def State.faberr (s : State) (c : Nat) (pop : BitVec 32) (addr : Word) : State :=
  (s.raiseEvent c .faberr 0 addr).modPop pop fun p =>
    { p with faberr := true, failAt := if p.fails = 0 then addr else p.failAt, fails := p.fails + 1 }

/-! ### Halting a thread -/

/-- RES returns to TRSY (20_counters R337). -/
def State.returnRes (s : State) (p : Place) : State :=
  let r := (s.slotAt p).res
  (s.modDie (dieOf p.core.val) fun d =>
    { d with trsy := BitVec.ofNat 32 (min (d.trsy.toNat + r) d.trbud.toNat) }).modSlot p fun t => { t with res := 0 }
/-- The identity of the thread at a place (09_memories R364). -/
def State.ident (s : State) (p : Place) : Ident :=
  { pop := (s.slotAt p).popid, thidx := (s.slotAt p).thidx, slot := p.slot }
/-- The bytes of a spill record (09_memories R170). -/
def Entry.record (e : Entry) : List Byte :=
  let form := match e.form with | .loc => 0 | .dev => 1 | .virt => 2
  toBytes 8 (e.da % 2 ^ 56 / 64 * 64 + 2 ^ 62 * form + 2 ^ 61 * e.merged.toNat) ++
  toBytes 8 (e.line.toNat / 64 * 64 + e.who.slot.val + 16 * e.retired.toNat) ++
  toBytes 8 e.mask.toNat ++ toBytes 8 (e.who.pop.toNat + 2 ^ 32 * e.who.thidx.toNat) ++ toBytes 64 e.data.toNat
/-- Where record `n` of a core's spill area lies (09_memories R170, 04_registers R79). -/
def State.spillAt (s : State) (c n : Nat) : Nat :=
  vaultBase c + (s.core c).phbuf.toNat % 2 ^ 24 / 2 ^ 12 * 2 ^ 12 + n / 42 * 4096 + n % 42 * 96
/-- Spilled entries changed by `f`, with their records in memory (09_memories R170). -/
def State.mapSpill (s : State) (c : Nat) (f : Entry → Entry) : State :=
  ((s.core c).spill.filter (fun e => f e.2 != e.2)).foldl
    (fun t e => t.commitAt (t.spillAt c e.1) (f e.2).record)
    (s.modCore c fun k => { k with spill := k.spill.map fun e => (e.1, f e.2) })
/-- The entries and records of core `c` changed by `f`. -/
def State.mapEntries (s : State) (c : Nat) (f : Entry → Entry) : State :=
  (s.mapSpill c f).modCore c fun k => { k with buffer := k.buffer.map f }
/-- An entry of the thread `who`, which relocations have taken to core `left` where it left the entry behind (09_memories R364, 08_slots
R153). -/
def Entry.isOf (e : Entry) (who : Ident) (left : Option CoreId) : Bool := e.who == who && !e.inbound && e.left == left
/-- An entry that is retired where it is one of those. -/
def Entry.retire (who : Ident) (left : Option CoreId) (e : Entry) : Entry := if e.isOf who left then { e with retired := true } else e
/-- The thread's entries and records are retired, those too that it left on other cores as relocations took it to its core (09_memories
R364, 08_slots R153). -/
def State.retireEntries (s : State) (p : Place) : State :=
  let who := s.ident p
  let t := s.mapEntries p.core.val (Entry.retire who none)
  ((t.cores.filter fun k => (k.2.spill.map Prod.snd ++ k.2.buffer).any fun e => e.isOf who (some p.core)).map Prod.fst).foldl
    (fun (t : State) c => t.mapEntries c (Entry.retire who (some p.core))) t
/-- The slot with no vector registers (04_registers R73, R74). -/
def Slot.dropVectors (t : Slot) : Slot := { t with v := [], m := Vector.replicate 8 0 }

/-- Where word `w` of the entry of mailbox `mb` lies (15_messages R268). -/
def State.mboxAt (s : State) (c mb w : Nat) : Nat :=
  vaultBase c + (s.core c).mbt.toNat % 2 ^ 24 / 2 ^ 12 * 2 ^ 12 + 64 * mb + 8 * w
/-- Word `w` of the entry of mailbox `mb` (15_messages R268). -/
def State.mboxWord (s : State) (c mb w : Nat) : Nat := s.num (s.mboxAt c mb w) 8
/-- Bits of word 5 of a mailbox entry replaced. -/
def State.setMbox5 (s : State) (c mb lo n v : Nat) : State :=
  let w := s.mboxWord c mb 5
  s.commitWord (s.mboxAt c mb 5) (BitVec.ofNat 64 (w - bits w lo n * 2 ^ lo + v % 2 ^ n * 2 ^ lo))
/-- RUN of the mailbox that a handler serves is one less (15_messages R294). -/
def State.endStage (s : State) : Option (CoreId × Mbox) → State
  | none => s
  | some (c, mb) => s.setMbox5 c.val mb.val 32 4 (bits (s.mboxWord c.val mb.val 5) 32 4 + 15)
/-- OWNV is cleared in the mailboxes of `owned` that still name their owner (15_messages R268). -/
def State.dropOwned (s : State) (owned : List (CoreId × SlotId × Mbox)) : State :=
  owned.foldl (fun (t : State) o =>
    let w := t.mboxWord o.1.val o.2.2.val 5
    if bits w 52 1 = 1 ∧ bits w 48 4 = o.2.1.val then t.setMbox5 o.1.val o.2.2.val 52 1 0 else t) s
/-- A thread that is out of every slot is gone: its mailbox's RUN and the OWNV of the mailboxes that it owns (15_messages R268,
R294). -/
def State.letGo (s : State) (t : Slot) : State := (s.endStage t.stage).dropOwned t.owned
/-- The handler's halt decrements RUN of its mailbox, wherever the thread halts (15_messages R294). -/
def State.endHandler (s : State) (p : Place) : State :=
  match (s.slotAt p).stage with
  | none => s
  | some e => (s.endStage (some e)).modSlot p fun t => { t with stage := none }
/-- OWNV is cleared in the mailboxes that a thread owns, when it has halted with final events or is freed
(15_messages R268). -/
def State.disown (s : State) (p : Place) : State :=
  (s.dropOwned (s.slotAt p).owned).modSlot p fun t => { t with owned := [] }

/-- The slot is unbound from its context key, whose LIVE is cleared (20_counters R344, 21_prog_preempt R349). -/
def State.unbind (s : State) (p : Place) : State :=
  match (s.slotAt p).binding with
  | some b =>
    let e := SMap.get KeyEntry.reset s.keys b.key.toNat
    ({ s with keys := SMap.set s.keys b.key.toNat { e with live := false } } : State).modSlot p fun t => { t with binding := none }
  | none => s
/-- Whether the flags of a posted float atomic of the thread at a place are still to come (07_vector R117, 10_access
R183). -/
def State.flagsOut (s : State) (p : Place) : Bool :=
  s.out.any fun o => o.float && !o.gone && o.place == p && o.pop == (s.slotAt p).popid
/-- The thread at `p` becomes DONE; as a halted one it needs no arrival at a phase (08_slots R138, 04_registers R74,
09_memories R172, R364). -/
def State.becomeDone (s : State) (p : Place) : State :=
  let t := (((((s.abandon p).returnRes p).retireEntries p).endHandler p).disown p).unbind p
  let pop := (s.slotAt p).popid
  let u : State := { t with out := t.out.map fun (o : Outstanding) => if o.place == p && o.pop == pop then { o with gone := true } else o }
  (u.modPop pop fun q => { q with arrived := q.arrived.filter (· != p) }).modSlot p fun t =>
    { t.dropVectors with state := .done, pending := none, evo := false, stopping := false, trapped := none, into := none }
/-- A boundary trap that a halted slot can no longer take is a core event (08_slots R143). -/
def State.dropIntr (s : State) (p : Place) : State :=
  match (s.slotAt p).intr with
  | some i => (s.modSlot p fun t => { t with intr := none }).raiseEvent p.core.val .intr i 0
  | none => s
/-- `halt` without its wait: DONE, or HELD where the thread has begun an event (08_slots R138). DESIGN CHOICE: a thread that
`sret.halt` halts is HELD too where it has begun an event, as R146 halts it by R138 (notes/assumptions/86). -/
def State.haltThread (s : State) (p : Place) : State :=
  let u := s.dropIntr p
  let t := s.slotAt p
  if t.opt && t.evid != 0 then (u.abandon p).modSlot p fun t => { t with state := .held, evo := false, stopping := false }
  else u.becomeDone p

/-- A thread that `sret.abort` stops: DONE (08_slots R134, R146). -/
def State.stopThread (s : State) (p : Place) : State := (s.dropIntr p).becomeDone p

/-- An anti-message of the rollback sequence of the thread at `p` is accepted; after the last one the thread goes on
(17_prog_pipeline R299). -/
def State.antiDone (s : State) (p : Place) (pop : BitVec 32) : State :=
  let q := s.slotAt p
  if q.popid != pop || q.antiOut == 0 then s
  else
    let t := s.modSlot p fun q => { q with antiOut := q.antiOut - 1 }
    if q.antiOut ≠ 1 ∨ q.pending.isSome then t
    else if q.stopping then t.stopThread p
    else t.modSlot p fun q => { q with state := .ready }

/-! ### Completing an instruction -/

/-- A boundary trap that the slot at `p` waits to take is taken, once the flags of its earlier atomics are there (08_slots
R141, R143, 07_vector R117). DESIGN CHOICE: until then the slot goes on issuing (notes/assumptions/90). -/
def State.takeIntr (s : State) (p : Place) : State :=
  match (s.slotAt p).intr with
  | some i => if s.flagsOut p then s else (s.modSlot p fun t => { t with intr := none }).park p .intr i true 0 (s.slotAt p).pc
  | none => s
/-- PC ← `next`, the wait record of the executing slot is done with, and its population's watchdog hears a pulse
(08_slots R155). -/
def State.advance (s : State) (next : Word) : State :=
  (s.modMe fun t => { t with pc := next, wait := none, prog := .none, stalls := [] }).pulse s.me.popid
/-- Whether the slot's instruction has an access to complete that a bank's lock released (08_slots R140). -/
def Slot.released (t : Slot) : Bool := t.stalls.any Stall.freed
/-- A READY slot with a rollback pending is held STALLED, once an access that a bank released has completed
(15_messages R283, 08_slots R140). -/
def Slot.holdBack (t : Slot) : Slot :=
  if t.state == .ready && t.pending.isSome && !t.released then { t with state := .stalled } else t
/-- The instruction of the executing slot completes. A thread that is to stop at this boundary halts (08_slots
R146); a boundary trap that waits is taken (R141); a rollback that is pending holds the slot (15_messages R283). -/
def State.retire (s : State) (next : Word) : State :=
  let t := s.advance next
  if s.me.stopping then t.stopThread t.cur else (t.takeIntr t.cur).modMe Slot.holdBack

/-- The outcome of an instruction that does not complete (00_scope R5, 08_slots R134). One that waits has completed the accesses that it
made, and makes them anew when it issues again (R139, R140). -/
def State.stops (s : State) : Stop → Out
  | .trap c sub v => .next ((s.tried c v).takeTrap s.cur c sub v)
  | .value c v => .next (s.takeTrap s.cur c 0 v)
  | .after vas e => (vas.foldl State.touch s).stops e
  | .lost line v =>
    .next ({ s.touch v with lost := s.lost.filter (· != line),
                            poison := s.poison ++ ((List.range 32).map fun i => 32 * line + i).filter
                              fun w => !s.poison.contains w }.takeTrap s.cur .pglost 0 v)
  | .wait t c => .next (t.modMe fun q => { q with state := .wait, wait := some c, stalls := [] })
  | .interlock t c => .next (t.modMe fun q => { q with state := .stalled, wait := some c, stalls := [] })
  | .stall c b => .next (s.modMe fun q => { q with state := .stalled, wait := some (.bank c b) })
/-- The outcome of an instruction that ends with `r` (00_scope R5). -/
def finish (s : State) : Act State → Out
  | .ok t => .next t
  | .error e => s.stops e

/-- An instruction that ends with the effect `r` and goes on to the next word. -/
def seq (s : State) (r : Act State) : Out := finish s (r.map fun t => t.retire (s.me.pc + 4))

end Sys2Proof.Machine
end

