-- ==== Sys2Proof/Machine/Translate.lean ====
section
/-! DEFINITION. Translation, ownership and the region map (02_encoding R50, 09_memories
R157-R165, 18_tables R303-R311). A device address is a number below 2^56: the package id above bit 43, the
package offset below. -/

namespace Sys2Proof.Machine

/-- The kinds of access (02_encoding R50). -/
inductive Acc where
  | r | w | rw | x
  deriving DecidableEq, Repr

/-- Whether the access includes R or X. -/
def Acc.reads : Acc → Bool
  | .w => false | _ => true
/-- Whether the access includes W. -/
def Acc.writes : Acc → Bool
  | .w | .rw => true | _ => false

/-! ### Regions and ownership -/

/-- Whether control space defines the offset (09_memories R158, with the maps of the blocks). -/
def ctlDefined (q : Nat) : Bool :=
  let o := q - Config.ctlBase
  (decide (o < 2 ^ 23) && decide (o % 2 ^ 20 < 2 ^ 19) && decide (o % 4096 < 24)) ||
  (decide (Config.queueBase ≤ q) && decide (q < Config.queueBase + 0x2020)) ||
  (decide (Config.queueBase + 0x3000 ≤ q) && decide (q < Config.queueBase + 0x3100)) ||
  (decide (Config.queueBase + 0x10000 ≤ q) && decide (q < Config.queueBase + 0x20200)) ||
  (decide (Config.partBase ≤ q) && decide (q < Config.partBase + 0x800)) ||
  (decide (Config.bankBase ≤ q) && decide (q < Config.bankBase + 0x4000)) ||
  (decide (Config.rangeBase ≤ q) && decide (q < Config.rangeBase + 0x4000)) ||
  (decide (Config.potBase ≤ q) && decide (q < Config.potBase + 8)) ||
  (decide (Config.mapBase ≤ q) && decide (q < Config.mapBase + 0x4000) && decide (q % 0x800 < 0x408)) ||
  (decide (Config.countBase ≤ q) && decide (q < Config.countBase + 0x8000) && decide (q % 0x1000 < 0x60)) ||
  (decide (Config.watchBase ≤ q) && decide (q < Config.watchBase + 0x80000) && decide (q % 0x10000 < 0x8000) &&
    decide (q % 0x100 < 0xF8)) ||
  (decide (Config.clockBase ≤ q) && decide (q < Config.clockBase + 0x30)) ||
  (decide (Config.eventBase ≤ q) && decide (q < Config.eventBase + 0x38)) ||
  (decide (Config.resetBase ≤ q) && decide (q < Config.resetBase + 0x40)) ||
  (decide (Config.fwdBase ≤ q) && decide (q < Config.fwdBase + 0x30))
/-- Whether an offset lies in control space (09_memories R158). -/
def inCtl (q : Nat) : Bool := decide (Config.ctlBase ≤ q ∧ q < 0x70000000000)
/-- Whether an offset lies in the mailbox windows (09_memories R164). -/
def inMbox (q : Nat) : Bool := decide (Config.mboxBase ≤ q ∧ q < Config.mboxBase + 0x100000)
/-- Whether an offset reaches a region (09_memories R158). -/
def defined (q : Nat) : Bool := inVault q || inHbm q || inMbox q || inRed q || (inCtl q && ctlDefined q)
/-- The blocks of control space whose rules let every compute slot load them: core control blocks (R140), the
command front end (R251), the partition table (R303), the core maps (R311), the counter and watchdog blocks
(R329, R330) and the event block (R356). The other blocks follow 09_memories R159 (notes/assumptions/9). -/
def ctlLoadable (q : Nat) : Bool :=
  decide (q < Config.bankBase) || (decide (Config.mapBase ≤ q) && decide (q < Config.clockBase)) ||
  (decide (Config.eventBase ≤ q) && decide (q < Config.resetBase))

/-- The page ownership byte of an HBM offset (18_tables R310). -/
def State.owner (s : State) (q : Nat) : Nat := s.num (s.potb.toNat % 2 ^ 43 + (q - Config.hbmBase) / 65536) 1
/-- Whether the bank map grants partition `p` the bank of a vault offset (18_tables R304). -/
def State.bankOf (s : State) (p q : Nat) : Bool :=
  (SMap.get (0 : BitVec 16) (s.partition p).banks (vaultCore q)).getLsbD (q % 2 ^ 24 / 2 ^ 20)
/-- Whether partition `p` owns the bytes that an access by device address reaches (09_memories R159-R162, R165,
18_tables R304, R310). -/
def State.owns (s : State) (p : Nat) (acc : Acc) (q size : Nat) : Bool :=
  if inVault q then
    let o := q % 2 ^ 24
    let win := 0xC000 + 0x800 * p
    if o < 0x10000 then
      decide (win ≤ o) && decide (o + size ≤ win + 0x800) && (!acc.writes || decide (o + size ≤ win + 0x7C0))
    else s.bankOf p q
  else if inHbm q then decide (s.owner q % 32 = 8 + p)
  else if inRed q then true
  else inCtl q && (acc.writes || ctlLoadable q)

/-- The device address of a local-alias address for a slot of core `c`: a tenant's constant window is its
partition's (09_memories R157, R162). -/
def State.localAddr (s : State) (c : Nat) (tenant : Option Part) (va : Nat) : Nat :=
  s.pkg * 2 ^ 43 + vaultBase c +
    match tenant with
    | some p => if va < 0x800 then 0xC000 + 0x800 * p.val + va else va
    | none => va

/-- Translate, for an access of core `c` by a tenant thread of a partition, or by slot 15 (02_encoding R50,
09_memories R157-R165). -/
def State.translateAs (s : State) (c : Nat) (tenant : Option Part) (va : Word) (acc : Acc) (size : Nat) : Act Nat := do
  check (va.toNat % size = 0) .align va
  let da ← match formOf va with
    | none => trap .xlat va
    | some .loc => .ok (s.localAddr c tenant va.toNat)
    | some .dev => .ok (va.toNat % 2 ^ 56)
    | some .virt =>
      match tenant.bind fun p => s.mapping (dieOf c) p.val va.toNat with
      | none => trap .xlat va
      | some m => do
        check ((!acc.reads || (if acc = .x then m.x else m.r)) && (!acc.writes || (m.w && !m.cow))) .prot va
        .ok m.da
  if da / 2 ^ 43 ≠ s.pkg then
    check (!acc.reads) .noremld va
    .ok da
  else
    let q := da % 2 ^ 43
    check (defined q) .xlat va
    check (!inMbox q) .prot va
    match tenant with
    | none => .ok da
    | some p => do
      check (!(formOf va == some .loc && decide (0x800 ≤ va.toNat ∧ va.toNat < 0x10000))) .prot va
      check (s.owns p.val acc q size) .prot va
      .ok da

/-- The partition of the executing slot, none for slot 15 (02_encoding R50, 08_slots R365). -/
def State.tenant (s : State) : Option Part := if s.isSup then none else some s.me.part
/-- Translate(va, access, size) of the executing thread (02_encoding R50). -/
def State.translate (s : State) (va : Word) (acc : Acc) (size : Nat) : Act Nat :=
  s.translateAs s.myId s.tenant va acc size
/-- The package offset that Translate reaches; an address on another package traps PROT, for the blocks whose
entries need this package. -/
def State.translateHere (s : State) (va : Word) (acc : Acc) (size : Nat) : Act Nat := do
  let da ← s.translate va acc size
  check (da / 2 ^ 43 = s.pkg) .prot va
  .ok (da % 2 ^ 43)
/-- Whether the words of the 4 KiB page of a device address may differ in rights or in being defined: the constant
windows and the system area of a vault, and control space (09_memories R158-R162). -/
def State.uneven (s : State) (da : Nat) : Bool :=
  da / 2 ^ 43 == s.pkg &&
    (inCtl (da % 2 ^ 43) || (inVault (da % 2 ^ 43) && decide (da % 2 ^ 24 < 0x10000)))
/-- Every word that the range from `va` to `stop` has in page `pg`, after its first byte, passes Translate's checks. -/
def State.wordsOk (s : State) (va stop : Nat) (acc : Acc) (pg : Nat) : Act Unit :=
  (List.range 512).forM fun i =>
    let a := pg * 4096 + 8 * i
    if va < a ∧ a < stop then (s.translate (BitVec.ofNat 64 a) acc 1).map fun _ => () else .ok ()
/-- Every page that the bytes from `va` to `stop` touch, with the device address of its first byte, translated for the
executing thread; each byte passes the checks of Translate (11_matrix R204, 09_memories R158-R162). -/
def State.pagesFor (s : State) (va : Word) (stop : Nat) (acc : Acc) : Nat → Nat → Act (List (Nat × Nat))
  | 0, _ => .ok []
  | n + 1, pg => do
    let first := BitVec.ofNat 64 (max va.toNat (pg * 4096))
    let da ← s.translate first acc 1
    if s.uneven da then s.wordsOk va.toNat stop acc pg else .ok ()
    let rest ← afterAll [first] (s.pagesFor va stop acc n (pg + 1))
    .ok ((pg, da - first.toNat % 4096) :: rest)
/-- The pages of `[va, va + len)`, translated in rising order (11_matrix R204). -/
def State.pages (s : State) (va : Word) (acc : Acc) (len : Nat) : Act (List (Nat × Nat)) :=
  if len = 0 then .ok []
  else s.pagesFor va (va.toNat + len) acc ((va.toNat + len - 1) / 4096 - va.toNat / 4096 + 1) (va.toNat / 4096)
/-- The device address of a virtual address within translated pages. -/
def pageAddr (pages : List (Nat × Nat)) (va : Nat) : Nat :=
  SMap.get 0 pages (va / 4096) + va % 4096
/-- The pages of `[va, va + len)`, each by its first address. -/
def pageStarts (va len : Nat) : List Word :=
  (List.range ((va + len - 1) / 4096 - va / 4096 + 1)).map fun i => BitVec.ofNat 64 ((va / 4096 + i) * 4096)
/-- The caches hold the translations of every page of `[va, va + len)`. -/
def State.touchPages (s : State) (va : Word) (len : Nat) : State := (pageStarts va.toNat len).foldl State.touch s

/-! ### Locked banks, lost lines, poison -/

/-- The locked bank that an access to a vault offset stalls on; slot 15 does not stall (08_slots R140). -/
def State.lockedAt (s : State) (q : Nat) : Option (CoreId × BitVec 4) :=
  if inVault q then
    let c := vaultCore q
    let b := q % 2 ^ 24 / 2 ^ 20
    if (s.core c).lock.getLsbD b then some (Fin.ofNat 1024 c, BitVec.ofNat 4 b) else none
  else none
/-- Whether a bank's lock has released an access that had met it (08_slots R140). -/
def freedFrom (l : List Stall) (e : CoreId × BitVec 4) : Bool := l.any fun a => a.freed && a.core == e.1 && a.bank == e.2
/-- An access that has met the locked banks `es` has met them, beside those it had met (08_slots R140). -/
def meets (l : List Stall) (es : List (CoreId × BitVec 4)) : List Stall :=
  es.foldl (fun l e => if l.any fun a => !a.freed && a.core == e.1 && a.bank == e.2 then l else l ++ [{ core := e.1, bank := e.2, freed := false }]) l
/-- The banks `banks` of core `c` release an access that had met them (08_slots R140). -/
def Stall.release (c : Nat) (banks : BitVec 16) (a : Stall) : Stall :=
  if a.core.val = c ∧ banks.getLsbD a.bank.toNat then { a with freed := true } else a
/-- The access stalls on a locked bank, unless the lock released it (08_slots R140). -/
def State.unlocked (s : State) (da : Nat) : Act Unit :=
  if s.isSup || da / 2 ^ 43 != s.pkg then .ok ()
  else match s.lockedAt (da % 2 ^ 43) with
    | none => .ok ()
    | some (c, b) => if freedFrom s.me.stalls (c, b) then .ok () else .error (.stall c b)
/-- The same for a word of this package that an instruction's own operation reaches (08_slots R140). -/
def State.unlockedAt (s : State) (q : Nat) : Act Unit := s.unlocked (s.pkg * 2 ^ 43 + q)
/-- The same for `n` bytes from an offset (08_slots R140). -/
def State.unlockedRange (s : State) (q n : Nat) : Act Unit :=
  (List.range ((q + n - 1) / 2 ^ 20 - q / 2 ^ 20 + 1)).forM fun i => s.unlockedAt (max q ((q / 2 ^ 20 + i) * 2 ^ 20))
/-- The checks of an access that touches memory: a locked bank, a lost line, and, for a read, a poisoned word
(10_access R177, 08_slots R140). -/
def State.touchable (s : State) (va : Word) (da n : Nat) (reads : Bool) : Act Unit := do
  s.unlocked da
  if da / 2 ^ 43 ≠ s.pkg then .ok () else
  let q := da % 2 ^ 43
  match s.lostAt q n with
  | some l => .error (.lost l va)
  | none =>
    match s.poisonedAt q n with
    | some w => if reads then trap .poison (va + BitVec.ofNat 64 (8 * w) - BitVec.ofNat 64 q) else .ok ()
    | none => .ok ()

/-- BUSY of the work record of the slot's Mint instruction lies in a locked bank, which has not released the run (13_graphs R236, R238,
08_slots R140). -/
def State.stopLocked (s : State) (p : Place) : Bool :=
  match (s.slotAt p).mint with
  | some m => (s.lockedAt (m.at_ 3)).any fun e => !freedFrom (s.slotAt p).stalls e
  | none => false

/-- Capture(a, len) at a package offset, for the blocks that a core may reuse: the committed bytes, or a copy that the
core read since the thread's last `fence.cb` (02_encoding R52; notes/assumptions/5). -/
def State.captured (s : State) (q n : Nat) : List Byte :=
  let now := s.bytes q n
  let olds := s.myCore.captured.filter fun e =>
    e.at_ == q && e.bytes.length == n && decide (s.me.fenced ≤ e.when_) && e.bytes != now
  if olds = [] then now
  else (now :: olds.map Copy.bytes).getD ((Config.freeWord (s.choice (2 ^ 63 + q))).toNat % (olds.length + 1)) now
/-- The core may give the copy again, where it read it from memory in this step (02_encoding R52). -/
def State.keepCapture (s : State) (q n : Nat) : State :=
  let now := s.bytes q n
  if s.captured q n = now then
    s.modMyCore fun k =>
      { k with captured := { at_ := q, bytes := now, when_ := s.fresh } ::
                 k.captured.filter fun e => !(e.at_ == q && e.bytes == now) }
  else s
/-- Every captured copy of `n` bytes at `q` is dropped on the package (18_tables R302). -/
def State.dropCaptures (s : State) (q n : Nat) : State :=
  { s with cores := s.cores.map fun e => (e.1, { e.2 with
      captured := e.2.captured.filter fun f => !(decide (f.at_ < q + n) && decide (q < f.at_ + f.bytes.length)) }) }

end Sys2Proof.Machine
end

