-- ==== Sys2Proof/Machine/Fabric.lean ====
section
/-! DEFINITION. Fabric writes and posted atomics leaving the package (01_device R18, 19_prog_link R324, R325),
and the event block (23_system R356). -/

namespace Sys2Proof.Machine

/-- The executing thread as the issuer of a write. -/
def State.issuer (s : State) : Issuer := { place := s.cur, pop := s.me.popid, part := s.me.part }
/-- The scale-up port that carries packets for a package: the lowest-numbered one that is up and leads toward it
(19_prog_link R324; notes/assumptions/10). -/
def State.route (s : State) (pkg : Nat) : Option Nat :=
  (List.range 16).find? fun p => (s.port p).up && (s.port p).beyond.contains pkg
/-- A write tag without the marks of a packet: bit 61 says that more packets of its write follow, bit 62 that it is an end
write (13_graphs R243, 19_prog_link R325; notes/assumptions/25). -/
def bareTag (t : Word) : Word := t &&& 0x9FFFFFFFFFFFFFFF
/-- The packets of a write or atomic: at most 192 data bytes each (19_prog_link R325). -/
def packets (base : Packet) : Nat → Nat → List Byte → List Packet
  | 0, _, _ => []
  | n + 1, da, bs =>
    let p := { base with target := BitVec.ofNat 56 da, data := bs.take 192,
                         isEnd := base.isEnd && bs.length ≤ 192, more := decide (192 < bs.length) }
    if bs.length ≤ 192 then [p] else p :: packets base n (da + 192) (bs.drop 192)
/-- The slot of the thread of a population that runs at a place, or that was taken out of it, changed by `f`. -/
def State.modThread (s : State) (p : Place) (pop : BitVec 32) (f : Slot → Slot) : State :=
  if (s.slotAt p).popid == pop && (s.slotAt p).state != .free then s.modSlot p f
  else s.modPop pop fun q => { q with away := q.away.map fun a => if a.place == p then { a with slot := f a.slot } else a }
/-- A refusal of a thread's write: FABERR, RESULT1 of the `gsend` that made it, the end of an anti-message, and the
thread's count of refusals (01_device R18, 13_graphs R243, 17_prog_pipeline R299, 18_tables R316). -/
def State.refuseWrite (s : State) (o : Outstanding) : State :=
  let t := s.faberr o.place.core.val o.pop o.addr
  let t := match o.mint with
    | some q => t.commitWord (q + 0x38) (t.word (q + 0x38) + 1)
    | none => t
  let t := if o.anti then t.antiDone o.place o.pop else t
  if o.gone then t else t.modThread o.place o.pop fun t => { t with refused := t.refused + 1 }
/-- A fabric write (kind 0) or posted atomic (kind 1) leaves for device address `da`; without a port it is
refused (19_prog_link R324). Bit 63 of the tag is the colour (20_counters R333; notes/assumptions/25). -/
def State.sendFabric (s : State) (by_ : Issuer) (da kind fn : Nat) (data : List Byte)
    (colour anti float isEnd : Bool) (mint : Option Nat := none) : State :=
  let tag := BitVec.ofNat 64 (s.nextTag.toNat % 2 ^ 61 + colour.toNat * 2 ^ 63)
  let o : Outstanding := { tag, place := by_.place, pop := by_.pop, gone := false, addr := BitVec.ofNat 64 da, anti, float, mint }
  match s.route (da / 2 ^ 43) with
  | none => s.refuseWrite o
  | some p =>
    let base : Packet := { target := 0, kind := BitVec.ofNat 4 kind, core := by_.place.core, part := by_.part,
                           dom := (s.pop? by_.pop).bind Pop.dom, fn := BitVec.ofNat 5 fn, tag := tag, data := [], isEnd := isEnd, more := false }
    { s.modPort p (fun k => { k with txq := k.txq ++ packets base (data.length + 1) da data }) with
      nextTag := s.nextTag + 1, out := s.out ++ [o] }
/-- An answer to a packet of another package: an acknowledgement (2) or a refusal (3), which echoes its tag
(19_prog_link R325); the flags of a float atomic come back as its data byte (10_access R183; notes/assumptions/25). -/
def State.answer (s : State) (pkg : BitVec 13) (kind : Nat) (tag : Word) (data : List Byte := []) : State :=
  let p : Packet :=
    { target := BitVec.ofNat 56 (pkg.toNat * 2 ^ 43), kind := BitVec.ofNat 4 kind, core := 0, part := 0,
      dom := none, fn := 0, tag := tag, data, isEnd := false, more := false }
  match s.route pkg.toNat with
  | none => s
  | some n => s.modPort n fun k => { k with txq := k.txq ++ [p] }
/-- A reply to a KDA datagram: OP 4 ACK or 5 NAK with its code, the queue set's generation, the echoed message id and
mark (14_queues R262, R263). -/
def State.kdaReply (s : State) (p : Part) (op code : Nat) (id : Word) (ce : Bool) : State :=
  { s with replies := ([1, BitVec.ofNat 8 op, BitVec.ofNat 8 ce.toNat, 0] ++ toBytes 4 (s.partition p.val).gen.toNat ++ toBytes 8 id.toNat ++
      toBytes 12 0 ++ toBytes 2 code ++ toBytes 2 0) :: s.replies }
/-- The write that a tag of a package names has lost a packet to a refusal (19_prog_link R325). -/
def State.isBroken (s : State) (pkg : BitVec 13) (tag : Word) : Bool := s.broken.contains (pkg, bareTag tag)
/-- The last packet of the write has come: nothing of it is left to remember. -/
def State.mend (s : State) (pkg : BitVec 13) (tag : Word) : State :=
  { s with broken := s.broken.filter fun e => e != (pkg, bareTag tag) }
/-- An inbound write is accepted, and its sender hears of it, of a write in several packets with the last one and only where
every packet was accepted (09_memories R175, 14_queues R263, 19_prog_link R325). -/
def State.acknowledge (s : State) : Ack → State
  | .none => s
  | .fabric pkg tag => if s.isBroken pkg tag then s.mend pkg tag else s.answer pkg 2 tag
  | .more _ _ => s
  | .kda p id ce => s.kdaReply p 4 0 id ce
/-- An inbound write is refused (09_memories R159, 14_queues R263: NAK PROT). -/
def State.refuse (s : State) : Ack → State
  | .none => s
  | .fabric pkg tag => (s.mend pkg tag).answer pkg 3 tag
  | .more pkg tag => ({ s.mend pkg tag with broken := (pkg, bareTag tag) :: (s.mend pkg tag).broken } : State).answer pkg 3 tag
  | .kda p id ce => s.kdaReply p 5 3 id ce
/-- An event for the service OS: ARG, PEND, OVR where one was pending, and identity 32 + e at the interrupt controller of the
I/O die (23_system R356). -/
def State.post (s : State) (e : Fin 7) (arg : Nat) : State :=
  let old := s.events[e.val].toNat
  let ovr := if bits old 62 2 ≠ 0 then 1 else 0
  { s with events := s.events.set e.val (BitVec.ofNat 64 (arg % 2 ^ 56 + 2 ^ 62 * ovr + 2 ^ 63)), raised := (32 + e.val) :: s.raised }

/-! ### Notify words and the mapper -/

/-- The package's time, the TSC of die 0 (20_counters R331). -/
def State.time (s : State) : Word := (s.die 0).tsc
/-- Whether the ring is defined and without error (14_queues R252, R260). -/
def Ring.ok (r : Ring) : Bool := r.v && decide (4 ≤ r.log.toNat ∧ r.log.toNat ≤ 20) && r.errc == 0
/-- Where the record of an index lies (14_queues R252); BASE lies on this package. DEDUCED: its package field is not compared
(notes/assumptions/41). -/
def Ring.recordAt (r : Ring) (i : Nat) : Nat := bits r.base.toNat 12 31 * 2 ^ 12 + 64 * (i % 2 ^ r.log.toNat)
/-- Whether the record at RD is published (14_queues R254). -/
def State.published (s : State) (r : Ring) : Bool :=
  let h := s.num (r.recordAt r.rd.toNat) 8
  bits h 0 4 != 0 && bits h 16 48 == r.rd.toNat % 2 ^ 48
/-- Active slot `q` (14_queues R251). -/
def State.active (s : State) (q : Nat) : Active := SMap.get Active.free s.actives q
/-- The state with active slot `q` replaced. -/
def State.setActive (s : State) (q : Nat) (a : Active) : State := { s with actives := SMap.set s.actives q a }
/-- The active slots that a partition holds (14_queues R255). -/
def State.activeOf (s : State) (p : Part) : Nat :=
  ((List.range 32).filter fun q => match (s.active q).ring with | some r => (s.ring r.val).part == p | none => false).length
/-- Whether the ring of an active slot is idle: nothing published at RD, and no record waits (14_queues R255). -/
def State.idle (s : State) (q : Nat) : Bool :=
  match (s.active q).ring with
  | none => false
  | some r => !s.published (s.ring r.val) && (s.active q).head == none
/-- A store of V with the word that holds it: BASE, V, RD ← 0, ERRC ← 0 (14_queues R252). -/
def Ring.define (k : Ring) (v : Word) : Ring := { k with base := v &&& 0x00FFFFFFFFFFF000, v := v.getLsbD 63, rd := 0, errc := 0 }
/-- The stores of V that waited are performed (14_queues R252). -/
def Ring.settle (k : Ring) : Ring := k.held.foldl Ring.define { k with held := [] }
/-- A ring is unmapped, and the stores of V that waited for it are performed (14_queues R252, R255). -/
def State.unmap (s : State) (r : RingId) : State :=
  if (s.ring r.val).mapped then
    (s.setActive (s.ring r.val).slot.toNat Active.free).modRing r.val fun k => { k with mapped := false }.settle
  else s
/-- A ring whose stores of V wait is unmapped once its slot is idle (14_queues R252). -/
def State.flushHeld (s : State) (r : RingId) : State :=
  let k := s.ring r.val
  if k.held ≠ [] ∧ k.mapped ∧ s.idle k.slot.toNat then s.unmap r else s
/-- A ring takes active slot `q`. -/
def State.mapTo (s : State) (r : RingId) (q : Nat) : State :=
  { (s.setActive q { ring := some r, wait := 0, head := none }).modRing r.val
      (fun k => { k with mapped := true, pend := false, slot := BitVec.ofNat 5 q }) with
    pendingRings := s.pendingRings.filter (· != r) }
/-- The idle slot with the least LRN (14_queues R255). -/
def State.idleSlot (s : State) : Option Nat :=
  ((List.range 32).filter s.idle).foldl (fun best q =>
    match best with
    | none => some q
    | some b =>
      let lrn (n : Nat) := ((s.active n).ring.map fun r => (s.ring r.val).lrn.toNat).getD 0
      if lrn q < lrn b then some q else some b) none
/-- PEND is set, in the order of the notifies (14_queues R255). -/
def State.pendRing (s : State) (r : RingId) : State :=
  if (s.ring r.val).pend then s
  else { s.modRing r.val (fun k => { k with pend := true }) with pendingRings := s.pendingRings ++ [r] }
/-- The mapper serves a ring: a free slot, an idle one, or PEND (14_queues R255). -/
def State.mapRing (s : State) (r : RingId) : State :=
  let k := s.ring r.val
  if !k.ok || k.mapped then s
  else if s.activeOf k.part < (s.partition k.part.val).maxs.toNat then
    match (List.range 32).find? fun q => (s.active q).ring == none with
    | some q => s.mapTo r q
    | none =>
      match s.idleSlot with
      | some q => (match (s.active q).ring with | some old => s.unmap old | none => s).mapTo r q
      | none => s.pendRing r
  else s.pendRing r
/-- A notify of ring `r`: LRN ← TSC, and the mapper (14_queues R255). -/
def State.notify (s : State) (r : RingId) : State :=
  (s.modRing r.val fun k => { k with lrn := s.time }).mapRing r

end Sys2Proof.Machine
end

