-- ==== Sys2Proof/Machine/Control.lean ====
section
/-! DEFINITION. Control space: what a load of each block returns, and what a compute slot's store does
(08_slots R140, 14_queues R251-R261, 18_tables R303-R311, 20_counters R329, R330, R338, 23_system R356-R359). -/

namespace Sys2Proof.Machine

/-! ### Loads -/

/-- The words of a core control block (08_slots R140). -/
def Core.control (k : Core) (w : Nat) : Nat :=
  match w with
  | 0 => k.lock.toNat
  | 1 => k.rotSlots.toNat + 2 ^ 16 * k.rotPart.val + 2 ^ 63 * (k.rotLeft != 0).toNat
  | 2 => k.relocTo.toNat + 2 ^ 62 * k.relocErr.toNat + 2 ^ 63 * k.relocBusy.toNat
  | _ => 0
/-- The words of a ring table entry (14_queues R252). -/
def Ring.entry (r : Ring) (w : Nat) : Nat :=
  match w with
  | 0 => bits r.base.toNat 12 44 * 2 ^ 12 + 2 ^ 63 * r.v.toNat
  | 1 => r.log.toNat + 2 ^ 8 * r.part.val + 2 ^ 12 * r.ext.toNat + 2 ^ 16 * r.errc.toNat
  | 2 => bits r.cb.toNat 6 50 * 2 ^ 6
  | 3 => r.rd.toNat
  | 4 => r.slot.toNat + 2 ^ 8 * r.mapped.toNat + 2 ^ 9 * r.pend.toNat
  | 5 => r.lrn.toNat
  | _ => 0
/-- The words of a KDA queue set (14_queues R261). -/
def Partition.kda (p : Partition) (w : Nat) : Nat :=
  match w with
  | 0 => p.addr.toNat / 2 ^ 64
  | 1 => p.addr.toNat % 2 ^ 64
  | 2 => p.uport.toNat
  | 3 => p.gen.toNat + 2 ^ 63 * p.en.toNat
  | 4 => p.maxs.toNat
  | 5 => p.rate.toNat
  | _ => 0
/-- Active slot status (14_queues R251). DESIGN CHOICE: a slot is busy while a record that it accepted stands at its head
(notes/assumptions/94). -/
def Active.status (a : Active) : Nat :=
  match a.ring with
  | none => 0
  | some r => r.val + 2 ^ 16 * a.head.isSome.toNat + 2 ^ 17 * a.wait.toNat
/-- The words of a counter block (20_counters R329). -/
def Die.counter (d : Die) (w : Nat) : Nat :=
  match w with
  | 0 => d.trgr.toNat | 1 => d.trwt.toNat | 2 => d.trbud.toNat | 3 => d.escr.toNat | 4 => d.escd.toNat
  | 5 => d.gvtrn.toNat | 6 => d.emsg.toNat | 7 => d.eanti.toNat | 8 => d.etask.toNat | 9 => d.etrap.toNat
  | 10 => d.secc.toNat | 11 => d.seuc.toNat | _ => 0
/-- The words of a watchdog block (20_counters R330). -/
def Core.watchWord (k : Core) (w : Nat) : Nat :=
  if h : w / 2 < 15 then
    let e := k.watch[w / 2]
    if w % 2 = 0 then e.pop.toNat + 2 ^ 63 * e.v.toNat else e.last.toNat
  else if w = 30 then k.fires.toNat else 0
/-- The other members in force of the group that this package is in force in; none where it is in none (20_counters R338, R340). -/
def Group.others (g : Group) : List Member := if g.self.in_ then g.members.filter fun m => m.in_ && m.gid == g.self.gid else []
/-- The group that this package is in once every request has taken effect (20_counters R340). -/
def Group.aim (g : Group) : Option (BitVec 16) :=
  match g.self.pend.getLast? with | some e => e.2 | none => if g.self.in_ then some g.self.gid else none
/-- STATE: 0 alone, 1 joining, 2 member, 3 leaving, by the last request (20_counters R338, R340). -/
def Group.status (g : Group) : Nat :=
  match g.self.pend.getLast? with
  | some (_, some _) => 1
  | some (_, none) => 3
  | none => if g.self.in_ then 2 else 0
/-- The words of the clock block (20_counters R338). -/
def State.clockWord (s : State) (w : Nat) : Nat :=
  let g := s.group
  match w with
  | 0 => g.gid.toNat + 2 ^ 63 * g.aim.isSome.toNat
  | 1 => g.status + 2 ^ 16 * g.eff.toNat
  | 2 => s.time.toNat / 1000000
  | 3 => (1 + g.others.length) % 2 ^ 13
  | 4 => (g.others.filter Member.silent).length % 2 ^ 13
  | 5 => g.expel.toNat
  | _ => 0
/-- The physical core of logical core `c` of a die: the identity at reset (18_tables R301, R311). -/
def Die.physOf (d : Die) (c : Nat) : BitVec 8 := SMap.get (BitVec.ofNat 8 c) d.phys c
/-- The words of a core map block (18_tables R311). -/
def State.mapWord (s : State) (d w : Nat) : Nat :=
  if w = 128 then (s.die d).spares.toNat
  else ((s.die d).physOf w).toNat + 2 ^ 63 * (!(s.core (128 * d + w)).absent).toNat
/-- The words of the forward block; the doorbell and the reply word hold nothing that the spec names
(23_system R358; notes/assumptions/5). -/
def State.fwdWord (s : State) (w : Nat) : Nat :=
  match w with
  | 0 => bits s.fwrb.toNat 12 44 * 2 ^ 12
  | 1 => s.fwrlog.toNat
  | 2 => s.fwrrsv.toNat
  | 3 => s.fwrdone.toNat
  | _ => (Config.freeWord (s.choice 3)).toNat
/-- The 8-byte word of control space at a defined offset, a multiple of 8. -/
def State.ctlWord (s : State) (q : Nat) : Nat :=
  if q < Config.queueBase then
    (s.core ((q - Config.ctlBase) / 2 ^ 20 * 128 + q / 2 ^ 12 % 128)).control (q % 4096 / 8)
  else if q < Config.queueBase + 0x2000 then (s.ring ((q - Config.queueBase) / 8)).pend.toNat
  else if q < Config.queueBase + 0x2020 then
    (match (q - Config.queueBase - 0x2000) / 8 with
     | 0 => bits s.jbase.toNat 12 44 * 2 ^ 12 | 1 => s.jlog.toNat | 2 => s.jhead.toNat | _ => s.jcons.toNat)
  else if q < Config.queueBase + 0x10000 then (s.active ((q - Config.queueBase - 0x3000) / 8)).status
  else if q < Config.queueBase + 0x20000 then
    (s.ring ((q - Config.queueBase - 0x10000) / 64)).entry (q % 64 / 8)
  else if q < Config.partBase then (s.partition ((q - Config.queueBase - 0x20000) / 64)).kda (q % 64 / 8)
  else if q < Config.bankBase then
    ((s.partition ((q - Config.partBase) / 256)).words.toList.getD (q % 256 / 8) 0).toNat
  else if q < Config.rangeBase then
    let o := q - Config.bankBase
    let m := (s.partition (o / 2048)).banks
    let at_ (i : Nat) := (SMap.get (0 : BitVec 16) m (o % 2048 / 2 + i)).toNat
    at_ 0 + 2 ^ 16 * at_ 1 + 2 ^ 32 * at_ 2 + 2 ^ 48 * at_ 3
  else if q < Config.potBase then
    let o := q - Config.rangeBase
    ((s.rangeEntry (o / 2048) (o % 2048 / 32)).toList.getD (o % 32 / 8) 0).toNat
  else if q < Config.mapBase then s.potb.toNat
  else if q < Config.countBase then s.mapWord ((q - Config.mapBase) / 2048) (q % 2048 / 8)
  else if q < Config.watchBase then (s.die ((q - Config.countBase) / 4096)).counter (q % 4096 / 8)
  else if q < Config.clockBase then
    (s.core ((q - Config.watchBase) / 65536 * 128 + q % 65536 / 256)).watchWord (q % 256 / 8)
  else if q < Config.eventBase then s.clockWord (q % 4096 / 8)
  else if q < Config.resetBase then (s.events.toList.getD ((q - Config.eventBase) / 8) 0).toNat
  else if q < Config.fwdBase then 2 ^ 63 * (s.partition ((q - Config.resetBase) / 8)).busy.toNat
  else s.fwdWord ((q - Config.fwdBase) / 8)
/-- The number that `n` bytes of control space from an offset spell; they lie in one word. -/
def State.ctlNum (s : State) (q n : Nat) : Nat := s.ctlWord (q / 8 * 8) / 2 ^ (8 * (q % 8)) % 2 ^ (8 * n)
/-- The `n` bytes that a load, or an atomic at its port, reads at a package offset: committed memory, or
control space (09_memories R156, R166). -/
def State.portBytes (s : State) (q n : Nat) : List Byte :=
  if inCtl q then toBytes n (s.ctlNum q n) else s.bytes q n

/-! ### Bank locks, rotation and relocation -/

/-- The slot once core `c` has released the banks `banks`: an access that stalls on one of them goes on, and completes before a new
lock of that bank takes effect (08_slots R140). -/
def Slot.release (c : Nat) (banks : BitVec 16) (q : Slot) : Slot :=
  let t := { q with stalls := q.stalls.map (Stall.release c banks) }
  match q.wait with
  | some (.bank c' b) =>
    if c'.val = c ∧ banks.getLsbD b.toNat then
      { t with state := .ready, wait := none, stalls := t.stalls ++ [{ core := c', bank := b, freed := true }] }
    else t
  | _ => t
/-- The locks of the banks in `banks` are released: every access stalled on one, of a thread, of an engine or of a travelling
decrement, goes on (08_slots R140). -/
def State.release (s : State) (c : Nat) (banks : BitVec 16) : State :=
  let t := s.modCore c fun k => { k with lock := k.lock &&& ~~~banks, lockAt := k.lockAt.filter fun e => !banks.getLsbD e.1 }
  { t with
    cores := t.cores.map fun e => (e.1, { e.2 with
      slots := e.2.slots.map (Slot.release c banks), stalls := e.2.stalls.map fun a => (a.1, a.2.release c banks) })
    net := t.net.map fun e => match e with | .taskDec q b l => .taskDec q b (l.map (Stall.release c banks)) | e => e }
/-- A supervisor's store to BLOCK (08_slots R140). -/
def State.storeLock (s : State) (c : Nat) (m : BitVec 16) : State :=
  let k := s.core c
  let fresh := m &&& ~~~k.lock
  (s.release c (k.lock &&& ~~~m)).modCore c fun k =>
    { k with lock := m, lockAt := (List.range 16).foldl (fun a b => if fresh.getLsbD b then SMap.set a b k.cycle else a) k.lockAt }
/-- A store to ROT, which starts a rotation where SLOTS is not 0 (08_slots R140, R149). -/
def Core.storeRot (k : Core) (v : Word) : Core :=
  { k with rotAt := k.cycle, rotSlots := BitVec.ofNat 15 v.toNat, rotPart := Fin.ofNat 8 (v.toNat / 2 ^ 16), rotLeft := BitVec.ofNat 15 v.toNat }
/-- Whether a relocation of core `c` to `t` is refused, as one to a core that exists no longer, or with a slot that is reserved (08_slots
R153, 21_prog_preempt R349, 23_system R361; notes/assumptions/29). -/
def State.relocRefused (s : State) (c t : Nat) : Bool :=
  t == c || dieOf t != dieOf c || (s.core t).absent || tenantSlots.any (fun i => (s.core t).slots[i.val].state != .free || (s.core t).slots[i.val].reserved) ||
  (s.core t).mail.any (fun e => e.2 != [])
/-- A store to RELOC (08_slots R140, R153). -/
def State.storeReloc (s : State) (c : Nat) (v : Word) : State :=
  let t := v.toNat % 1024
  let no := s.relocRefused c t
  s.modCore c fun k => { k with relocTo := BitVec.ofNat 10 t, relocErr := no, relocBusy := !no }
/-- A store of a record index to the doorbell (23_system R358). -/
def State.storeDoorbell (s : State) (v : Word) : State := s.post 6 v.toNat

/-! ### Stores by compute slots -/

/-- A word with `n` bytes from byte `o` replaced by those of `v`. -/
def mergeWord (old o n v : Nat) : Nat :=
  old - bits old (8 * o) (8 * n) * 2 ^ (8 * o) + v % 2 ^ (8 * n) * 2 ^ (8 * o)

/-- The fields of a word of a range entry; Reserved bits read 0 (18_tables R307). -/
def rangeField (w : Nat) (v : Word) : Word :=
  match w with
  | 0 => v &&& 0xFFFFFFFFFFFFF00F
  | 1 => v &&& 0xFFFFFFFFFFFFF000
  | 2 => v &&& 0x00FFFFFFFFFFF000
  | _ => 0
/-- A store to word `w` of a range entry (18_tables R307). -/
def State.storeRange (s : State) (p i w : Nat) (v : Word) : State :=
  s.modPart p fun k =>
    let e := SMap.get (Vector.replicate 4 0) k.ranges i
    { k with ranges := SMap.set k.ranges i (e.setIfInBounds w (rangeField w v)) }

/-- Whether the byte at an offset of the front end's block holds bits of a field that only the service cores write
(14_queues R251, R252, R259, R261). -/
def srwByte (q : Nat) : Bool :=
  if q < Config.queueBase + 0x2020 then
    match (q - Config.queueBase - 0x2000) / 8 with
    | 0 => decide (1 ≤ q % 8 ∧ q % 8 < 7) | 1 => decide (q % 8 = 0) | 2 => false | _ => true
  else if q < Config.queueBase + 0x20000 then
    match q % 64 / 8 with
    | 0 => decide (1 ≤ q % 8) | 1 => decide (q % 8 < 2) | 2 => decide (q % 8 < 7) | _ => false
  else
    match q % 64 / 8 with
    | 0 | 1 => true | 2 => decide (q % 8 < 2) | 3 => decide (q % 8 = 7) | 4 => decide (q % 8 = 0) | _ => false
/-- What `ctlStore` does but for the monitors. -/
def State.ctlEffect (s : State) (by_ : Place) (va : Word) (q n v : Nat) : Act State :=
  let w := q / 8 * 8
  let sup := by_.slot.val == 15
  let new := BitVec.ofNat 64 (mergeWord (s.ctlWord w) (q % 8) n v)
  if q < Config.queueBase then
    let c := (q - Config.ctlBase) / 2 ^ 20 * 128 + q / 2 ^ 12 % 128
    if !(sup && by_.core.val == c) then trap .prot va
    else match q % 4096 / 8 with
      | 0 => .ok (s.storeLock c (BitVec.ofNat 16 new.toNat))
      | 1 => if (s.core c).rotLeft ≠ 0 then waitFor s .rotIdle else .ok (s.modCore c fun k => k.storeRot new)
      | _ => if (s.core c).relocBusy then waitFor s .relocIdle else .ok (s.storeReloc c new)
  else if q < Config.queueBase + 0x2000 then
    let r : RingId := Fin.ofNat 1024 ((q - Config.queueBase) / 8)
    if sup || (s.slotAt by_).part != (s.ring r.val).part then trap .prot va else .ok (s.notify r)
  else if Config.queueBase + 0x3000 ≤ q ∧ q < Config.queueBase + 0x10000 then trap .illop va
  else if q < Config.partBase then
    if (List.range n).any fun i => srwByte (q + i) then trap .prot va else .ok s
  else if Config.rangeBase ≤ q ∧ q < Config.potBase ∧ sup then
    let o := q - Config.rangeBase
    .ok (s.storeRange (o / 2048) (o % 2048 / 32) (o % 32 / 8) new)
  else if Config.fwdBase ≤ q ∧ sup then
    match (q - Config.fwdBase) / 8 with
    | 2 => .ok { s with fwrrsv := new }
    | 4 => .ok (s.storeDoorbell new)
    | _ => trap .prot va
  else trap .prot va
/-- A store of the low `n` bytes of `v` at an offset of control space, by the slot at `by_`: a store that the block's rule
forbids traps PROT, one to a read-only word ILLOP, and one to a field that only the device changes is ignored; monitors of the
line fire (00_scope R3, 10_access R185). `va` is the address that the trap reports; the storing instruction puts its word
into the TVAL of ILLOP. -/
def State.ctlStore (s : State) (by_ : Place) (va : Word) (q n v : Nat) : Act State :=
  (s.ctlEffect by_ va q n v).map fun t => t.fireAt q

end Sys2Proof.Machine
end

