-- ==== Sys2Proof/Machine/Store.lean ====
section
/-! DEFINITION. What a load returns and where a store goes: the combining buffer, the spill area, the store
classes, and event mode's undo log and Escrow (09_memories R166-R171, R364; 15_messages R279-R286). -/

namespace Sys2Proof.Machine

/-! ### Loads -/

/-- Byte `i` of an entry. -/
def Entry.byte (e : Entry) (i : Nat) : Byte := e.data.extractLsb' (8 * i) 8
/-- Whether an entry holds byte `i` of its line. -/
def Entry.has (e : Entry) (i : Nat) : Bool := e.mask.getLsbD i
/-- Whether an entry is of a thread that is still on its core (09_memories R364). -/
def Entry.mine (e : Entry) (who : Ident) : Bool := e.who == who && !e.retired && !e.inbound && e.left == none
/-- The entries and records of the executing thread, in the order of their creation (09_memories R169, R364). -/
def State.ownEntries (s : State) : List Entry :=
  (s.myCore.spill.map Prod.snd ++ s.myCore.buffer).filter fun e => e.mine (s.ident s.cur)
/-- Whether a load at `va`, `da` in `form` is forwarded from an entry: the same form and line, or merged and of
the same device line (09_memories R169, R171). -/
def Entry.matches_ (e : Entry) (form : Form) (va : Word) (da : Nat) : Bool :=
  (e.form == form && e.line.toNat == va.toNat / 64 * 64) || (e.merged && e.da == da / 64 * 64)
/-- The entry, of those that hold byte `o`, whose byte was stored last (09_memories R169, R171). -/
def latest (o : Nat) (es : List Entry) : Option Entry :=
  (es.filter fun e => e.has o).foldl (fun best e =>
    match best with
    | some f => if SMap.get 0 f.at_ o ≤ SMap.get 0 e.at_ o then some e else best
    | none => some e) none
/-- The byte that a load finds in an entry at offset `q`, where a store leaves it as the field's rule says (09_memories R169,
00_scope R3, R4). -/
def State.forwarded (s : State) (q o : Nat) (e : Entry) : Byte := s.portBit q (e.byte o)
/-- What a load of a thread returns for the `n` bytes at `va`, which reach `da`. Forwarding from an unmerged
entry of another form is one free choice for the access (09_memories R169; notes/assumptions/5). -/
def State.loadBytes (s : State) (va : Word) (da n i : Nat) : List Byte :=
  let form := (formOf va).getD .loc
  let own := s.ownEntries
  let mine := own.filter fun e => e.matches_ form va da
  let others := own.filter fun e => !e.merged && e.form != form && e.da == da / 64 * 64
  let port := s.portBytes (da % 2 ^ 43) n
  let pick (other : Bool) : List Byte := (List.range n).map fun j =>
    let o := (va.toNat + j) % 64
    match latest o mine with
    | some e => s.forwarded (da % 2 ^ 43 + j) o e
    | none =>
      match (if other then latest o others else none) with
      | some e => s.forwarded (da % 2 ^ 43 + j) o e
      | none => port.getD j 0
  if pick true = pick false then pick false
  else if Config.freeBool (s.choice (16 + i)) then pick true else pick false
/-- A load of `n` bytes, with its checks after translation (10_access R177, R179). -/
def State.load (s : State) (va : Word) (da n i : Nat) : Act Nat := do
  s.touchable va da n true
  .ok (ofBytes (s.loadBytes va da n i))
/-- K(i): what an `ld.d` of local address 8 × i by the executing thread would return (02_encoding R48). -/
def State.k (s : State) (i : Nat) : Act Word := do
  let va := BitVec.ofNat 64 (8 * i)
  let v ← s.load va (s.localAddr s.myId s.tenant (8 * i)) 8 0
  .ok (BitVec.ofNat 64 v)

/-! ### Committed writes -/

/-- A plain write at a memory port: Reserved fields and fields that only the device changes stay (00_scope R3, R4,
09_memories R166, 10_access R188). -/
def State.portWrite (s : State) (q : Nat) (bs : List Byte) : State := s.portCommit q (cells q bs)

/-! ### The combining buffer -/

/-- An entry with the bytes at offset `o` of its line replaced. -/
def Entry.put (e : Entry) (o : Nat) : List Byte → Entry
  | [] => e
  | b :: t =>
    ({ e with mask := e.mask ||| BitVec.ofNat 64 (2 ^ o),
              data := (e.data &&& ~~~(BitVec.ofNat 512 (255 * 2 ^ (8 * o)))) ||| BitVec.ofNat 512 (b.toNat * 2 ^ (8 * o)) } : Entry).put (o + 1) t
/-- The entry with bytes from offset `o` stored at time `t` (09_memories R169, R171). -/
def Entry.stored (e : Entry) (t o : Nat) (bs : List Byte) : Entry :=
  { e.put o bs with at_ := (List.range bs.length).foldl (fun m i => SMap.set m (o + i) t) e.at_ }
/-- The bytes that an entry holds are replaced by those of a write at offset `o` of its line (09_memories R168). -/
def Entry.update (e : Entry) (t o : Nat) : List Byte → Entry
  | [] => e
  | b :: bs => (if e.has o then e.stored t o [b] else e).update t (o + 1) bs
/-- The time of the `i`-th store of this step, for the latest byte (09_memories R171). -/
def State.storeTime (s : State) (i : Nat) : Nat := 64 * s.fresh + i
/-- A private-class or immediate-class store of the executing thread also writes its own entries of the same
form (09_memories R168). -/
def State.updateEntries (s : State) (va : Word) (bs : List Byte) (i : Nat := 0) : State :=
  let who := s.ident s.cur
  let form := (formOf va).getD .loc
  s.mapEntries s.myId fun e =>
    if e.mine who && e.form == form && e.line.toNat == va.toNat / 64 * 64
    then e.update (s.storeTime i) (va.toNat % 64) bs else e
/-- The records that a core's spill area holds in all (09_memories R170, 04_registers R79). -/
def Core.spillRoom (k : Core) : Nat := bits k.phbuf.toNat 32 8 * 42
/-- The lowest free spill record (09_memories R170). -/
def Core.spillFree (k : Core) : Option Nat :=
  (List.range k.spillRoom).find? fun n => !k.spill.any fun e => e.1 == n
/-- Entry `e` becomes spill record `n`; the last 64 bytes of its page are 0 (09_memories R170). -/
def State.spillTo (s : State) (c n : Nat) (e : Entry) : State :=
  ((s.commitAt (s.spillAt c n) e.record).commitAt (s.spillAt c (n / 42 * 42) + 4032) (List.replicate 64 0)).modCore c fun k => { k with spill := k.spill ++ [(n, e)] }
/-- A new entry of core `c`: the oldest one is spilled where the 64 are in use; none where the spill area is
full too (09_memories R169, R170). -/
def State.addEntry (s : State) (c : Nat) (e : Entry) : Option State :=
  let k := s.core c
  if k.buffer.length < 64 then some (s.modCore c fun k => { k with buffer := k.buffer ++ [e] })
  else match k.buffer, k.spillFree with
    | old :: rest, some n => some ((s.modCore c fun k => { k with buffer := rest ++ [e] }).spillTo c n old)
    | _, _ => none
/-- A phase-class store: it merges into the thread's unmerged entry of the line and form, or makes an entry; it
traps PHASEFULL where there is no room (09_memories R169, R170; notes/assumptions/11). -/
def State.phaseStore (s : State) (va : Word) (da : Nat) (bs : List Byte) (i : Nat := 0) : Act State :=
  let who := s.ident s.cur
  let form := (formOf va).getD .loc
  let mine (e : Entry) : Bool := e.mine who && !e.merged && e.form == form && e.line.toNat == va.toNat / 64 * 64
  if s.ownEntries.any mine then
    .ok (s.mapEntries s.myId fun e => if mine e then e.stored (s.storeTime i) (va.toNat % 64) bs else e)
  else
    let e : Entry := { who, retired := false, form, line := BitVec.ofNat 64 (va.toNat / 64 * 64), da := da / 64 * 64,
                       mask := 0, data := 0, merged := false, inbound := false, left := none, at_ := [] }
    match s.addEntry s.myId (e.stored (s.storeTime i) (va.toNat % 64) bs) with
    | some t => .ok t
    | none => trap .phasefull va

/-! ### Event mode -/

/-- The units of an undo record (15_messages R279). -/
def UndoRec.units : UndoRec → Nat
  | .store .. => 1
  | .check .. => 11
/-- The words of an undo record (15_messages R279). -/
def UndoRec.words : UndoRec → List Word
  | .store e da old => [BitVec.ofNat 64 (2 ^ 60 + 2 ^ 56 * e.slot.val + da / 8 * 8), old]
  | .check e vrt _ x pc lvt p mb =>
    [BitVec.ofNat 64 (2 ^ 61 + 2 ^ 56 * e.slot.val + e.evid.toNat), vrt.setWidth 64] ++ x.toList ++
    [pc, lvt.setWidth 64, BitVec.ofNat 64 (p.toNat + 2 ^ 8 * mb.val), 0]
/-- The event of an undo record. -/
def UndoRec.event : UndoRec → Event
  | .store e _ _ => e
  | .check e _ _ _ _ _ _ _ => e
/-- The event that the executing thread began last. -/
def State.myEvent (s : State) : Event := { slot := s.cur.slot, part := s.me.part, evid := s.me.evid }
/-- Bits 23-3 of a log bound (04_registers R79). -/
def logBound (w : Word) : Nat := w.toNat % 2 ^ 24 / 8 * 8
/-- The units of the undo log in all, and the position after its newest record (15_messages R279). -/
def Core.undoRoom (k : Core) : Nat := (logBound k.ulogl - logBound k.ulogb) / 16
/-- The position after the newest record. -/
def Core.undoNext (k : Core) : Nat :=
  match k.undo.getLast? with | some (p, r) => p + r.units | none => k.undoAt
/-- The units in use. -/
def Core.undoUsed (k : Core) : Nat :=
  match k.undo with | (p, _) :: _ => k.undoNext - p | [] => 0
/-- The entries of the sent log in all (15_messages R281). -/
def Core.sentRoom (k : Core) : Nat := (logBound k.slogl - logBound k.slogb) / 32
/-- The position after the newest entry. -/
def Core.sentNext (k : Core) : Nat :=
  match k.sent.getLast? with | some (p, _) => p + 1 | none => k.sentAt
/-- The entries in use. -/
def Core.sentUsed (k : Core) : Nat :=
  match k.sent with | (p, _) :: _ => k.sentNext - p | [] => 0
/-- Whether a store of actions of core `c` has space for `n` more (15_messages R286, 14_queues R250). -/
def State.hasSpace (s : State) (c : Nat) (l : LogKind) (n : Nat) : Bool :=
  match l with
  | .escrow => decide ((s.die (dieOf c)).escrow.length + n ≤ 4096)
  | .undo => decide ((s.core c).undoUsed + n ≤ (s.core c).undoRoom)
  | .sent => decide ((s.core c).sentUsed + n ≤ (s.core c).sentRoom)
/-- Goes on where a store of actions has space for `n` more; otherwise the instruction waits, or traps LOGFULL
where the thread's own open event has LVT = GVT (15_messages R286). -/
def State.needSpace (s : State) (l : LogKind) (n : Nat) : Act Unit :=
  if s.hasSpace s.myId l n then .ok ()
  else if s.me.evo && s.me.lvt == s.myDie.gvt then
    trapSub .logfull (match l with | .escrow => 0 | .undo => 1 | .sent => 2) 0
  else waitFor s (.logSpace l n)
/-- The words of a record written into a log's ring, from unit `pos` of `room` units of `size` words each. -/
def logCells (base room size pos : Nat) : List Word → Nat → List (Nat × Byte)
  | [], _ => []
  | w :: t, i =>
    let u := (pos + i / size) % room
    cells (base + u * size * 8 + i % size * 8) (toBytes 8 w.toNat) ++ logCells base room size pos t (i + 1)
/-- A record is appended to the undo log of the executing core, which has room for it (15_messages R279). -/
def State.addUndo (s : State) (r : UndoRec) : State :=
  let k := s.myCore
  (s.commit (logCells (vaultBase s.myId + logBound k.ulogb) k.undoRoom 2 k.undoNext r.words 0)).modMyCore fun k =>
    { k with undo := k.undo ++ [(k.undoNext, r)], undoAt := k.undoNext + r.units }
/-- An entry is appended to the sent log of the executing core, which has room for it (15_messages R281). -/
def State.addSent (s : State) (r : SentRec) : State :=
  let k := s.myCore
  let ws := [r.h0, r.h1, r.desc, BitVec.ofNat 64 (r.by_.evid.toNat + 2 ^ 32 * r.by_.slot.val)]
  (s.commit (logCells (vaultBase s.myId + logBound k.slogb) k.sentRoom 4 k.sentNext ws 0)).modMyCore fun k =>
    { k with sent := k.sent ++ [(k.sentNext, r)], sentAt := k.sentNext + 1 }
/-- An Escrow entry of the executing thread, which has room for it (15_messages R280, R289). -/
def State.addEscrow (s : State) (act : EscAct) : State :=
  let t := s.me
  let e : EscEntry :=
    { owner := s.cur, lvt := if t.opt || t.evo then t.lvt else 0, score := s.cur.core, issue := s.myCore.escIssue, slot := s.cur.slot,
      evid := t.evid, pop := t.popid, part := t.part, act }
  (s.modMyCore fun k => { k with escIssue := k.escIssue + 1 }).modMyDie fun d => { d with escrow := d.escrow ++ [e] }

/-- One piece of a store: at most 8 bytes, aligned, at a translated address. -/
structure Piece where
  va    : Word
  da    : Nat
  bytes : List Byte

/-- Whether a piece lies in the state range captured for the open event (15_messages R279, R280), on this
package (notes/assumptions/12). -/
def State.inRange (s : State) (p : Piece) : Bool :=
  match s.me.range with
  | some (b, l) => decide (b.toNat ≤ p.va.toNat ∧ p.va.toNat + p.bytes.length ≤ l.toNat) && p.da / 2 ^ 43 == s.pkg
  | none => false
/-- The device lines that pieces touch, in the order in which they are first touched. -/
def lines : List Piece → List Nat
  | [] => []
  | p :: t => p.da / 64 * 64 :: (lines t).filter (· != p.da / 64 * 64)
/-- The Escrow action of the pieces that touch a line; a later piece wins (15_messages R280). -/
def lineAct (ps : List Piece) (line : Nat) : EscAct :=
  let e : Entry := { who := { pop := 0, thidx := 0, slot := 0 }, retired := false, form := .dev, line := 0, da := line,
                     mask := 0, data := 0, merged := false, inbound := false, left := none, at_ := [] }
  let e := (ps.filter fun p => p.da / 64 * 64 == line).foldl (fun e p => e.put (p.da % 64) p.bytes) e
  .store line e.mask e.data
/-- The stores of an instruction in an open event: undo records and committed writes in the state range, one
Escrow entry per line elsewhere (15_messages R280). A store that a block of control space forbids traps now. -/
def State.eventStore (s : State) (ps : List Piece) : Act State := do
  let inside := ps.filter s.inRange
  let outside := ps.filter fun p => !s.inRange p
  let words := inside.foldl (fun l p => if l.contains (p.da / 8 * 8) then l else l ++ [p.da / 8 * 8]) []
  outside.forM fun p => do
    if p.da / 2 ^ 43 = s.pkg && inCtl (p.da % 2 ^ 43) then
      match s.ctlStore s.cur p.va (p.da % 2 ^ 43) p.bytes.length (ofBytes p.bytes) with
      | .error (.trap c sub v) => .error (.trap c sub v)
      | _ => .ok ()
  s.needSpace .undo words.length
  s.needSpace .escrow (lines outside).length
  let t := words.foldl (fun t w => t.addUndo (.store s.myEvent w (t.word (w % 2 ^ 43)))) s
  let t := inside.foldl (fun t p => t.portWrite (p.da % 2 ^ 43) p.bytes) t
  .ok ((lines outside).foldl (fun t l => t.addEscrow (lineAct outside l)) t)

/-! ### Store classes -/

/-- Whether an address as issued lies in the thread's private range (09_memories R167, 04_registers R78). -/
def Slot.isPrivate (t : Slot) (va : Word) : Bool := decide (t.prvb.toNat ≤ va.toNat ∧ va.toNat < t.prvl.toNat)
/-- Whether an offset lies in a landing zone (09_memories R167, 13_graphs R248). -/
def State.inZone (s : State) (q : Nat) : Bool :=
  s.cores.any fun c => c.2.zones.toList.any fun z => z.v && decide (z.base ≤ q ∧ q < z.base + z.size)
/-- An immediate-class write of the executing thread at an address of this package: control space takes it by
its block's rule, memory at once, and the thread's own entries of the form with it (09_memories R167, R168). -/
def State.immStore (s : State) (va : Word) (q : Nat) (bs : List Byte) (i : Nat := 0) : Act State :=
  if inCtl q then s.ctlStore s.cur va q bs.length (ofBytes bs)
  else .ok ((s.portWrite q bs).updateEntries va bs i)
/-- The `i`-th piece of a store outside events, in its class; `imm` for `stp` (09_memories R167). DESIGN CHOICE: a word counts as
a ticket word from the `tkget` that names it to the `tkwait` that sees it called (notes/assumptions/70). -/
def State.storePiece (s : State) (imm : Bool) (p : Piece) (i : Nat := 0) : Act State :=
  let q := p.da % 2 ^ 43
  if p.da / 2 ^ 43 ≠ s.pkg then .ok (s.sendFabric s.issuer p.da 0 0 p.bytes false false false false)
  else if imm || s.me.isPrivate p.va || inCtl q || inRed q || s.inZone q || s.ticketWords.contains (q / 8 * 8)
  then s.immStore p.va q p.bytes i
  else s.phaseStore p.va p.da p.bytes i
/-- The stores of an instruction, in order (10_access R177, R179, R184; 09_memories R167). -/
def State.store (s : State) (imm : Bool) (ps : List Piece) : Act State := do
  ps.forM fun p => s.touchable p.va p.da p.bytes.length false
  if s.me.opt && s.me.evo then s.eventStore ps
  else match ps.zipIdx.foldlM (fun t p => t.storePiece imm p.1 p.2) s with
    | .error (.wait _ c) => waitFor s c
    | r => r

end Sys2Proof.Machine
end

