-- ==== Sys2Proof/Machine/Flags.lean ====
section
/-! DEFINITION. Flags and conditions: the conditions of CMP, CMPI and VCMP, and the five float flags
(06_scalar R106, 07_vector R125, 05_numbers R88). -/

namespace Sys2Proof.Machine

/-- Float flags as FFLAGS holds them: NX 0, UF 1, OF 2, DZ 3, NV 4 (04_registers R78). -/
abbrev Flags := BitVec 5
/-- Inexact. -/
abbrev NX : Flags := 0x01
/-- Underflow. -/
abbrev UF : Flags := 0x02
/-- Overflow. -/
abbrev OF : Flags := 0x04
/-- Divide by zero. -/
abbrev DZ : Flags := 0x08
/-- Invalid. -/
abbrev NV : Flags := 0x10

/-- The integer conditions (02_encoding R41). -/
inductive IntCond where
  | eq | ne | lt | ge | ltn | gen
  deriving DecidableEq, Repr

/-- A condition on two integers of one width: signed, or unsigned for the n forms (06_scalar R106). -/
def IntCond.holds {w : Nat} (c : IntCond) (a b : BitVec w) : Bool :=
  match c with
  | .eq => a == b
  | .ne => a != b
  | .lt => a.slt b
  | .ge => !a.slt b
  | .ltn => a.ult b
  | .gen => !a.ult b

/-- The float conditions of VCMP (07_vector R125). -/
inductive FloatCond where
  | eq | ne | lt | ge | unord | ord
  deriving DecidableEq, Repr

end Sys2Proof.Machine
end

