-- ==== Sys2Proof/Machine/Float.lean ====
section
/-! DEFINITION. Binary floating point: values, Round and the operations (02_encoding R49, 05_numbers R85-R91).
Values are exact: an integer times a power of two. A value that is not of that form is given by its leading
bits and a mark that more follow. -/

namespace Sys2Proof.Machine

/-- A binary interchange format: its precision and the width of its exponent field (02_encoding R49, 05_numbers R85). -/
structure FloatFmt where
  p  : Nat
  eb : Nat
  deriving DecidableEq, Repr

/-- f16. -/
def f16 : FloatFmt := { p := 11, eb := 5 }
/-- bf16. -/
def bf16 : FloatFmt := { p := 8, eb := 8 }
/-- f32. -/
def f32 : FloatFmt := { p := 24, eb := 8 }
/-- f64. -/
def f64 : FloatFmt := { p := 53, eb := 11 }
/-- The bits of a value of the format. -/
def FloatFmt.width (f : FloatFmt) : Nat := f.p + f.eb
/-- emax, which is also the bias (02_encoding R49). -/
def FloatFmt.emax (f : FloatFmt) : Int := 2 ^ (f.eb - 1) - 1
/-- emin (02_encoding R49). -/
def FloatFmt.emin (f : FloatFmt) : Int := 2 - 2 ^ (f.eb - 1)
/-- The weight of the last bit of a subnormal, as a power of two. -/
def FloatFmt.qmin (f : FloatFmt) : Int := f.emin - (f.p - 1 : Nat)
/-- The sign bit. -/
def FloatFmt.sign (f : FloatFmt) (neg : Bool) : Nat := neg.toNat * 2 ^ (f.width - 1)
/-- ±∞ (05_numbers R85). -/
def FloatFmt.inf (f : FloatFmt) (neg : Bool) : Nat := f.sign neg + (2 ^ f.eb - 1) * 2 ^ (f.p - 1)
/-- The canonical quiet NaN (05_numbers R85, R86). -/
def FloatFmt.nan (f : FloatFmt) : Nat := (2 ^ (f.eb + 1) - 1) * 2 ^ (f.p - 2)

/-- A float value: a NaN (signalling or quiet), an infinity, or (−1)^neg × m × 2^e. -/
inductive Fl where
  | nan (sig : Bool)
  | inf (neg : Bool)
  | fin (neg : Bool) (m : Nat) (e : Int)
  deriving DecidableEq, Repr

/-- The value that an encoding holds (05_numbers R85). -/
def FloatFmt.unpack (f : FloatFmt) (w : Nat) : Fl :=
  let neg := bits w (f.width - 1) 1 == 1
  let ex := bits w (f.p - 1) f.eb
  let fr := bits w 0 (f.p - 1)
  if ex = 2 ^ f.eb - 1 then
    if fr = 0 then .inf neg else .nan (bits fr (f.p - 2) 1 == 0)
  else if ex = 0 then .fin neg fr f.qmin
  else .fin neg (2 ^ (f.p - 1) + fr) (f.qmin + (ex - 1 : Nat))

/-- Whether a value is a NaN. -/
def Fl.isNan : Fl → Bool
  | .nan _ => true | _ => false
/-- Whether a value is a signalling NaN. -/
def Fl.isSig : Fl → Bool
  | .nan s => s | _ => false
/-- Whether a value is zero. -/
def Fl.isZero : Fl → Bool
  | .fin _ m _ => m == 0 | _ => false
/-- Whether the sign is negative; a NaN has none. -/
def Fl.neg : Fl → Bool
  | .nan _ => false | .inf n => n | .fin n _ _ => n
/-- The value with its sign inverted. -/
def Fl.negate : Fl → Fl
  | .nan s => .nan s | .inf n => .inf (!n) | .fin n m e => .fin (!n) m e
/-- The magnitude. -/
def Fl.abs : Fl → Fl
  | .nan s => .nan s | .inf _ => .inf false | .fin _ m e => .fin false m e

/-- The rounding modes (05_numbers R87). -/
inductive Mode where
  | rne | rtz | rup | rdn | rmm
  deriving DecidableEq, Repr
/-- The mode of FRM.MODE (04_registers R78). -/
def Mode.ofFrm : Nat → Mode
  | 0 => .rne | 1 => .rtz | 2 => .rup | 3 => .rdn | _ => .rmm

/-- RoundInt of (m + ε) × 2^−k, with 0 < ε < 1 where `more`, and whether the value was an integer
(02_encoding R49). -/
def roundShift (mode : Mode) (neg : Bool) (m : Nat) (more : Bool) (k : Nat) : Nat × Bool :=
  let i := m / 2 ^ k
  let r := m % 2 ^ k
  let exact := r == 0 && !more
  let half := compare (2 * r) (2 ^ k)          -- against one half, before ε
  let up : Bool := match mode with
    | .rne => half == .gt || (half == .eq && (more || i % 2 == 1))
    | .rmm => half == .gt || half == .eq
    | .rtz => false
    | .rup => !neg && !exact
    | .rdn => neg && !exact
  (if up && !exact then i + 1 else i, exact)
/-- RoundInt of (m + ε) × 2^e (02_encoding R49); ε is 0 where e is not negative. -/
def roundInt (mode : Mode) (neg : Bool) (m : Nat) (more : Bool) (e : Int) : Nat × Bool :=
  if 0 ≤ e then (m * 2 ^ e.toNat, !more) else roundShift mode neg m more (-e).toNat

/-- Round(x, fmt, mode) of (−1)^neg × (m + ε) × 2^e, m ≠ 0 or ε = 0, as an encoding and its flags
(02_encoding R49). -/
def round (f : FloatFmt) (mode : Mode) (neg : Bool) (m : Nat) (more : Bool) (e : Int) : Nat × Flags :=
  if m = 0 then (f.sign neg, 0) else
  let ex : Int := Nat.log2 m + e
  let q : Int := max ex f.emin - (f.p - 1 : Nat)
  let (i, exact) := roundInt mode neg m more (e - q)
  let nx : Flags := if exact then 0 else NX
  let qmax : Int := f.emax - (f.p - 1 : Nat)
  if q > qmax ∨ (q = qmax ∧ i ≥ 2 ^ f.p) then
    let toInf := mode == .rne || mode == .rmm || (mode == .rup && !neg) || (mode == .rdn && neg)
    (if toInf then f.inf neg else f.inf neg - 1, OF ||| NX)
  else
    let (j, _) := roundInt mode neg m more (e - (ex - (f.p - 1 : Nat)))
    let tiny : Bool := decide (ex < f.emin) && (decide (ex + 1 < f.emin) || decide (j < 2 ^ f.p))
    (f.sign neg + (q - f.qmin).toNat * 2 ^ (f.p - 1) + i, nx ||| (if !exact && tiny then UF else 0))
/-- Round of a value of the form m × 2^e. -/
def roundFl (f : FloatFmt) (mode : Mode) : Fl → Nat × Flags
  | .nan sig => (f.nan, if sig then NV else 0)
  | .inf n => (f.inf n, 0)
  | .fin n m e => round f mode n m false e

/-- A NaN result, with NV where an operand was a signalling NaN (05_numbers R86, R88). -/
def nanOf (f : FloatFmt) (ops : List Fl) : Nat × Flags := (f.nan, if ops.any Fl.isSig then NV else 0)

/-- The exact sum of two finite values as a signed integer and an exponent. -/
def sumFin (na : Bool) (ma : Nat) (ea : Int) (nb : Bool) (mb : Nat) (eb : Int) : Int × Int :=
  let e := min ea eb
  let a : Int := ma * 2 ^ (ea - e).toNat
  let b : Int := mb * 2 ^ (eb - e).toNat
  ((if na then -a else a) + (if nb then -b else b), e)
/-- The exact sum of two values; an exact zero sum is +0, −0 in RDN, and the common sign of like zeros
(05_numbers R86, R88). -/
def addFl (mode : Mode) (a b : Fl) : Except Flags Fl :=
  match a, b with
  | .nan _, _ | _, .nan _ => .error (if a.isSig || b.isSig then NV else 0)
  | .inf x, .inf y => if x = y then .ok (.inf x) else .error NV
  | .inf x, _ => .ok (.inf x)
  | _, .inf y => .ok (.inf y)
  | .fin na ma ea, .fin nb mb eb =>
    let (v, e) := sumFin na ma ea nb mb eb
    if v = 0 then
      if ma = 0 ∧ mb = 0 ∧ na = nb then .ok (.fin na 0 e) else .ok (.fin (mode == .rdn) 0 e)
    else .ok (.fin (decide (v < 0)) v.natAbs e)
/-- The exact product of two values (05_numbers R88). -/
def mulFl (a b : Fl) : Except Flags Fl :=
  match a, b with
  | .nan _, _ | _, .nan _ => .error (if a.isSig || b.isSig then NV else 0)
  | .inf x, y => if y.isZero then .error NV else .ok (.inf (x != y.neg))
  | x, .inf y => if x.isZero then .error NV else .ok (.inf (x.neg != y))
  | .fin na ma ea, .fin nb mb eb => .ok (.fin (na != nb) (ma * mb) (ea + eb))
/-- A rounded result, or the canonical NaN with its flags. -/
def settle (f : FloatFmt) (mode : Mode) : Except Flags Fl → Nat × Flags
  | .ok v => roundFl f mode v
  | .error fl => (f.nan, fl)

/-- Float addition (05_numbers R88). -/
def fadd (f : FloatFmt) (mode : Mode) (a b : Nat) : Nat × Flags := settle f mode (addFl mode (f.unpack a) (f.unpack b))
/-- Float subtraction. -/
def fsub (f : FloatFmt) (mode : Mode) (a b : Nat) : Nat × Flags :=
  settle f mode (addFl mode (f.unpack a) (f.unpack b).negate)
/-- Float multiplication. -/
def fmul (f : FloatFmt) (mode : Mode) (a b : Nat) : Nat × Flags := settle f mode (mulFl (f.unpack a) (f.unpack b))
/-- Fused multiply-add: one rounding; NV for ±0 × ±∞ also where the addend is a quiet NaN (05_numbers R88, R96). -/
def ffma (f : FloatFmt) (mode : Mode) (a b c : Nat) : Nat × Flags :=
  let x := f.unpack a
  let y := f.unpack b
  let z := f.unpack c
  if x.isSig || y.isSig || z.isSig then (f.nan, NV)
  else match mulFl x y with
    | .error fl => (f.nan, fl)
    | .ok v => settle f mode (addFl mode v z)

/-- The integer square root, bit by bit from bit `n − 1` down. -/
def isqrtFrom (v : Nat) : Nat → Nat → Nat
  | 0, r => r
  | n + 1, r => isqrtFrom v n (if (r + 2 ^ n) * (r + 2 ^ n) ≤ v then r + 2 ^ n else r)
/-- The integer square root. -/
def isqrt (v : Nat) : Nat := isqrtFrom v (Nat.log2 v / 2 + 1) 0

/-- Bits that a quotient or root is formed with before it is rounded. -/
def guardBits : Nat := 64
/-- Division (05_numbers R88). -/
def fdiv (f : FloatFmt) (mode : Mode) (a b : Nat) : Nat × Flags :=
  let x := f.unpack a
  let y := f.unpack b
  match x, y with
  | .nan _, _ | _, .nan _ => nanOf f [x, y]
  | .inf _, .inf _ => (f.nan, NV)
  | .inf n, _ => (f.inf (n != y.neg), 0)
  | _, .inf n => (f.sign (x.neg != n), 0)
  | .fin na ma ea, .fin nb mb eb =>
    if mb = 0 then if ma = 0 then (f.nan, NV) else (f.inf (na != nb), DZ)
    else
      let k := guardBits + Nat.log2 mb + 1
      round f mode (na != nb) (ma * 2 ^ k / mb) (ma * 2 ^ k % mb != 0) (ea - eb - k)
/-- Square root (05_numbers R88). -/
def fsqrt (f : FloatFmt) (mode : Mode) (a : Nat) : Nat × Flags :=
  match f.unpack a with
  | .nan s => nanOf f [.nan s]
  | .inf n => if n then (f.nan, NV) else (f.inf false, 0)
  | .fin n m e =>
    if m = 0 then (f.sign n, 0) else if n then (f.nan, NV)
    else
      let k : Nat := 2 * guardBits + (e % 2).toNat
      let r := isqrt (m * 2 ^ k)
      round f mode false r (r * r != m * 2 ^ k) ((e - k) / 2)
/-- Reciprocal (05_numbers R88). -/
def frcp (f : FloatFmt) (mode : Mode) (a : Nat) : Nat × Flags :=
  match f.unpack a with
  | .nan s => nanOf f [.nan s]
  | .inf n => (f.sign n, 0)
  | .fin n m e =>
    if m = 0 then (f.inf n, DZ)
    else
      let k := guardBits + Nat.log2 m + 1
      round f mode n (2 ^ k / m) (2 ^ k % m != 0) (-e - k)
/-- Reciprocal square root (05_numbers R88). -/
def frsqrt (f : FloatFmt) (mode : Mode) (a : Nat) : Nat × Flags :=
  match f.unpack a with
  | .nan s => nanOf f [.nan s]
  | .inf n => if n then (f.nan, NV) else (0, 0)
  | .fin n m e =>
    if m = 0 then (f.inf n, DZ) else if n then (f.nan, NV)
    else
      let o := (e % 2).toNat
      let mm := m * 2 ^ o
      let k := guardBits + Nat.log2 mm + 1
      let r := isqrt (2 ^ (2 * k) / mm)
      round f mode false r (r * r * mm != 2 ^ (2 * k)) (-((e - o) / 2) - k)

/-- Bits of the fractions that `exp2` and `log2` are computed with. The results lie further than that from
every rounding boundary of f32 unless they are exact. -/
def fracBits : Nat := 192
/-- 2^(b × 2^−n) × 2^192 for a fraction b × 2^−n below 1, its bits taken from the top: `root` is the factor of
the next bit. -/
def exp2Frac (b : Nat) : Nat → Nat → Nat → Nat
  | 0, acc, _ => acc
  | n + 1, acc, root =>
    exp2Frac b n (if bits b n 1 = 1 then acc * root / 2 ^ fracBits else acc) (isqrt (root * 2 ^ fracBits))
/-- 2^a (05_numbers R88): exact for an integer, else by its leading bits. -/
def fexp2 (f : FloatFmt) (mode : Mode) (a : Nat) : Nat × Flags :=
  match f.unpack a with
  | .nan s => nanOf f [.nan s]
  | .inf n => if n then (0, 0) else (f.inf false, 0)
  | .fin n m e =>
    let big : Int := 4 * (f.emax + f.p)
    if m = 0 then round f mode false 1 false 0
    else if Nat.log2 m + e < -60 then                           -- 1 + ε or 1 − ε
      if n then round f mode false (2 ^ 60 - 1) true (-60) else round f mode false (2 ^ 60) true (-60)
    else if Nat.log2 m + e > f.eb + 2 then                      -- far out of range
      round f mode false 1 true (if n then -big else big)
    else if 0 ≤ e then
      let v : Int := m * 2 ^ e.toNat
      round f mode false 1 false (if n then -v else v)
    else
      let k := (-e).toNat
      let v : Int := if n then -(m : Int) else m
      let whole : Int := v / (2 ^ k : Nat)
      let frac := (v % (2 ^ k : Nat)).toNat
      if frac = 0 then round f mode false 1 false whole
      else round f mode false (exp2Frac frac k (2 ^ fracBits) (isqrt (2 * 2 ^ (2 * fracBits)))) true (whole - fracBits)
/-- The next `n` bits of log2 of y × 2^−p, 1 ≤ y × 2^−p < 2, by repeated squaring. -/
def log2Bits (p : Nat) : Nat → Nat → Nat → Nat
  | 0, _, acc => acc
  | n + 1, y, acc =>
    let z := y * y / 2 ^ p
    if z ≥ 2 ^ (p + 1) then log2Bits p n (z / 2) (2 * acc + 1) else log2Bits p n z (2 * acc)
/-- log2 a (05_numbers R88): exact for a power of two, else by its leading bits. -/
def flog2 (f : FloatFmt) (mode : Mode) (a : Nat) : Nat × Flags :=
  match f.unpack a with
  | .nan s => nanOf f [.nan s]
  | .inf n => if n then (f.nan, NV) else (f.inf false, 0)
  | .fin n m e =>
    if m = 0 then (f.inf true, DZ) else if n then (f.nan, NV)
    else
      let l := Nat.log2 m
      let ex : Int := l + e
      if m = 2 ^ l then
        if ex = 0 then (0, 0) else round f mode (decide (ex < 0)) ex.natAbs false 0
      else
        let p := 2 * fracBits
        let fr := log2Bits p 112 (m * 2 ^ (p - l)) 0
        let v : Int := ex * (2 ^ 112 : Nat) + fr
        if v ≥ 0 then round f mode false v.toNat true (-112) else round f mode true (-v - 1).toNat true (-112)

/-- Whether a value is less than another, with −0 below +0 (05_numbers R89). -/
def Fl.less (a b : Fl) : Bool :=
  match a, b with
  | .inf x, .inf y => x && !y
  | .inf x, _ => x
  | _, .inf y => !y
  | .fin na ma ea, .fin nb mb eb =>
    let (v, _) := sumFin na ma ea (!nb) mb eb
    if v = 0 then na && !nb else decide (v < 0)
  | _, _ => false
/-- Whether two values are equal as numbers; −0 equals +0 (07_vector R125). -/
def Fl.same (a b : Fl) : Bool :=
  match a, b with
  | .inf x, .inf y => x == y
  | .fin na ma ea, .fin nb mb eb => (sumFin na ma ea (!nb) mb eb).1 == 0
  | _, _ => false
/-- Minimum (`low`) and maximum (05_numbers R89). -/
def fminmax (f : FloatFmt) (low : Bool) (a b : Nat) : Nat × Flags :=
  let x := f.unpack a
  let y := f.unpack b
  let fl : Flags := if x.isSig || y.isSig then NV else 0
  if x.isNan then (if y.isNan then f.nan else b, fl)
  else if y.isNan then (a, fl)
  else (if x.less y = low then a else b, fl)
/-- The sign bit cleared, or inverted; a NaN gives the canonical NaN (07_vector R120). -/
def fsign (f : FloatFmt) (clear : Bool) (a : Nat) : Nat × Flags :=
  let x := f.unpack a
  if x.isNan then nanOf f [x]
  else
    let mag := a % 2 ^ (f.width - 1)
    (if clear then mag else mag + f.sign (!x.neg), 0)
/-- The integral value under a mode; NX where `inexact` reports it (07_vector R120). DEDUCED: where
`vrint.f32` rounds a negative operand to zero the result is −0 (notes/assumptions/84). -/
def fintegral (f : FloatFmt) (mode : Mode) (inexact : Bool) (a : Nat) : Nat × Flags :=
  match f.unpack a with
  | .nan s => nanOf f [.nan s]
  | .inf _ => (a, 0)
  | .fin n m e =>
    let (i, exact) := roundInt mode n m false e
    if exact then (a, 0)
    else ((round f .rtz n i false 0).1, if inexact then NX else 0)
/-- A float condition and its flags (07_vector R125). -/
def fcmp (f : FloatFmt) (c : FloatCond) (a b : Nat) : Bool × Flags :=
  let x := f.unpack a
  let y := f.unpack b
  let nan := x.isNan || y.isNan
  let quiet : Flags := if x.isSig || y.isSig then NV else 0
  let loud : Flags := if nan then NV else 0
  let lt := x.less y && !x.same y
  match c with
  | .eq => (!nan && x.same y, quiet)
  | .ne => (nan || !x.same y, quiet)
  | .lt => (!nan && lt, loud)
  | .ge => (!nan && !lt, loud)
  | .unord => (nan, quiet)
  | .ord => (!nan, quiet)
/-- A conversion between float formats (05_numbers R90). -/
def fconv (g f : FloatFmt) (mode : Mode) (a : Nat) : Nat × Flags := roundFl f mode (g.unpack a)
/-- A conversion from an integer (05_numbers R90). -/
def fofInt (f : FloatFmt) (mode : Mode) (v : Int) : Nat × Flags :=
  if v = 0 then (0, 0) else round f mode (decide (v < 0)) v.natAbs false 0
/-- A conversion to an integer type with limits `lo` and `hi` (05_numbers R91). -/
def ftoInt (f : FloatFmt) (mode : Mode) (lo hi : Int) (a : Nat) : Int × Flags :=
  match f.unpack a with
  | .nan _ => (0, NV)
  | .inf n => (if n then lo else hi, NV)
  | .fin n m e =>
    let (i, exact) := roundInt mode n m false e
    let v : Int := if n then -(i : Int) else i
    if v < lo then (lo, NV) else if v > hi then (hi, NV) else (v, if exact then 0 else NX)

end Sys2Proof.Machine
end

