-- ==== Sys2Proof/Machine/Block.lean ====
section
/-! DEFINITION. The PS block formats: reading, quantisation and `baddq` (05_numbers R92-R94). A block is the
number that its bytes spell. -/

namespace Sys2Proof.Machine

/-- Element `i` of a block with `m` magnitude bits (05_numbers R92, R93). -/
def psElem (m block i : Nat) : Fl :=
  let e := bits block 0 8
  if e = 255 then .nan false
  else
    let mag := bits block (16 + (m + 1) * i) m
    if mag = 0 then .fin false 0 0
    else .fin (bits block (16 + (m + 1) * i + m) 1 == 1) mag ((e : Int) - 127 - (m - 1 : Nat) - bits block (8 + i / 2) 1)
/-- The sixteen elements of a block. -/
def psElems (m block : Nat) : List Fl := (List.range 16).map (psElem m block)

/-- RNE(|x| / 2^q), with an infinity above every number (05_numbers R94). -/
def rneMag (x : Fl) (q : Int) : Option Nat :=
  match x with
  | .fin _ k e => some (roundInt .rne false k false (e - q)).1
  | _ => none
/-- The exponent of s(E) (05_numbers R94). -/
def psScale (m e : Nat) : Int := (e : Int) - 127 - (m - 1 : Nat)
/-- The magnitude fits in `m` bits at scale 2^q. -/
def psFits (m : Nat) (q : Int) (x : Fl) : Bool :=
  match rneMag x q with | some k => decide (k ≤ 2 ^ m - 1) | none => false
/-- The block that sixteen exact values quantise to, and whether it saturates (05_numbers R94). -/
def quantise (m : Nat) (xs : List Fl) : Nat × Bool :=
  if xs.any Fl.isNan then (255, false)
  else if xs.all Fl.isZero then (0, false)
  else
    let found := (List.range 254).find? fun i => xs.all (psFits m (psScale m (i + 1)))
    let e := match found with | some i => i + 1 | none => 254
    let at_ (i : Nat) : Fl := xs.getD i (.fin false 0 0)
    let pe (j : Nat) : Nat :=
      (psFits m (psScale m e - 1) (at_ (2 * j)) && psFits m (psScale m e - 1) (at_ (2 * j + 1))).toNat
    let code (i : Nat) : Nat :=
      let mag := match rneMag (at_ i) (psScale m e - pe (i / 2)) with | some k => min k (2 ^ m - 1) | none => 2 ^ m - 1
      mag + (if (at_ i).neg && mag != 0 then 2 ^ m else 0)
    (e + ((List.range 8).map fun j => pe j * 2 ^ (8 + j)).sum +
      ((List.range 16).map fun i => code i * 2 ^ (16 + (m + 1) * i)).sum, found.isNone)
/-- `baddq`: the exact sums of corresponding elements, quantised once (05_numbers R94). -/
def baddBlocks (m a b : Nat) : Nat × Bool :=
  quantise m ((List.range 16).map fun i =>
    match addFl .rne (psElem m a i) (psElem m b i) with | .ok v => v | .error _ => .nan false)
/-- An element as an f32, exact (05_numbers R93). -/
def psToF32 (x : Fl) : Nat := (roundFl f32 .rne x).1

end Sys2Proof.Machine
end

