-- ==== Sys2Proof/Machine/Crypto.lean ====
section
/-! DEFINITION. The published algorithms that the spec names: AES-256 (FIPS 197) in GCM (NIST SP 800-38D),
SHA-256 (FIPS 180-4) and CRC-32C (18_tables R318, 20_counters R343, 13_graphs R247, 11_matrix R222). Blocks are
numbers whose most significant byte comes first. -/

namespace Sys2Proof.Machine

/-- The number that bytes spell, the first most significant. -/
def ofBytesBE (bs : List Byte) : Nat := bs.foldl (fun a b => 256 * a + b.toNat) 0
/-- The `n` bytes of a number, the most significant first. -/
def toBytesBE (n v : Nat) : List Byte := (toBytes n v).reverse

/-! ### AES-256 -/

/-- The S-box: byte `i` of the number is its value at `i`. -/
def sboxTable : Nat :=
  0x16bb54b00f2d99416842e6bf0d89a18cdf2855cee9871e9b948ed9691198f8e19e1dc186b95735610ef6034866b53e708a8bbd4b1f74dde8c6b4a61c2e2578ba08ae7a65eaf4566ca94ed58d6d37c8e779e4959162acd3c25c2406490a3a32e0db0b5ede14b8ee4688902a22dc4f816073195d643d7ea7c41744975fec130ccdd2f3ff1021dab6bcf5389d928f40a351a89f3c507f02f94585334d43fbaaefd0cf584c4a39becb6a5bb1fc20ed00d153842fe329b3d63b52a05a6e1b1a2c830975b227ebe28012079a059618c323c7041531d871f1e5a534ccf73f362693fdb7c072a49cafa2d4adf04759fa7dc982ca76abd7fe2b670130c56f6bf27b777c63
/-- The S-box at a byte. -/
def sbox (x : Nat) : Nat := bits sboxTable (8 * x) 8
/-- Multiplication by x in the field of AES. -/
def xtime (x : Nat) : Nat := if x < 128 then 2 * x else Nat.xor (2 * x - 256) 0x1B
/-- The S-box over the four bytes of a word. -/
def subWord (w : Nat) : Nat :=
  sbox (bits w 0 8) + 2 ^ 8 * sbox (bits w 8 8) + 2 ^ 16 * sbox (bits w 16 8) + 2 ^ 24 * sbox (bits w 24 8)
/-- The round constant of a multiple of the key length. -/
def rcon : Nat → Nat
  | 0 => 1 | n + 1 => xtime (rcon n)
/-- The words of the key schedule that follow the given ones, newest first, `n` more. -/
def keyWords : Nat → Nat → List Nat → List Nat
  | 0, _, ws => ws
  | n + 1, i, ws =>
    let t := ws.headD 0
    let t := if i % 8 = 0 then Nat.xor (subWord (t % 2 ^ 24 * 256 + t / 2 ^ 24)) (rcon (i / 8 - 1) * 2 ^ 24)
      else if i % 8 = 4 then subWord t else t
    keyWords n (i + 1) (Nat.xor (ws.getD 7 0) t :: ws)
/-- The fifteen round keys of a 256-bit key. -/
def roundKeys (key : Nat) : List Nat :=
  let first := (List.range 8).map fun i => bits key (32 * i) 32
  let ws := (keyWords 52 8 first).reverse
  (List.range 15).map fun r =>
    ((List.range 4).map fun j => ws.getD (4 * r + j) 0 * 2 ^ (32 * (3 - j))).sum
/-- Byte `i` of a block, the first most significant. -/
def blockByte (b i : Nat) : Nat := bits b (8 * (15 - i)) 8
/-- SubBytes and ShiftRows. -/
def subShift (b : Nat) : Nat :=
  ((List.range 16).map fun i => sbox (blockByte b ((i + 4 * (i % 4)) % 16)) * 2 ^ (8 * (15 - i))).sum
/-- MixColumns. -/
def mixColumns (b : Nat) : Nat :=
  ((List.range 16).map fun i =>
    let c := i / 4 * 4
    let at_ (k : Nat) := blockByte b (c + (i + k) % 4)
    Nat.xor (Nat.xor (xtime (at_ 0)) (Nat.xor (xtime (at_ 1)) (at_ 1))) (Nat.xor (at_ 2) (at_ 3)) * 2 ^ (8 * (15 - i))).sum
/-- AES-256 of one block under its round keys. -/
def aesBlock (keys : List Nat) (b : Nat) : Nat :=
  match keys with
  | [] => b
  | k :: rest =>
    let b := (rest.take 13).foldl (fun b k => Nat.xor (mixColumns (subShift b)) k) (Nat.xor b k)
    Nat.xor (subShift b) (rest.getD 13 0)

/-! ### GCM -/

/-- The product of GCM's field, from bit `n − 1` of `x` down. -/
def gcmMulFrom (x : Nat) : Nat → Nat → Nat → Nat
  | 0, _, z => z
  | n + 1, v, z =>
    gcmMulFrom x n (if v % 2 = 1 then Nat.xor (v / 2) (0xE1 * 2 ^ 120) else v / 2)
      (if bits x n 1 = 1 then Nat.xor z v else z)
/-- The product of GCM's field. -/
def gcmMul (x y : Nat) : Nat := gcmMulFrom x 128 y 0
/-- The 16-byte blocks of bytes, the last filled with zeros; `n` bounds their count. -/
def blocks16 : Nat → List Byte → List Nat
  | 0, _ => []
  | n + 1, bs => if bs.isEmpty then [] else
      ofBytesBE (bs.take 16 ++ List.replicate (16 - (bs.take 16).length) 0) :: blocks16 n (bs.drop 16)
/-- GHASH of the additional data and the ciphertext. -/
def ghash (h : Nat) (aad ct : List Byte) : Nat :=
  let bs := blocks16 (aad.length + 1) aad ++ blocks16 (ct.length + 1) ct ++ [aad.length * 8 * 2 ^ 64 + ct.length * 8]
  bs.foldl (fun y b => gcmMul (Nat.xor y b) h) 0
/-- Counter mode from a counter block, over the blocks of a text. -/
def ctr (keys : List Nat) : Nat → Nat → List Byte → List Byte
  | 0, _, _ => []
  | n + 1, c, bs =>
    if bs.isEmpty then [] else
      let ks := toBytesBE 16 (aesBlock keys c)
      (bs.take 16).zipWith (fun a b => a ^^^ b) ks ++ ctr keys n (c / 2 ^ 32 * 2 ^ 32 + (c + 1) % 2 ^ 32) (bs.drop 16)
/-- AES-256-GCM with a 96-bit IV: the ciphertext of a text, and its tag. -/
def gcmSeal (key iv : Nat) (aad text : List Byte) : List Byte × List Byte :=
  let keys := roundKeys key
  let j := iv * 2 ^ 32 + 1
  let ct := ctr keys (text.length + 1) (j + 1) text
  (ct, toBytesBE 16 (Nat.xor (ghash (aesBlock keys 0) aad ct) (aesBlock keys j)))
/-- The text of a ciphertext whose tag verifies. -/
def gcmOpen (key iv : Nat) (aad ct tag : List Byte) : Option (List Byte) :=
  let keys := roundKeys key
  let j := iv * 2 ^ 32 + 1
  if tag = toBytesBE 16 (Nat.xor (ghash (aesBlock keys 0) aad ct) (aesBlock keys j)) then
    some (ctr keys (ct.length + 1) (j + 1) ct)
  else none
/-- A key held as a 256-bit register whose byte 0 is the first byte of the key, as the number AES reads. -/
def keyNumber (k : BitVec 256) : Nat := ofBytesBE (toBytes 32 k.toNat)

/-! ### SHA-256 -/

/-- The round constants: 32 bits each, the first lowest. -/
def shaK : Nat :=
  0xc67178f2bef9a3f7a4506ceb90befffa8cc7020884c8781478a5636f748f82ee682e6ff35b9cca4f4ed8aa4a391c0cb334b0bcb52748774c1e376c0819a4c116106aa070f40e3585d6990624d192e819c76c51a3c24b8b70a81a664ba2bfe8a192722c8581c2c92e766a0abb650a735453380d134d2c6dfc2e1b213827b70a851429296706ca6351d5a79147c6e00bf3bf597fc7b00327c8a831c66d983e515276f988da5cb0a9dc4a7484aa2de92c6f240ca1cc0fc19dc6efbe4786e49b69c1c19bf1749bdc06a780deb1fe72be5d74550c7dc3243185be12835b01d807aa98ab1c5ed5923f82a459f111f13956c25be9b5dba5b5c0fbcf71374491428a2f98
/-- The initial hash words: 32 bits each, the first lowest. -/
def shaH : Nat :=
  0x5be0cd191f83d9ab9b05688c510e527fa54ff53a3c6ef372bb67ae856a09e667
/-- A right rotation of 32 bits. -/
def rotr (x n : Nat) : Nat := x / 2 ^ n + x % 2 ^ n * 2 ^ (32 - n)
/-- The message schedule: the words so far, newest first, and `n` more. -/
def shaWords : Nat → List Nat → List Nat
  | 0, ws => ws
  | n + 1, ws =>
    let a := ws.getD 14 0
    let b := ws.getD 1 0
    let s0 := Nat.xor (Nat.xor (rotr a 7) (rotr a 18)) (a / 2 ^ 3)
    let s1 := Nat.xor (Nat.xor (rotr b 17) (rotr b 19)) (b / 2 ^ 10)
    shaWords n ((ws.getD 15 0 + s0 + ws.getD 6 0 + s1) % 2 ^ 32 :: ws)
/-- One round of the compression function. -/
def shaRound (st : List Nat) (kw : Nat) : List Nat :=
  match st with
  | [a, b, c, d, e, f, g, h] =>
    let s1 := Nat.xor (Nat.xor (rotr e 6) (rotr e 11)) (rotr e 25)
    let ch := Nat.xor (Nat.land e f) (Nat.land (2 ^ 32 - 1 - e) g)
    let t1 := h + s1 + ch + kw
    let s0 := Nat.xor (Nat.xor (rotr a 2) (rotr a 13)) (rotr a 22)
    let maj := Nat.xor (Nat.xor (Nat.land a b) (Nat.land a c)) (Nat.land b c)
    [(t1 + s0 + maj) % 2 ^ 32, a, b, c, (d + t1) % 2 ^ 32, e, f, g]
  | st => st
/-- The compression of one 64-byte block. -/
def shaBlock (st : List Nat) (block : List Byte) : List Nat :=
  let ws := ((List.range 16).map fun i => ofBytesBE (block.drop (4 * i) |>.take 4)).reverse
  let ks := (shaWords 48 ws).reverse
  let out := (List.range 64).foldl (fun s i => shaRound s (bits shaK (32 * i) 32 + ks.getD i 0)) st
  st.zipWith (fun a b => (a + b) % 2 ^ 32) out
/-- The compression of the 64-byte blocks of bytes; `n` bounds their count. -/
def shaBlocks : Nat → List Nat → List Byte → List Nat
  | 0, st, _ => st
  | n + 1, st, bs => if bs.isEmpty then st else shaBlocks n (shaBlock st (bs.take 64)) (bs.drop 64)
/-- SHA-256. -/
def sha256 (bs : List Byte) : List Byte :=
  let pad := (119 - bs.length % 64) % 64
  let text := bs ++ [0x80] ++ List.replicate pad 0 ++ toBytesBE 8 (8 * bs.length)
  (shaBlocks (text.length + 1) ((List.range 8).map fun i => bits shaH (32 * i) 32) text).flatMap (toBytesBE 4)

/-! ### CRC-32C -/

/-- `n` steps of the reflected division by the Castagnoli polynomial. -/
def crcSteps : Nat → Nat → Nat
  | 0, c => c
  | n + 1, c => crcSteps n (if c % 2 = 1 then Nat.xor (c / 2) 0x82F63B78 else c / 2)
/-- CRC-32C: reflected, initial value and final complement all ones. -/
def crc32c (bs : List Byte) : Nat :=
  Nat.xor (bs.foldl (fun c b => crcSteps 8 (Nat.xor c b.toNat)) 0xFFFFFFFF) 0xFFFFFFFF

end Sys2Proof.Machine
end

