-- ==== Sys2Proof/Machine/Operands.lean ====
section
/-! DEFINITION. Every operand form: operand b, the four address forms of format M, parameter blocks, vector
register checks, lanes and the masks that govern them (02_encoding R34-R40, R45, R46; 04_registers R72). -/

namespace Sys2Proof.Machine

/-- OperandB(): K(k8) or X[xb] (02_encoding R35, R48). -/
def State.opB (s : State) : OpB → Act Word
  | .reg x => .ok (s.x x)
  | .k n => s.k n.val
/-- The effective address of format M, and the base register's new value for the `[xa]+` form (02_encoding R36). -/
def State.memAddr (s : State) (m : MemForm) (size : Nat) : Act (Word × Option (XReg × Word)) :=
  match m with
  | .off xa o => .ok (s.x xa + o.signExtend 64 * BitVec.ofNat 64 size, none)
  | .post xa o => .ok (s.x xa, some (xa, s.x xa + o.signExtend 64 * BitVec.ofNat 64 size))
  | .idx xa xi => .ok (s.x xa + s.x xi * BitVec.ofNat 64 size, none)
  | .kAddr n => do .ok (← s.k n.val, none)
/-- The base update of a `[xa]+` access (02_encoding R36, 10_access R179). -/
def State.setBase (s : State) : Option (XReg × Word) → State
  | none => s
  | some (r, v) => s.setX r v
/-- The parameter block K(k8) to K(k8 + 3), captured whole, with the copy that the core may give again (02_encoding
R39, R52). -/
def State.params (s : State) (k : KIdx) : Act ((Nat × Nat × Nat × Nat) × State) := do
  let da := s.localAddr s.myId s.tenant (8 * k.val)
  s.touchable (BitVec.ofNat 64 (8 * k.val)) da 32 true
  let v := ofBytes (s.captured (da % 2 ^ 43) 32)
  .ok ((bits v 0 64, bits v 64 64, bits v 128 64, bits v 192 64), s.keepCapture (da % 2 ^ 43) 32)

/-- The check of operand resources: the first of the named vector registers, listed from the field that sits
highest in the word, at or above VCNT traps VREG (02_encoding R34, R46). -/
def State.vregs (s : State) (rs : List VReg) : Act Unit :=
  match rs.find? fun r => decide (s.me.vcnt ≤ r.val) with
  | some r => trap .vreg (BitVec.ofNat 64 r.val)
  | none => .ok ()

/-- Lane `i` of `w` bits (04_registers R72). -/
def laneOf (w : Nat) (v : Vec) (i : Nat) : Nat := bits v.toNat (w * i) w
/-- The register whose lanes of `w` bits are the listed numbers, the first lowest. -/
def ofLanes (w : Nat) (ls : List Nat) : Vec := BitVec.ofNat 1024 (ls.foldr (fun l a => l % 2 ^ w + 2 ^ w * a) 0)
/-- The lanes of `w` bits of a register. -/
def lanesOf (w : Nat) (v : Vec) : List Nat := (List.range (1024 / w)).map (laneOf w v)
/-- Whether a mask governs lane `i` of the `w`-bit view on (04_registers R72). -/
def governs (w : Nat) (m : BitVec 32) (i : Nat) : Bool := m.getLsbD (i * w / 32)
/-- A lane-wise result: governed lanes take `r i`, the others keep their value; with the flags of the governed
lanes (07_vector R118). -/
def mapLanes (w : Nat) (m : BitVec 32) (old : Vec) (r : Nat → Nat × Flags) : Vec × Flags :=
  let n := 1024 / w
  (ofLanes w ((List.range n).map fun i => if governs w m i then (r i).1 else laneOf w old i),
   (List.range n).foldl (fun f i => if governs w m i then f ||| (r i).2 else f) 0)
/-- The bytes of a register from byte `i`. -/
def vecBytes (v : Vec) (i n : Nat) : List Byte := toBytes n (v.toNat / 2 ^ (8 * i))
/-- A register with `n` bytes from byte `i` replaced by those of a number. -/
def Vec.setBytes (v : Vec) (i n x : Nat) : Vec :=
  BitVec.ofNat 1024 (v.toNat - bits v.toNat (8 * i) (8 * n) * 2 ^ (8 * i) + x % 2 ^ (8 * n) * 2 ^ (8 * i))

end Sys2Proof.Machine
end

