-- ==== Sys2Proof/Machine/Vector.lean ====
section
/-! DEFINITION. The lane-wise vector instructions, fused multiply-add and compares: VI, VF, VH, VD, VFMA and
VCMP (07_vector R115-R125). -/

namespace Sys2Proof.Machine

/-! ### Shared operations -/

/-- The rounding mode of the thread (04_registers R78). -/
def State.mode (s : State) : Mode := Mode.ofFrm s.me.frm.toNat
/-- An instruction that writes the governed lanes of V[vd], and its flags (07_vector R118). -/
def laneWrite (w : Nat) (d : VReg) (m : MReg) (s : State) (r : Nat → Nat × Flags) : State :=
  let p := mapLanes w (s.mask m) (s.v d) r
  (s.setV d p.1).orFlags p.2
/-- A lane-wise operation on two registers (07_vector R118). -/
def lanes2 (w : Nat) (s : State) (d a b : VReg) (m : MReg) (f : Nat → Nat → Nat × Flags) : Out :=
  seq s (do
    s.vregs [d, a, b]
    .ok (laneWrite w d m s fun i => f (laneOf w (s.v a) i) (laneOf w (s.v b) i)))
/-- A lane-wise operation on one register (07_vector R118). -/
def lanes1 (w : Nat) (s : State) (d a : VReg) (m : MReg) (f : Nat → Nat × Flags) : Out :=
  seq s (do
    s.vregs [d, a]
    .ok (laneWrite w d m s fun i => f (laneOf w (s.v a) i)))
/-- The format of a half lane (07_vector R121). -/
def halfFloat : HalfFmt → FloatFmt
  | .f16 => f16 | .bf16 => bf16
/-- A lane operation on integers of `w` bits, which sets no flag. -/
def intOp (w : Nat) (f : BitVec w → BitVec w → BitVec w) (a b : Nat) : Nat × Flags :=
  ((f (BitVec.ofNat w a) (BitVec.ofNat w b)).toNat, 0)
/-- Saturate(x, i32) (05_numbers R84). -/
def saturate32 (x : Int) : Int := if x < -2147483648 then -2147483648 else if x > 2147483647 then 2147483647 else x
/-- A 64-bit lane operation: f64, or i64 (07_vector R122). -/
def doubleOp (t : DoubleFmt) (f : Nat → Nat → Nat × Flags) (g : BitVec 64 → BitVec 64 → BitVec 64) (a b : Nat) : Nat × Flags :=
  match t with
  | .f64 => f a b
  | .i64 => intOp 64 g a b

/-! ### VI -/

/-- `vadd.i32`: a + b (R119). -/
def execVaddI32 (d a b : VReg) (m : MReg) (s : State) : Out :=
  lanes2 32 s d a b m (intOp 32 fun a b => a + b)
/-- `vsub.i32`: a − b (R119). -/
def execVsubI32 (d a b : VReg) (m : MReg) (s : State) : Out :=
  lanes2 32 s d a b m (intOp 32 fun a b => a - b)
/-- `vmul.i32`: bits 31-0 of a × b (R119). -/
def execVmulI32 (d a b : VReg) (m : MReg) (s : State) : Out :=
  lanes2 32 s d a b m (intOp 32 fun a b => a * b)
/-- `vmulh.i32`: bits 63-32 of a × b as i32 (R119). -/
def execVmulhI32 (d a b : VReg) (m : MReg) (s : State) : Out :=
  lanes2 32 s d a b m (intOp 32 fun a b => (a.signExtend 64 * b.signExtend 64).extractLsb' 32 32)
/-- `vmin.i32`: the lesser as i32 (R119). -/
def execVminI32 (d a b : VReg) (m : MReg) (s : State) : Out :=
  lanes2 32 s d a b m (intOp 32 fun a b => if a.slt b then a else b)
/-- `vmax.i32`: the greater as i32 (R119). -/
def execVmaxI32 (d a b : VReg) (m : MReg) (s : State) : Out :=
  lanes2 32 s d a b m (intOp 32 fun a b => if a.slt b then b else a)
/-- `vminn.i32`: the lesser as n32 (R119). -/
def execVminnI32 (d a b : VReg) (m : MReg) (s : State) : Out :=
  lanes2 32 s d a b m (intOp 32 fun a b => if a.ult b then a else b)
/-- `vmaxn.i32`: the greater as n32 (R119). -/
def execVmaxnI32 (d a b : VReg) (m : MReg) (s : State) : Out :=
  lanes2 32 s d a b m (intOp 32 fun a b => if a.ult b then b else a)
/-- `vand.i32`: a AND b (R119). -/
def execVandI32 (d a b : VReg) (m : MReg) (s : State) : Out :=
  lanes2 32 s d a b m (intOp 32 fun a b => a &&& b)
/-- `vor.i32`: a OR b (R119). -/
def execVorI32 (d a b : VReg) (m : MReg) (s : State) : Out :=
  lanes2 32 s d a b m (intOp 32 fun a b => a ||| b)
/-- `vxor.i32`: a XOR b (R119). -/
def execVxorI32 (d a b : VReg) (m : MReg) (s : State) : Out :=
  lanes2 32 s d a b m (intOp 32 fun a b => a ^^^ b)
/-- `vshl.i32`: a shifted left by b mod 32 (R119). -/
def execVshlI32 (d a b : VReg) (m : MReg) (s : State) : Out :=
  lanes2 32 s d a b m (intOp 32 fun a b => a <<< (b.toNat % 32))
/-- `vshr.i32`: a shifted right by b mod 32, zeros in (R119). -/
def execVshrI32 (d a b : VReg) (m : MReg) (s : State) : Out :=
  lanes2 32 s d a b m (intOp 32 fun a b => a >>> (b.toNat % 32))
/-- `vsar.i32`: a shifted right by b mod 32, copies of bit 31 in (R119). -/
def execVsarI32 (d a b : VReg) (m : MReg) (s : State) : Out :=
  lanes2 32 s d a b m (intOp 32 fun a b => a.sshiftRight (b.toNat % 32))
/-- `vadds.i32`: a + b saturated (R119). -/
def execVaddsI32 (d a b : VReg) (m : MReg) (s : State) : Out :=
  lanes2 32 s d a b m (intOp 32 fun a b => BitVec.ofInt 32 (saturate32 (a.toInt + b.toInt)))
/-- `vsubs.i32`: a − b saturated (R119). -/
def execVsubsI32 (d a b : VReg) (m : MReg) (s : State) : Out :=
  lanes2 32 s d a b m (intOp 32 fun a b => BitVec.ofInt 32 (saturate32 (a.toInt - b.toInt)))
/-- `vabs.i32`: |a|; −2^31 gives −2^31 (R119). -/
def execVabsI32 (d a : VReg) (m : MReg) (s : State) : Out :=
  lanes1 32 s d a m fun v => intOp 32 (fun a _ => if a.msb then -a else a) v v
/-- `vneg.i32`: −a; −2^31 gives −2^31 (R119). -/
def execVnegI32 (d a : VReg) (m : MReg) (s : State) : Out :=
  lanes1 32 s d a m fun v => intOp 32 (fun a _ => -a) v v

/-! ### VF -/

/-- `vadd.f32`: Round of a + b (R120). -/
def execVaddF32 (d a b : VReg) (m : MReg) (s : State) : Out := lanes2 32 s d a b m (fadd f32 s.mode)
/-- `vsub.f32`: Round of a − b (R120). -/
def execVsubF32 (d a b : VReg) (m : MReg) (s : State) : Out := lanes2 32 s d a b m (fsub f32 s.mode)
/-- `vmul.f32`: Round of a × b (R120). -/
def execVmulF32 (d a b : VReg) (m : MReg) (s : State) : Out := lanes2 32 s d a b m (fmul f32 s.mode)
/-- `vdiv.f32`: Round of a ÷ b (R120). -/
def execVdivF32 (d a b : VReg) (m : MReg) (s : State) : Out := lanes2 32 s d a b m (fdiv f32 s.mode)
/-- `vmin.f32`: minimumNumber (R89) (R120). -/
def execVminF32 (d a b : VReg) (m : MReg) (s : State) : Out := lanes2 32 s d a b m (fminmax f32 true)
/-- `vmax.f32`: maximumNumber (R89) (R120). -/
def execVmaxF32 (d a b : VReg) (m : MReg) (s : State) : Out := lanes2 32 s d a b m (fminmax f32 false)
/-- `vsqrt.f32`: Round of the square root (R120). -/
def execVsqrtF32 (d a : VReg) (m : MReg) (s : State) : Out := lanes1 32 s d a m (fsqrt f32 s.mode)
/-- `vabs.f32`: a with its sign cleared (R120). -/
def execVabsF32 (d a : VReg) (m : MReg) (s : State) : Out := lanes1 32 s d a m (fsign f32 true)
/-- `vneg.f32`: a with its sign inverted (R120). -/
def execVnegF32 (d a : VReg) (m : MReg) (s : State) : Out := lanes1 32 s d a m (fsign f32 false)
/-- `vrcp.f32`: Round of 1/a (R120). -/
def execVrcpF32 (d a : VReg) (m : MReg) (s : State) : Out := lanes1 32 s d a m (frcp f32 s.mode)
/-- `vrsqrt.f32`: Round of 1/√a (R120). -/
def execVrsqrtF32 (d a : VReg) (m : MReg) (s : State) : Out := lanes1 32 s d a m (frsqrt f32 s.mode)
/-- `vexp2.f32`: Round of 2^a (R120). -/
def execVexp2F32 (d a : VReg) (m : MReg) (s : State) : Out := lanes1 32 s d a m (fexp2 f32 s.mode)
/-- `vlog2.f32`: Round of log2 a (R120). -/
def execVlog2F32 (d a : VReg) (m : MReg) (s : State) : Out := lanes1 32 s d a m (flog2 f32 s.mode)
/-- `vfloor.f32`: the integral value toward −∞ (R120). -/
def execVfloorF32 (d a : VReg) (m : MReg) (s : State) : Out := lanes1 32 s d a m (fintegral f32 .rdn false)
/-- `vceil.f32`: the integral value toward +∞ (R120). -/
def execVceilF32 (d a : VReg) (m : MReg) (s : State) : Out := lanes1 32 s d a m (fintegral f32 .rup false)
/-- `vrint.f32`: the integral value under FRM (R120). -/
def execVrintF32 (d a : VReg) (m : MReg) (s : State) : Out := lanes1 32 s d a m (fintegral f32 s.mode true)

/-! ### VH -/

/-- `vadd.f16`, `vadd.bf16`: Round of a + b (R121). -/
def execVaddH (d a b : VReg) (m : MReg) (t : HalfFmt) (s : State) : Out := lanes2 16 s d a b m (fadd (halfFloat t) s.mode)
/-- `vsub.f16`, `vsub.bf16`: Round of a − b (R121). -/
def execVsubH (d a b : VReg) (m : MReg) (t : HalfFmt) (s : State) : Out := lanes2 16 s d a b m (fsub (halfFloat t) s.mode)
/-- `vmul.f16`, `vmul.bf16`: Round of a × b (R121). -/
def execVmulH (d a b : VReg) (m : MReg) (t : HalfFmt) (s : State) : Out := lanes2 16 s d a b m (fmul (halfFloat t) s.mode)
/-- `vmin.f16`, `vmin.bf16`: minimumNumber (R89) (R121). -/
def execVminH (d a b : VReg) (m : MReg) (t : HalfFmt) (s : State) : Out := lanes2 16 s d a b m (fminmax (halfFloat t) true)
/-- `vmax.f16`, `vmax.bf16`: maximumNumber (R89) (R121). -/
def execVmaxH (d a b : VReg) (m : MReg) (t : HalfFmt) (s : State) : Out := lanes2 16 s d a b m (fminmax (halfFloat t) false)
/-- `vabs.f16`, `vabs.bf16`: a with its sign cleared (R121). -/
def execVabsH (d a : VReg) (m : MReg) (t : HalfFmt) (s : State) : Out := lanes1 16 s d a m (fsign (halfFloat t) true)
/-- `vneg.f16`, `vneg.bf16`: a with its sign inverted (R121). -/
def execVnegH (d a : VReg) (m : MReg) (t : HalfFmt) (s : State) : Out := lanes1 16 s d a m (fsign (halfFloat t) false)

/-! ### VD -/

/-- `vadd.f64`, `vadd.i64`: a + b (R122). -/
def execVaddD (d a b : VReg) (m : MReg) (t : DoubleFmt) (s : State) : Out :=
  lanes2 64 s d a b m (doubleOp t (fadd f64 s.mode) (fun a b => a + b))
/-- `vsub.f64`, `vsub.i64`: a − b (R122). -/
def execVsubD (d a b : VReg) (m : MReg) (t : DoubleFmt) (s : State) : Out :=
  lanes2 64 s d a b m (doubleOp t (fsub f64 s.mode) (fun a b => a - b))
/-- `vmul.f64`, `vmul.i64`: a × b (R122). -/
def execVmulD (d a b : VReg) (m : MReg) (t : DoubleFmt) (s : State) : Out :=
  lanes2 64 s d a b m (doubleOp t (fmul f64 s.mode) (fun a b => a * b))
/-- `vmin.f64`, `vmin.i64`: the lesser (R122). -/
def execVminD (d a b : VReg) (m : MReg) (t : DoubleFmt) (s : State) : Out :=
  lanes2 64 s d a b m (doubleOp t (fminmax f64 true) (fun a b => if a.slt b then a else b))
/-- `vmax.f64`, `vmax.i64`: the greater (R122). -/
def execVmaxD (d a b : VReg) (m : MReg) (t : DoubleFmt) (s : State) : Out :=
  lanes2 64 s d a b m (doubleOp t (fminmax f64 false) (fun a b => if a.slt b then b else a))
/-- `vdiv.f64`: Round of a ÷ b (R122). -/
def execVdivF64 (d a b : VReg) (m : MReg) (s : State) : Out := lanes2 64 s d a b m (fdiv f64 s.mode)
/-- `vsqrt.f64`: Round of the square root (R122). -/
def execVsqrtF64 (d a : VReg) (m : MReg) (s : State) : Out := lanes1 64 s d a m (fsqrt f64 s.mode)

/-! ### VFMA -/

/-- The format of a `vfma` (07_vector R123). -/
def fmaFloat : FmaFmt → FloatFmt
  | .f32 => Sys2Proof.Machine.f32 | .f16 => Sys2Proof.Machine.f16 | .bf16 => Sys2Proof.Machine.bf16 | .f64 => Sys2Proof.Machine.f64
/-- `vfma`: every lane gets a × b + c with one rounding (R123, R96). -/
def execVfma (d a b c : VReg) (t : FmaFmt) (s : State) : Out :=
  let w := (fmaFloat t).width
  seq s (do
    s.vregs [d, a, b, c]
    .ok (laneWrite w d 0 s fun i => ffma (fmaFloat t) s.mode (laneOf w (s.v a) i) (laneOf w (s.v b) i) (laneOf w (s.v c) i)))

/-! ### VCMP -/

/-- The lane width of a compare (07_vector R124). -/
def cmpWidth : CmpFmt → Nat
  | .f16 => 16 | .f64 => 64 | _ => 32
/-- The test of one lane pair and its flags; a condition that the type does not have is refused by the decoder
(07_vector R125). -/
def cmpLane (t : CmpFmt) (i : Option IntCond) (f : Option FloatCond) (a b : Nat) : Bool × Flags :=
  let fl (g : FloatFmt) : Bool × Flags := match f with | some c => fcmp g c a b | none => (false, 0)
  match t with
  | .i32 => (match i with | some c => c.holds (BitVec.ofNat 32 a) (BitVec.ofNat 32 b) | none => false, 0)
  | .f32 => fl f32
  | .f16 => fl f16
  | .f64 => fl f64
/-- Mask bit `j` of a compare: the tests of the lanes whose bytes it governs, or its old value (07_vector R124). -/
def cmpBit (w : Nat) (m old : BitVec 32) (r : Nat → Bool) (j : Nat) : Bool :=
  if w = 16 then (if m.getLsbD j then r (2 * j) && r (2 * j + 1) else old.getLsbD j)
  else
    let i := 32 * j / w
    if governs w m i then r i else old.getLsbD j
/-- A compare into a mask (07_vector R124). -/
def compare (s : State) (e : MReg) (a b : VReg) (m : MReg) (t : CmpFmt) (ic : Option IntCond) (fc : Option FloatCond) : Out :=
  seq s (do
    s.vregs [a, b]
    let w := cmpWidth t
    let r (i : Nat) : Bool × Flags := cmpLane t ic fc (laneOf w (s.v a) i) (laneOf w (s.v b) i)
    let mask := (List.range 32).foldl (fun acc j =>
      if cmpBit w (s.mask m) (s.mask e) (fun i => (r i).1) j then acc ||| BitVec.ofNat 32 (2 ^ j) else acc) (0 : BitVec 32)
    let fl := (List.range (1024 / w)).foldl (fun f i => if governs w (s.mask m) i then f ||| (r i).2 else f) (0 : Flags)
    .ok ((s.setM e mask).orFlags fl))

/-- `vcmp.eq` (R125). -/
def execVcmpEq (e : MReg) (a b : VReg) (m : MReg) (t : CmpFmt) (s : State) : Out := compare s e a b m t (some .eq) (some .eq)
/-- `vcmp.ne` (R125). -/
def execVcmpNe (e : MReg) (a b : VReg) (m : MReg) (t : CmpFmt) (s : State) : Out := compare s e a b m t (some .ne) (some .ne)
/-- `vcmp.lt` (R125). -/
def execVcmpLt (e : MReg) (a b : VReg) (m : MReg) (t : CmpFmt) (s : State) : Out := compare s e a b m t (some .lt) (some .lt)
/-- `vcmp.ge` (R125). -/
def execVcmpGe (e : MReg) (a b : VReg) (m : MReg) (t : CmpFmt) (s : State) : Out := compare s e a b m t (some .ge) (some .ge)
/-- `vcmp.ltn.i32` (R125). -/
def execVcmpLtn (e : MReg) (a b : VReg) (m : MReg) (s : State) : Out := compare s e a b m .i32 (some .ltn) none
/-- `vcmp.gen.i32` (R125). -/
def execVcmpGen (e : MReg) (a b : VReg) (m : MReg) (s : State) : Out := compare s e a b m .i32 (some .gen) none
/-- `vcmp.unord` (R125). -/
def execVcmpUnord (e : MReg) (a b : VReg) (m : MReg) (t : CmpFmt) (s : State) : Out := compare s e a b m t none (some .unord)
/-- `vcmp.ord` (R125). -/
def execVcmpOrd (e : MReg) (a b : VReg) (m : MReg) (t : CmpFmt) (s : State) : Out := compare s e a b m t none (some .ord)

end Sys2Proof.Machine
end

