-- ==== Sys2Proof/Machine/VectorMisc.lean ====
section
/-! DEFINITION. Moves, permutes, reductions, conversions and PS blocks: VMISC (07_vector R126-R132). -/

namespace Sys2Proof.Machine

/-! ### Moves between x registers and lanes -/

/-- `vbcast`: the value goes to every governed lane (R127). -/
def execVbcast (d : VReg) (w : LaneWidth) (a : XReg) (m : MReg) (s : State) : Out :=
  seq s (do
    s.vregs [d]
    .ok (laneWrite w.bits d m s fun _ => ((s.x a).toNat, 0)))
/-- `vextr`: one lane, sign-extended (R127). -/
def execVextr (w : LaneWidth) (x : XReg) (a : VReg) (l : Fin 64) (s : State) : Out :=
  seq s (do
    s.vregs [a]
    .ok (s.setX x ((BitVec.ofNat w.bits (laneOf w.bits (s.v a) l.val)).signExtend 64)))
/-- `vins`: one lane is written, the others keep their values (R127). -/
def execVins (d : VReg) (w : LaneWidth) (a : XReg) (l : Fin 64) (s : State) : Out :=
  seq s (do
    s.vregs [d]
    .ok (s.setV d (ofLanes w.bits ((lanesOf w.bits (s.v d)).set l.val (s.x a).toNat))))
/-- `vmov`: governed lanes of va (R128). -/
def execVmov (d a : VReg) (m : MReg) (s : State) : Out :=
  seq s (do
    s.vregs [d, a]
    .ok (laneWrite 32 d m s fun i => (laneOf 32 (s.v a) i, 0)))
/-- `viota`: each governed lane's index (R128). -/
def execViota (d : VReg) (m : MReg) (s : State) : Out :=
  seq s (do
    s.vregs [d]
    .ok (laneWrite 32 d m s fun i => (i, 0)))
/-- `vsel`: the mask selects va or vb in every lane (R128). -/
def execVsel (d a b : VReg) (m : MReg) (s : State) : Out :=
  seq s (do
    s.vregs [d, a, b]
    .ok (laneWrite 32 d 0 s fun i => (laneOf 32 (s.v (if (s.mask m).getLsbD i then a else b)) i, 0)))
/-- `vperm`: each governed lane takes the lane of va that its index in vb names (R128). -/
def execVperm (d a b : VReg) (m : MReg) (s : State) : Out :=
  seq s (do
    s.vregs [d, a, b]
    .ok (laneWrite 32 d m s fun i => (laneOf 32 (s.v a) (laneOf 32 (s.v b) i % 32), 0)))

/-! ### Reductions -/

/-- One level of the tree of R95 over adjacent nodes; a node with one absent input passes the other through. -/
def treeLevel (f : Nat → Nat → Nat × Flags) : List (Option Nat) → List (Option Nat) × Flags
  | x :: y :: t =>
    let (rest, fl) := treeLevel f t
    match x, y with
    | some a, some b => (some (f a b).1 :: rest, fl ||| (f a b).2)
    | some a, none => (some a :: rest, fl)
    | none, o => (o :: rest, fl)
  | l => (l, 0)
/-- The levels of the tree (05_numbers R95). -/
def tree (f : Nat → Nat → Nat × Flags) : Nat → List (Option Nat) → Flags → List (Option Nat) × Flags
  | 0, l, fl => (l, fl)
  | n + 1, l, fl =>
    let (l', fl') := treeLevel f l
    tree f n l' (fl ||| fl')
/-- The 32-bit lanes of a register that a mask governs on. -/
def presentLanes (m : BitVec 32) (v : Vec) : List (Option Nat) :=
  (List.range 32).map fun i => if m.getLsbD i then some (laneOf 32 v i) else none
/-- A reduction: lane 0 of vd takes the tree's result, `empty` where every lane is absent (07_vector R129). -/
def reduce (s : State) (d a : VReg) (m : MReg) (empty : Nat) (f : Nat → Nat → Nat × Flags) : Out :=
  seq s (do
    s.vregs [d, a]
    let (l, fl) := tree f 5 (presentLanes (s.mask m) (s.v a)) 0
    let r := (l.headD none).getD empty
    .ok ((s.setV d (ofLanes 32 ((lanesOf 32 (s.v d)).set 0 r))).orFlags fl))
/-- `vred.add.f32` (R95, R129). -/
def execVredAddF32 (d a : VReg) (m : MReg) (s : State) : Out := reduce s d a m 0 (fadd f32 s.mode)
/-- `vred.max.f32` (R95, R129). -/
def execVredMaxF32 (d a : VReg) (m : MReg) (s : State) : Out := reduce s d a m 0 (fminmax f32 false)
/-- `vred.add.i32`: the sum wraps (R129). -/
def execVredAddI32 (d a : VReg) (m : MReg) (s : State) : Out := reduce s d a m 0 (intOp 32 fun a b => a + b)
/-- `vred.max.i32`: −2^31 with every lane masked off (R129). -/
def execVredMaxI32 (d a : VReg) (m : MReg) (s : State) : Out :=
  reduce s d a m 0x80000000 (intOp 32 fun a b => if a.slt b then b else a)

/-! ### Conversions -/

/-- The source lane width, destination lane width, lanes and conversion of each code (07_vector R130). -/
def convOp (c : Conv) (mode : Mode) : Nat × Nat × Nat × (Nat → Nat × Flags) :=
  let int (w : Nat) (f : FloatFmt) (lo hi : Int) (a : Nat) : Nat × Flags :=
    ((BitVec.ofInt w (ftoInt f mode lo hi a).1).toNat, (ftoInt f mode lo hi a).2)
  match c with
  | .f32i32 => (32, 32, 32, int 32 f32 (-2 ^ 31) (2 ^ 31 - 1))
  | .f32n32 => (32, 32, 32, int 32 f32 0 (2 ^ 32 - 1))
  | .i32f32 => (32, 32, 32, fun a => fofInt f32 mode (BitVec.ofNat 32 a).toInt)
  | .n32f32 => (32, 32, 32, fun a => fofInt f32 mode a)
  | .f32f16 => (32, 16, 32, fconv f32 f16 mode)
  | .f32bf16 => (32, 16, 32, fconv f32 bf16 mode)
  | .f16f32 => (16, 32, 32, fconv f16 f32 mode)
  | .bf16f32 => (16, 32, 32, fconv bf16 f32 mode)
  | .f64f32 => (64, 32, 16, fconv f64 f32 mode)
  | .f32f64 => (32, 64, 16, fconv f32 f64 mode)
  | .f64i64 => (64, 64, 16, int 64 f64 (-2 ^ 63) (2 ^ 63 - 1))
  | .i64f64 => (64, 64, 16, fun a => fofInt f64 mode (BitVec.ofNat 64 a).toInt)
  | .f16bf16 => (16, 16, 64, fconv f16 bf16 mode)
  | .bf16f16 => (16, 16, 64, fconv bf16 f16 mode)
/-- `vcvt`: destination lane k takes source lane k; lanes beyond the conversion's keep their values (R130). -/
def execVcvt (d a : VReg) (c : Conv) (m : MReg) (s : State) : Out :=
  seq s (do
    s.vregs [d, a]
    let (sw, dw, n, f) := convOp c s.mode
    .ok (laneWrite dw d m s fun i => if i < n then f (laneOf sw (s.v a) i) else (laneOf dw (s.v d) i, 0)))

/-! ### PS blocks -/

/-- The number that block `n` of a register spells (07_vector R131). -/
def psBlock (f : PsFmt) (v : Vec) (n : Nat) : Nat := bits v.toNat (8 * f.bytes * n) (8 * f.bytes)
/-- `vunpk`: the elements of block n, as f32, in lanes 0-15 (R131). -/
def execVunpk (d a : VReg) (n : Fin 64) (f : PsFmt) (s : State) : Out :=
  seq s (do
    s.vregs [d, a]
    let es := psElems f.mag (psBlock f (s.v a) n.val)
    .ok (laneWrite 32 d 0 s fun i => if i < 16 then (psToF32 (es.getD i (.fin false 0 0)), 0) else (laneOf 32 (s.v d) i, 0)))
/-- `vpack`: block n takes the block that lanes 0-15 quantise to; NV for a signalling NaN, OF on saturation
(R131). -/
def execVpack (d a : VReg) (n : Fin 64) (f : PsFmt) (s : State) : Out :=
  seq s (do
    s.vregs [d, a]
    let xs := (List.range 16).map fun i => f32.unpack (laneOf 32 (s.v a) i)
    let (block, sat) := quantise f.mag xs
    let fl : Flags := (if xs.any Fl.isSig then NV else 0) ||| (if sat then OF else 0)
    .ok ((s.setV d (Vec.setBytes (s.v d) (f.bytes * n.val) f.bytes block)).orFlags fl))
/-- `baddq`: the blocks are added pairwise; bytes after the last whole block keep their values (R132). -/
def execBaddq (d a b : VReg) (f : PsFmt) (s : State) : Out :=
  seq s (do
    s.vregs [d, a, b]
    let r := (List.range f.blocks).foldl (fun (acc : Vec × Bool) j =>
      let (block, sat) := baddBlocks f.mag (psBlock f (s.v a) j) (psBlock f (s.v b) j)
      (Vec.setBytes acc.1 (f.bytes * j) f.bytes block, acc.2 || sat)) (s.v d, false)
    .ok ((s.setV d r.1).orFlags (if r.2 then OF else 0)))

end Sys2Proof.Machine
end

