-- ==== Sys2Proof/Machine/Access.lean ====
section
/-! DEFINITION. Loads, stores, atomics, vector memory, `watch`, `waitr`, `fence` and `phase` (10_access
R177-R187). -/

namespace Sys2Proof.Machine

/-- The word of an instruction, for TVAL of an ILLOP (02_encoding R46). -/
def wordOf (i : Instr) : Word := BitVec.ofNat 64 ((encodeNat i).getD 0)
/-- A store to a read-only word of control space traps ILLOP with the word of its instruction (00_scope R3, 02_encoding R46,
14_queues R251). -/
def byInstr {α : Type} (i : Instr) : Act α → Act α
  | .error (.trap .illop sub _) => .error (.trap .illop sub (wordOf i))
  | r => r

/-! ### Scalar loads and stores -/

/-- A load of format M: the value goes through `ext` into xt (10_access R179). -/
def loadM (s : State) (t : XReg) (z : Size) (mem : MemForm) (ext : Nat → Word) : Out :=
  seq s (do
    let (va, base) ← s.memAddr mem z.bytes
    let da ← s.translate va .r z.bytes
    let v ← s.load va da z.bytes 1
    .ok (((s.touch va).setX t (ext v)).setBase base))
/-- A store of format M; the value is read before the base is updated (10_access R179). -/
def storeM (s : State) (t : XReg) (z : Size) (mem : MemForm) (imm : Bool) : Out :=
  seq s (do
    let (va, base) ← s.memAddr mem z.bytes
    let da ← s.translate va .w z.bytes
    let r ← afterAll [va] (byInstr (if imm then .stp t z mem else .st t z mem)
      ((s.touch va).store imm [{ va, da, bytes := toBytes z.bytes (s.x t).toNat }]))
    .ok (r.setBase base))
/-- SignExtend(v, w), of a number below 2^w (02_encoding R48). -/
def signExt (w v : Nat) : Word := (BitVec.ofNat w v).signExtend 64

/-- `ld` (R179). -/
def execLd (t : XReg) (z : Size) (mem : MemForm) (s : State) : Out := loadM s t z mem (signExt (8 * z.bytes))
/-- `ldz` (R179). -/
def execLdz (t : XReg) (z : Size) (mem : MemForm) (s : State) : Out := loadM s t z mem (BitVec.ofNat 64)
/-- `st`: the class of R167 (R179). -/
def execSt (t : XReg) (z : Size) (mem : MemForm) (s : State) : Out := storeM s t z mem false
/-- `stp`: the immediate class (R179). -/
def execStp (t : XReg) (z : Size) (mem : MemForm) (s : State) : Out := storeM s t z mem true

/-! ### Atomics -/

/-- The operations of `amo` on `w`-bit words (10_access R180). -/
inductive AmoOp where
  | add | and | or | xor | min | max | minn | maxn | swap
  deriving DecidableEq, Repr
/-- The fn code of an operation (10_access R180). -/
def AmoOp.code : AmoOp → Nat
  | .add => 0 | .and => 1 | .or => 2 | .xor => 3 | .min => 4 | .max => 5 | .minn => 6 | .maxn => 7 | .swap => 8
/-- The operation of a code below 9. -/
def AmoOp.ofCode : Nat → AmoOp
  | 0 => .add | 1 => .and | 2 => .or | 3 => .xor | 4 => .min | 5 => .max | 6 => .minn | 7 => .maxn | _ => .swap
/-- Op(fn, old, b) on `w`-bit words (10_access R180). -/
def AmoOp.apply (o : AmoOp) (w old b : Nat) : Nat :=
  let x := BitVec.ofNat w old
  let y := BitVec.ofNat w b
  (match o with
   | .add => x + y
   | .and => x &&& y
   | .or => x ||| y
   | .xor => x ^^^ y
   | .min => if x.slt y then x else y
   | .max => if x.slt y then y else x
   | .minn => if x.ult y then x else y
   | .maxn => if x.ult y then y else x
   | .swap => y).toNat
/-- Whether `n` bytes at an offset touch the header of a reduction cell (10_access R188). -/
def redHeader (q n : Nat) : Bool := inRed q && decide (q % 128 < 8) && decide (0 < n)
/-- The checks of an atomic whose address lies on this package: the read right, a locked bank, a lost or a
poisoned word, and a reduction header (10_access R177, R180, R188). -/
def State.atomicHere (s : State) (va : Word) (da n : Nat) : Act Nat := do
  let _ ← s.translate va .rw n
  check (!redHeader (da % 2 ^ 43) n) .prot va
  s.touchable va da n true
  .ok (da % 2 ^ 43)
/-- A wait inside an atomic leaves the state `s`, as it was. -/
def waitClean (s : State) (r : Act State) : Act State :=
  match r with
  | .error (.wait _ c) => waitFor s c
  | r => r
/-- `amo`: one read-modify-write at the memory port, or a posted atomic for another package (10_access R180, R181). -/
def amo (s : State) (d a b : XReg) (z : WordSize) (o : AmoOp) (i : Instr) : Out :=
  let n := z.bytes
  let va := s.x a
  let v := (s.x b).toNat % 2 ^ (8 * n)
  seq s (do
    let da ← s.translate va .w n
    let s' := s.touch va
    if da / 2 ^ 43 = s.pkg then
      let q ← afterAll [va] (s.atomicHere va da n)
      let old := ofBytes (s.portBytes q n)
      afterAll [va] (byInstr i (waitClean s' ((s'.immStore va q (toBytes n (o.apply (8 * n) old v))).map fun t =>
        t.setX d (signExt (8 * n) old))))
    else .ok (s'.sendFabric s.issuer da 1 (o.code + 16 * z.code) (toBytes n v) false false false false))
/-- `amo.add` (R180). -/
def execAmoAdd (d a b : XReg) (z : WordSize) (s : State) : Out := amo s d a b z .add (.amoAdd d a b z)
/-- `amo.and` (R180). -/
def execAmoAnd (d a b : XReg) (z : WordSize) (s : State) : Out := amo s d a b z .and (.amoAnd d a b z)
/-- `amo.or` (R180). -/
def execAmoOr (d a b : XReg) (z : WordSize) (s : State) : Out := amo s d a b z .or (.amoOr d a b z)
/-- `amo.xor` (R180). -/
def execAmoXor (d a b : XReg) (z : WordSize) (s : State) : Out := amo s d a b z .xor (.amoXor d a b z)
/-- `amo.min` (R180). -/
def execAmoMin (d a b : XReg) (z : WordSize) (s : State) : Out := amo s d a b z .min (.amoMin d a b z)
/-- `amo.max` (R180). -/
def execAmoMax (d a b : XReg) (z : WordSize) (s : State) : Out := amo s d a b z .max (.amoMax d a b z)
/-- `amo.minn` (R180). -/
def execAmoMinn (d a b : XReg) (z : WordSize) (s : State) : Out := amo s d a b z .minn (.amoMinn d a b z)
/-- `amo.maxn` (R180). -/
def execAmoMaxn (d a b : XReg) (z : WordSize) (s : State) : Out := amo s d a b z .maxn (.amoMaxn d a b z)
/-- `amo.swap` (R180). -/
def execAmoSwap (d a b : XReg) (z : WordSize) (s : State) : Out := amo s d a b z .swap (.amoSwap d a b z)
/-- `cas`: permission comes first; a comparison that fails writes nothing (R182). -/
def execCas (d a b : XReg) (z : WordSize) (s : State) : Out :=
  let n := z.bytes
  let va := s.x a
  seq s (do
    let da ← s.translate va .rw n
    let q ← afterAll [va] (s.atomicHere va da n)
    let old := ofBytes (s.portBytes q n)
    let s' := s.touch va
    let t ← if old = (s.x d).toNat % 2 ^ (8 * n) then
              afterAll [va] (byInstr (.cas d a b z) (waitClean s' (s'.immStore va q (toBytes n (s.x b).toNat))))
            else .ok s'
    .ok (t.setX d (signExt (8 * n) old)))

/-! ### Vector atomics -/

/-- The operations of `vamo` (10_access R183). -/
inductive VamoOp where
  | addI | minI | maxI | minN | maxN | and | or | xor | addF | minF | maxF | addB
  deriving DecidableEq, Repr
/-- The fn code (10_access R183). -/
def VamoOp.code : VamoOp → Nat
  | .addI => 0 | .minI => 1 | .maxI => 2 | .minN => 3 | .maxN => 4 | .and => 5 | .or => 6 | .xor => 7
  | .addF => 8 | .minF => 9 | .maxF => 10 | .addB => 11
/-- The operation of a code below 12. -/
def VamoOp.ofCode : Nat → VamoOp
  | 0 => .addI | 1 => .minI | 2 => .maxI | 3 => .minN | 4 => .maxN | 5 => .and | 6 => .or | 7 => .xor
  | 8 => .addF | 9 => .minF | 10 => .maxF | _ => .addB
/-- Whether the flags of the operation go to the issuing thread (10_access R183). -/
def VamoOp.isFloat (o : VamoOp) : Bool := decide (8 ≤ o.code)
/-- The bytes of an element (10_access R183). -/
def VamoOp.size (o : VamoOp) : Nat := match o with | .addB => 2 | _ => 4
/-- Op(fn, old, src) under a rounding mode (10_access R183, 05_numbers R98). -/
def VamoOp.apply (o : VamoOp) (mode : Mode) (old src : Nat) : Nat × Flags :=
  match o with
  | .addI => (AmoOp.add.apply 32 old src, 0)
  | .minI => (AmoOp.min.apply 32 old src, 0)
  | .maxI => (AmoOp.max.apply 32 old src, 0)
  | .minN => (AmoOp.minn.apply 32 old src, 0)
  | .maxN => (AmoOp.maxn.apply 32 old src, 0)
  | .and => (AmoOp.and.apply 32 old src, 0)
  | .or => (AmoOp.or.apply 32 old src, 0)
  | .xor => (AmoOp.xor.apply 32 old src, 0)
  | .addF => fadd f32 mode old src
  | .minF => fminmax f32 true old src
  | .maxF => fminmax f32 false old src
  | .addB => fadd bf16 mode old src
/-- The elements of a group, one after another, from element `i` (10_access R183). -/
def vamoFrom (va : Word) (q : Nat) (o : VamoOp) (mode : Mode) (src : Nat) : Nat → Nat → State → Flags → Act (State × Flags)
  | 0, _, s, f => .ok (s, f)
  | n + 1, i, s, f => do
    let z := o.size
    let old := ofBytes (s.portBytes (q + z * i) z)
    let (new, g) := o.apply mode old (bits src (8 * z * i) (8 * z))
    let t ← s.immStore (va + BitVec.ofNat 64 (z * i)) (q + z * i) (toBytes z new)
    vamoFrom va q o mode src n (i + 1) t (f ||| g)
/-- The bytes that an atomic's port holds for a group. -/
def State.groupBytes (s : State) (q : Nat) : List Byte :=
  (List.range 8).foldr (fun i l => s.portBytes (q + 4 * i) 4 ++ l) []
/-- `vamo` on the 32-byte group `g` of V[v] (10_access R183). -/
def vamo (s : State) (v : VReg) (a : XReg) (g : Fin 4) (o : VamoOp) (i : Instr) : Out :=
  let va := s.x a
  seq s (do
    s.vregs [v]
    let da ← s.translate va .w 32
    let s' := s.touch va
    let src := bits (s.v v).toNat (256 * g.val) 256
    if da / 2 ^ 43 = s.pkg then
      let q ← afterAll [va] (s.atomicHere va da 32)
      let old := ofBytes (s.groupBytes q)
      match byInstr i (vamoFrom va q o s.mode src (32 / o.size) 0 s' 0) with
      | .ok (t, f) => .ok ((t.setV v (Vec.setBytes (s.v v) (32 * g.val) 32 old)).orFlags f)
      | .error (.wait _ c) => waitFor s' c
      | .error e => .error (.after [va] e)
    else .ok (s'.sendFabric s.issuer da 1 o.code (toBytes 32 src) false false o.isFloat false))
/-- `vamo.add.i32` (R183). -/
def execVamoAddI32 (v : VReg) (a : XReg) (g : Fin 4) (s : State) : Out := vamo s v a g .addI (.vamoAddI32 v a g)
/-- `vamo.min.i32` (R183). -/
def execVamoMinI32 (v : VReg) (a : XReg) (g : Fin 4) (s : State) : Out := vamo s v a g .minI (.vamoMinI32 v a g)
/-- `vamo.max.i32` (R183). -/
def execVamoMaxI32 (v : VReg) (a : XReg) (g : Fin 4) (s : State) : Out := vamo s v a g .maxI (.vamoMaxI32 v a g)
/-- `vamo.minn.n32` (R183). -/
def execVamoMinnN32 (v : VReg) (a : XReg) (g : Fin 4) (s : State) : Out := vamo s v a g .minN (.vamoMinnN32 v a g)
/-- `vamo.maxn.n32` (R183). -/
def execVamoMaxnN32 (v : VReg) (a : XReg) (g : Fin 4) (s : State) : Out := vamo s v a g .maxN (.vamoMaxnN32 v a g)
/-- `vamo.and` (R183). -/
def execVamoAnd (v : VReg) (a : XReg) (g : Fin 4) (s : State) : Out := vamo s v a g .and (.vamoAnd v a g)
/-- `vamo.or` (R183). -/
def execVamoOr (v : VReg) (a : XReg) (g : Fin 4) (s : State) : Out := vamo s v a g .or (.vamoOr v a g)
/-- `vamo.xor` (R183). -/
def execVamoXor (v : VReg) (a : XReg) (g : Fin 4) (s : State) : Out := vamo s v a g .xor (.vamoXor v a g)
/-- `vamo.add.f32` (R98, R183). -/
def execVamoAddF32 (v : VReg) (a : XReg) (g : Fin 4) (s : State) : Out := vamo s v a g .addF (.vamoAddF32 v a g)
/-- `vamo.min.f32` (R89, R183). -/
def execVamoMinF32 (v : VReg) (a : XReg) (g : Fin 4) (s : State) : Out := vamo s v a g .minF (.vamoMinF32 v a g)
/-- `vamo.max.f32` (R89, R183). -/
def execVamoMaxF32 (v : VReg) (a : XReg) (g : Fin 4) (s : State) : Out := vamo s v a g .maxF (.vamoMaxF32 v a g)
/-- `vamo.add.bf16` (R98, R183). -/
def execVamoAddBf16 (v : VReg) (a : XReg) (g : Fin 4) (s : State) : Out := vamo s v a g .addB (.vamoAddBf16 v a g)

/-! ### Vector loads and stores -/

/-- The lanes that a mask governs on, in rising order. -/
def State.lanesOn (s : State) (m : MReg) : List Nat := (List.range 32).filter fun i => (s.mask m).getLsbD i
/-- The translated address of each lane; the first trapping lane traps (10_access R184). -/
def State.laneAddrs (s : State) (m : MReg) (acc : Acc) (addr : Nat → Word) : Act (List (Nat × Word × Nat)) :=
  (s.lanesOn m).mapM fun i => afterAll (((s.lanesOn m).filter (· < i)).map addr) (do
    let da ← s.translate (addr i) acc 4
    .ok (i, addr i, da))
/-- The caches after the accesses of lanes. -/
def State.touchLanes (s : State) (ls : List (Nat × Word × Nat)) : State := ls.foldl (fun t l => t.touch l.2.1) s
/-- A vector load (10_access R184). -/
def vload (s : State) (v : VReg) (rs : List VReg) (m : MReg) (addr : Nat → Word) : Out :=
  seq s (do
    s.vregs (v :: rs)
    let ls ← s.laneAddrs m .r addr
    let vs ← afterAll (ls.map fun l => l.2.1) (ls.mapM fun l => do .ok (l.1, ← s.load l.2.1 l.2.2 4 (1 + l.1)))
    .ok ((s.touchLanes ls).setV v (ofLanes 32 ((List.range 32).map fun i => SMap.get (laneOf 32 (s.v v) i) vs i))))
/-- A vector store: the lanes in rising order, each in its class (10_access R184). -/
def vstore (s : State) (v : VReg) (rs : List VReg) (m : MReg) (addr : Nat → Word) (i : Instr) : Out :=
  seq s (do
    s.vregs (v :: rs)
    let ls ← s.laneAddrs m .w addr
    afterAll (ls.map fun l => l.2.1) (byInstr i ((s.touchLanes ls).store false
      (ls.map fun l => { va := l.2.1, da := l.2.2, bytes := toBytes 4 (laneOf 32 (s.v v) l.1) }))))
/-- The address of lane `i` of `vld` and `vst` (10_access R184). -/
def State.laneUnit (s : State) (a : XReg) (n : Fin 16) (i : Nat) : Word :=
  s.x a + BitVec.ofNat 64 (128 * n.val) + BitVec.ofNat 64 (4 * i)
/-- The address of lane `i` of `vlds` and `vsts` (10_access R184). -/
def State.laneStride (s : State) (a x : XReg) (n : Fin 16) (i : Nat) : Word :=
  s.x a + BitVec.ofNat 64 (128 * n.val) + BitVec.ofNat 64 i * s.x x
/-- The address of lane `i` of `vgath` and `vscat` (10_access R184). -/
def State.laneIndex (s : State) (a : XReg) (v : VReg) (n : Fin 4) (i : Nat) : Word :=
  s.x a + (signExt 32 (laneOf 32 (s.v v) i) <<< n.val)
/-- `vld` (R184). -/
def execVld (v : VReg) (a : XReg) (m : MReg) (n : Fin 16) (s : State) : Out := vload s v [] m (s.laneUnit a n)
/-- `vst` (R184). -/
def execVst (v : VReg) (a : XReg) (m : MReg) (n : Fin 16) (s : State) : Out := vstore s v [] m (s.laneUnit a n) (.vst v a m n)
/-- `vlds` (R184). -/
def execVlds (v : VReg) (a x : XReg) (m : MReg) (n : Fin 16) (s : State) : Out := vload s v [] m (s.laneStride a x n)
/-- `vsts` (R184). -/
def execVsts (v : VReg) (a x : XReg) (m : MReg) (n : Fin 16) (s : State) : Out := vstore s v [] m (s.laneStride a x n) (.vsts v a x m n)
/-- `vgath` (R184). -/
def execVgath (v : VReg) (a : XReg) (i : VReg) (m : MReg) (n : Fin 4) (s : State) : Out := vload s v [i] m (s.laneIndex a i n)
/-- `vscat` (R184). -/
def execVscat (v : VReg) (a : XReg) (i : VReg) (m : MReg) (n : Fin 4) (s : State) : Out := vstore s v [i] m (s.laneIndex a i n) (.vscat v a i m n)

/-! ### Waiting on a word -/

/-- `watch` (R185). -/
def execWatch (a : XReg) (s : State) : Out :=
  seq s (do
    let da ← s.translate (s.x a) .r 8
    .ok ((s.touch (s.x a)).modMe fun t => { t with monitor := some { line := da % 2 ^ 43 / lineBytes, fired := false } }))
/-- Whether a `waitr` on the word at an offset ends (10_access R185). -/
def Slot.waitrEnds (t : Slot) (q : Nat) (now old : Word) : Bool :=
  now != old || (match t.monitor with | some m => m.line == q / lineBytes && m.fired | none => false)
/-- `waitr` (R185). -/
def execWaitr (d a : XReg) (s : State) : Out :=
  seq s (do
    let da ← s.translate (s.x a) .r 8
    s.touchable (s.x a) da 8 true
    let q := da % 2 ^ 43
    let now := BitVec.ofNat 64 (ofBytes (s.portBytes q 8))
    let t := s.touch (s.x a)
    if s.me.waitrEnds q now (s.x d) then .ok ((t.setX d now).modMe fun k => { k with monitor := none })
    else waitFor t (.word q (s.x d)))

/-! ### Fences and phases -/

/-- Whether a message or a decrement of the thread at a place travels to a core in a scope: 0 the core, 1 the die, 2 the
package. Every other immediate-class write is visible at once in the model (R174, 15_messages R267; notes/assumptions/6). -/
def State.travelling (s : State) (p : Place) (scope : Nat) : Bool :=
  let near (c : Nat) : Bool := decide (2 ≤ scope) || (scope == 1 && dieOf c == dieOf p.core.val) || c == p.core.val
  s.net.any fun e => match e with
    | .msg dst _ _ _ m => m.ack == .none && m.place == p && m.pop == (s.slotAt p).popid && near dst.val
    | .taskDec q by_ _ => by_.place == p && by_.pop == (s.slotAt p).popid && near (vaultCore q)
    | .migrate _ _ => false
/-- A fence of a scope (R174, R186). -/
def State.fence (s : State) (scope : Nat) : Act State := if s.travelling s.cur scope then waitFor s (.sent scope) else .ok s
/-- `fence.core` (R174, R186). -/
def execFenceCore (s : State) : Out := seq s (s.fence 0)
/-- `fence.die` (R174, R186). -/
def execFenceDie (s : State) : Out := seq s (s.fence 1)
/-- `fence.pkg` (R174, R186). -/
def execFencePkg (s : State) : Out := seq s (s.fence 2)
/-- Whether a fabric write or posted atomic of the thread at a place is outstanding (09_memories R174). -/
def State.outstandingAt (s : State) (p : Place) : Bool :=
  (s.out.any fun o => o.place == p && !o.gone && o.pop == (s.slotAt p).popid) ||
  s.tickets.any fun t => match t.by_ with | some b => b.place == p && b.pop == (s.slotAt p).popid | none => false
/-- `fence.dom`: every write to another package is acknowledged (R174, R186). -/
def execFenceDom (s : State) : Out :=
  seq s (do
    let t ← s.fence 2
    if t.outstandingAt t.cur then waitFor t .acked else .ok t)
/-- Whether an earlier store of the thread at a place has reached neither its entries nor committed memory: an outstanding
write to another package, or an Escrow entry of a store; in an open event, one that is released before the event ends
(09_memories R171, 15_messages R280, R289; notes/assumptions/71). -/
def State.storing (s : State) (p : Place) : Bool :=
  let t := s.slotAt p
  (s.out.any fun o => o.place == p && !o.gone && o.pop == t.popid) ||
  s.dies.any fun d => d.2.escrow.any fun e => e.owner == p && e.pop == t.popid &&
    (match e.act with | .store .. => true | _ => false) && !(t.evo && decide (t.lvt.toNat ≤ e.lvt.toNat))
/-- `fence.l`: once every earlier store has arrived, the thread's entries and records are merged (R171, R186). -/
def execFenceL (s : State) : Out :=
  seq s (if s.storing s.cur then waitFor s .stored else .ok (s.mapEntries s.myId fun e => if e.mine (s.ident s.cur) then { e with merged := true } else e))
/-- `fence.cb`: later fetches and captures of the thread read committed memory (R31, R52, R186). -/
def execFenceCb (s : State) : Out :=
  seq s (.ok (s.modMe fun t => { t with ibuf := [], fenced := s.fresh + 1 }))

/-- The thread at a place arrives at the phase in progress (10_access R187). -/
def Pop.arrive (p : Pop) (at_ : Place) : Pop :=
  { p with arrived := if p.arrived.contains at_ then p.arrived else p.arrived ++ [at_] }
/-- `phase` (R187): the thread arrives once every earlier store of it has reached its entries, its records or memory. A slot that holds
no population has no other member to wait for. -/
def execPhase (s : State) : Out :=
  seq s (do
    check (!s.isSup && !s.me.opt) .illop (BitVec.ofNat 64 wordPhase)
    match s.myPop with
    | none => .ok s
    | some p =>
      let join : Act State :=
        waitFor ((s.modPop p.id fun q => q.arrive s.cur).modMe fun t => { t with prog := .arrived p.phase }) (.phaseOver p.id p.phase)
      match s.me.prog with
      | .arrived g => if p.phase ≠ g then .ok s else join
      | _ => if s.storing s.cur then waitFor s .stored else join)

end Sys2Proof.Machine
end

