-- ==== Sys2Proof/Machine/System.lean ====
section
/-! DEFINITION. The system instructions that touch one slot: `nop`, `halt`, `yield`, `trap`, `brk`, `tsc`, `valloc`,
`vfree`, and what a fetch that fails and a word that does not decode do (08_slots R137, R138, R147, 04_registers
R73, 20_counters R332, 02_encoding R30, R43). -/

namespace Sys2Proof.Machine

/-- Goes on in a tenant slot; slot 15 traps ILLOP with the instruction word (08_slots R365). -/
def State.tenantOnly (s : State) (word : Nat) : Act Unit := check (!s.isSup) .illop (BitVec.ofNat 64 word)

/-- `nop` (R137). -/
def execNop (s : State) : Out := seq s (.ok s)
/-- `halt`: DONE, or HELD where the thread has begun an event (R138). -/
def execHalt (s : State) : Out :=
  finish s (do
    s.tenantOnly wordHalt
    .ok ((s.advance (s.me.pc + 4)).haltThread s.cur))
/-- `yield`: the slot counts as not ready at the next cycle that it owns (R135, R137). -/
def execYield (s : State) : Out :=
  seq s (do
    s.tenantOnly wordYield
    .ok (s.modMe fun t => { t with yielded := true }))
/-- `trap`: SYSCALL (R147). -/
def execTrap (a : XReg) (c : BitVec 8) (s : State) : Out :=
  finish s (do
    s.tenantOnly (wordTrap a c)
    trapSub .syscall c.toNat (s.x a))
/-- `brk`: BRKPT (R147). -/
def execBrk (c : BitVec 12) (s : State) : Out :=
  finish s (do
    s.tenantOnly (wordBrk c)
    trap .brkpt (c.setWidth 64))
/-- `tsc` (R332). -/
def execTsc (d : XReg) (s : State) : Out := seq s (.ok (s.setX d s.tscNow))

/-! ### Vector registers -/

/-- The grant order with this slot's request, which keeps the place of its issue; slot 15's comes first
(04_registers R73). -/
def Core.request (k : Core) (i : SlotId) (n : Nat) : Core :=
  if k.grants.any (fun g => g.1 == i) then k
  else if i.val = 15 then { k with grants := (i, n) :: k.grants }
  else { k with grants := k.grants ++ [(i, n)] }
/-- Whether the request of slot `i` for `n` registers is granted (04_registers R73). -/
def Core.granted (k : Core) (i : SlotId) (n : Nat) : Bool :=
  (k.grants.head?.map Prod.fst) == some i && decide (n ≤ k.freeVectors)
/-- The request of slot `i` leaves the grant order. -/
def Core.unrequest (k : Core) (i : SlotId) : Core := { k with grants := k.grants.filter fun g => g.1 != i }
/-- `n` registers, each 0, and m1-m7 all ones (04_registers R73). -/
def Slot.bindVectors (t : Slot) (n : Nat) : Slot :=
  { t with v := List.replicate n 0, m := (Vector.replicate 8 (BitVec.allOnes 32)).set 0 0 }
/-- `valloc` (R73). -/
def execValloc (n : BitVec 12) (s : State) : Out :=
  let r := 16 * n.toNat
  seq s (do
    check (s.me.vcnt = 0) .vreg (BitVec.ofNat 64 s.me.vcnt)
    let t := s.modMyCore fun k => k.request s.cur.slot r
    if t.myCore.granted s.cur.slot r then
      .ok ((t.modMyCore fun k => k.unrequest s.cur.slot).modMe fun q => q.bindVectors r)
    else waitFor t (.regs r))
/-- `vfree` (R73). -/
def execVfree (s : State) : Out := seq s (.ok (s.modMe Slot.dropVectors))

/-! ### Fetch and decode failures -/

/-- The checks of a fetch at the PC of the executing slot: the package offset of the word; TVAL of every trap is the PC
(02_encoding R30). -/
def State.fetchAt (s : State) : Act Nat := do
  let da ← s.translate s.me.pc .x 4
  match s.touchable s.me.pc da 4 true with
  | .error (.trap c sub _) => .error (.trap c sub s.me.pc)
  | .error e => .error e
  | .ok _ => .ok (da % 2 ^ 43)
/-- A fetch that fails traps as a load would, with the execute right in place of the read right; one that does
not fail leaves the device as it was (R30). -/
def execInstructionFetchFault (s : State) : Out := finish s (s.fetchAt.map fun _ => s)
/-- A word that does not decode traps ILLOP with the word (R43, R46). -/
def execIllegalInstruction (w : BitVec 32) (s : State) : Out := finish s (trap .illop (w.setWidth 64))

end Sys2Proof.Machine
end

