-- ==== Sys2Proof/Machine/Counter.lean ====
section
/-! DEFINITION. The Treasury, the schedule of ceiling changes that `clkq` reads, the TSC and the watchdog (20_counters
R330-R337, R342, 08_slots R155). -/

namespace Sys2Proof.Machine

/-! ### The Treasury -/

/-- The slot whose request was granted goes on from there (20_counters R336). -/
def State.grantAsk (s : State) (p : Place) : State := s.modSlot p fun t => { t with prog := .granted }
/-- The head of the queue of die `d` is granted while its estimate is at most TRSY; one above TRBUD only when
TRSY = TRBUD, which sets TRSY to 0 (20_counters R336). -/
def State.grantHeads (s : State) (d : Nat) : Nat → State
  | 0 => s
  | n + 1 =>
    let k := s.die d
    match k.asks with
    | [] => s
    | a :: rest =>
      if a.cost ≤ k.trsy.toNat ∨ (k.trbud.toNat < a.cost ∧ k.trsy = k.trbud) then
        ((s.modDie d fun k => { k with trsy := k.trsy - BitVec.ofNat 32 (min a.cost k.trsy.toNat), asks := rest,
                                       trgr := k.trgr + 1 }).grantAsk a.place).grantHeads d n
      else s
/-- A request of the executing thread for `n` nJ: granted at once, or in the queue (20_counters R336). -/
def State.askTreasury (s : State) (n : Nat) : State × Bool :=
  let d := s.myDie
  if d.asks.any (fun a => a.place == s.cur) then (s, false)
  else if d.asks = [] ∧ n ≤ d.trsy.toNat then
    (s.modMyDie fun d => { d with trsy := d.trsy - BitVec.ofNat 32 n, trgr := d.trgr + 1 }, true)
  else (s.modMyDie fun d => { d with asks := d.asks ++ [{ place := s.cur, cost := n }], trwt := d.trwt + 1 }, false)
/-- The allowance of a heavy command: from RES where it suffices, else from the Treasury (20_counters R335-R337). -/
def State.allowance (s : State) (n : Nat) : Act State :=
  if n = 0 then .ok s
  else if s.me.prog = .granted then .ok s
  else if n ≤ s.me.res then .ok (s.modMe fun t => { t with res := t.res - n })
  else
    let (t, yes) := s.askTreasury n
    if yes then .ok t else waitFor t .allowance
/-- `admit` (R337). -/
def execAdmitTake (a : XReg) (s : State) : Out :=
  let n := min (s.x a).toNat s.myDie.trbud.toNat
  seq s (
    if n = 0 then .ok s
    else
      let add (t : State) : State := t.modMe fun q => { q with res := q.res + n }
      if s.me.prog = .granted then .ok (add s)
      else
        let (t, yes) := s.askTreasury n
        if yes then .ok (add t) else waitFor t .allowance)
/-- `admit.end` (R337). -/
def execAdmitEnd (d : XReg) (s : State) : Out :=
  seq s (.ok ((s.returnRes s.cur).setX d (BitVec.ofNat 64 s.me.res)))
/-- TREASURY_REFILL: at a TSC multiple of 1,000, TRSY ← TRBUD, and the queue is served, but while issue is held (R335, R336,
23_system R360). -/
def execTreasuryRefill (d : DieId) (s : State) : Out :=
  .next (if (s.die d.val).tsc.toNat % 1000 = 0 then
    let t := s.modDie d.val fun k => { k with trsy := k.trbud }
    if s.still then t else t.grantHeads d.val (s.die d.val).asks.length
  else s)

/-! ### Ceiling changes, time and the watchdog -/

/-- `clkq` (R342). -/
def execClkq (d a : XReg) (s : State) : Out :=
  seq s (.ok (s.setX d
    (match s.myDie.sched[(s.x a).toNat]? with
     | some e => BitVec.ofNat 64 (e.1.toNat / 1000 * 2 ^ 16 + e.2.toNat)
     | none => 0)))
/-- The source number of a core of the package in a stamp (R331). -/
def State.coreSource (s : State) (c : CoreId) : Nat := s.pkg * 2 ^ 11 + c.val
/-- The source number of a service core (R331). -/
def State.serviceSource (s : State) (n : Nat) : Nat := s.pkg * 2 ^ 11 + 1024 + n
/-- The source number of the command front end (R331). -/
def State.frontSource (s : State) : Nat := s.pkg * 2 ^ 11 + 1088
/-- The order of two stamps, each a TSC and a source number (R331). -/
def stampBefore (a b : Word × Nat) : Bool := decide (a.1.toNat < b.1.toNat ∨ (a.1 = b.1 ∧ a.2 < b.2))
/-- Whether an unhalted thread of a population occupies a slot (08_slots R149). -/
def State.occupied (s : State) (id : BitVec 32) : Bool :=
  s.cores.any fun c => tenantSlots.any fun i =>
    let t := c.2.slots[i.val]
    t.popid == id && t.state != .free && t.state != .done
/-- The counts by which the TSC of a die advances in a nanosecond that asks for `n`: none or two at most once in 1,000
(R331). -/
def Die.counts (k : Die) (n : Nat) : Nat := if n = 1 ∨ 1000 ≤ k.steady then n else 1
/-- The least TSC of the package's dies. -/
def State.leastTsc (s : State) : Nat := (List.range 8).foldl (fun m d => min m (s.die d).tsc.toNat) (s.die 0).tsc.toNat
/-- The time in which no unhalted thread of its population occupies a slot, or in which issue is held, passes a watchdog entry by
(08_slots R149, 23_system R360). -/
def State.passIdle (s : State) (d n : Nat) : State :=
  { s with cores := s.cores.map fun c =>
      if dieOf c.1 = d then
        (c.1, { c.2 with watch := c.2.watch.map fun e =>
            if e.v && (s.still || !s.occupied e.pop) then { e with idle := e.idle + BitVec.ofNat 64 n } else e })
      else c }
/-- TIME_STAMP_COUNTER_TICK: a nanosecond of die `d`, in which the TSC advances by one, or by none or two as domain
synchronisation requires; the dies stay within 10 ns of the domain's reference, so within 20 ns of one another (R331). -/
def execTimeStampCounterTick (d : DieId) (n : Fin 3) (s : State) : Out :=
  let m := (s.die d.val).counts n.val
  .next (
    if s.leastTsc + 20 < (s.die d.val).tsc.toNat + m then s
    else (s.modDie d.val fun k =>
      { k with tsc := k.tsc + BitVec.ofNat 64 m, steady := if m = 1 then min 1000 (k.steady + 1) else 0 }).passIdle d.val m)
/-- WATCHDOG: entry `i` has heard no pulse for the window (R155, R330). The window does not advance while no
unhalted thread of the population occupies a slot (R149). -/
def execWatchdog (c : CoreId) (i : Fin 15) (s : State) : Out :=
  if s.still then .next s else
  let k := s.core c.val
  let e := k.watch[i.val]
  let now := (s.die (dieOf c.val)).tsc
  .next (
    if !e.v || e.win == 0 || !s.occupied e.pop then s
    else if 1000 * e.win.toNat ≤ now.toNat - e.last.toNat - e.idle.toNat then
      (s.modCore c.val fun k => { k with watch := k.watch.set i.val { e with last := now, win := k.wdwin, idle := 0 }, fires := k.fires + 1 }).raiseEvent
        c.val .watchdog 0 (e.pop.setWidth 64)
    else s)
/-- The slot in which an INTR of the timer is taken (08_slots R143). DESIGN CHOICE: a slot that has an INTR due at its next boundary is
passed over (notes/assumptions/90). -/
def Core.timerSlot (k : Core) : Option SlotId :=
  tenantSlots.find? fun i =>
    let t := k.slots[i.val]
    (t.state == .ready || t.state == .stalled || (t.state == .wait && t.mint.isSome)) && t.intr == none
/-- Whether a slot stands at an instruction boundary with nothing of an earlier instruction to come (08_slots R140, R141,
07_vector R117). -/
def State.atBoundary (s : State) (p : Place) : Bool := (s.slotAt p).state == .ready && !(s.slotAt p).released && !s.flagsOut p
/-- A boundary trap INTR of the slot at `p`: taken at once between two instructions, else at the next boundary
(08_slots R141). -/
def State.interrupt (s : State) (p : Place) (sub : Nat) : State :=
  if s.atBoundary p then s.park p .intr sub true 0 (s.slotAt p).pc
  else s.modSlot p fun t => { t with intr := some sub }
/-- TIMER_DEADLINE: INTR, at the lowest-numbered slot that qualifies or as a core event; the deadline is cleared
(04_registers R79, 08_slots R143). -/
def execTimerDeadline (c : CoreId) (s : State) : Out :=
  let k := s.core c.val
  .next (
    if k.timer = 0 ∨ (s.die (dieOf c.val)).tsc.toNat < k.timer.toNat then s
    else
      let t := s.modCore c.val fun k => { k with timer := 0 }
      match k.timerSlot with
      | some i => t.interrupt { core := c, slot := i } 0
      | none => t.raiseEvent c.val .intr 0 0)

end Sys2Proof.Machine
end

