-- ==== Sys2Proof/Machine/Branch.lean ====
section
/-! DEFINITION. The branches: BR, BDEC, CALL and JR (06_scalar R112-R114, 02_encoding R38). -/

namespace Sys2Proof.Machine

/-- An instruction that ends with the state and the next PC that `r` gives. -/
def jump (s : State) (r : Act (State × Word)) : Out := finish s (r.map fun t => t.1.retire t.2)
/-- The address of the next instruction. -/
def State.nextPc (s : State) : Word := s.me.pc + 4
/-- The target of a displacement in instructions (02_encoding R38). -/
def State.target {n : Nat} (s : State) (i : BitVec n) : Word := s.me.pc + 4 + 4 * i.signExtend 64
/-- The test of format B: Pred(p), or its negation (02_encoding R38). -/
def State.testB (s : State) (p : PReg) (n : Bool) : Bool := s.pred p != n
/-- The target of a jump through a register; a misaligned one traps ALIGN (02_encoding R30, 06_scalar R113). -/
def jumpTarget (t : Word) : Act Word := do
  check (t.toNat % 4 = 0) .align t
  .ok t

/-- `br` (R112). -/
def execBr (p : PReg) (n : Bool) (i : BitVec 18) (s : State) : Out :=
  jump s (.ok (s, if s.testB p n then s.target i else s.nextPc))
/-- `bdec`: xa is decremented before it is tested (R112). -/
def execBdec (p : PReg) (n : Bool) (a : XReg) (i : BitVec 18) (s : State) : Out :=
  jump s (.ok (s.setX a (s.x a - 1), if s.x a - 1 ≠ 0 ∧ s.testB p n then s.target i else s.nextPc))
/-- `call`: x15 ← PC + 4 (R112). -/
def execCall (i : BitVec 18) (s : State) : Out := jump s (.ok (s.setX 15 s.nextPc, s.target i))
/-- `jmp` (R113). -/
def execJmp (a : XReg) (s : State) : Out := jump s ((jumpTarget (s.x a)).map fun t => (s, t))
/-- `callr`: the target is read before x15 is written (R113). -/
def execCallr (a : XReg) (s : State) : Out := jump s ((jumpTarget (s.x a)).map fun t => (s.setX 15 s.nextPc, t))
/-- `ret` (R113). -/
def execRet (s : State) : Out := jump s ((jumpTarget (s.x 15)).map fun t => (s, t))

end Sys2Proof.Machine
end

