-- ==== Sys2Proof/Machine/Group.lean ====
section
/-! DEFINITION. The group clock ceiling: limits, raises, membership and heartbeats (20_counters R338-R342).
A control write that raises a limit is a LIMIT whose effective time is the round it names (notes/assumptions/13). -/

namespace Sys2Proof.Machine

/-- The current round, from the TSC of die 0 (20_counters R338). -/
def State.round (s : State) : Nat := s.time.toNat / 1000000
/-- The limit of a member in force at a TSC (20_counters R339). -/
def Member.at_ (m : Member) (t : Nat) : BitVec 16 :=
  m.changes.foldl (fun l c => if c.1.toNat ≤ t then c.2 else l) m.limit
/-- The last limit of a member that has an effective time. -/
def Member.settled (m : Member) : BitVec 16 := (m.changes.getLast?.map Prod.snd).getD m.limit
/-- The members in force, this package first (20_counters R338, R340). -/
def Group.inForce (g : Group) : List Member := g.self :: g.others
/-- The least of the limits, and 1,200 while a member is silent, under the cap that the raise rule has not
released (20_counters R339, R340). -/
def Group.ceiling (g : Group) (t : Nat) : BitVec 16 :=
  let l := g.inForce.foldl (fun a m => if (m.at_ t).ult a then m.at_ t else a) 3300
  let l := if g.others.any Member.silent && (1200 : BitVec 16).ult l then 1200 else l
  match g.cap with
  | none => l
  | some c => (match g.capUntil with
    | some u => if u.toNat ≤ t then l else if c.ult l then c else l
    | none => if c.ult l then c else l)
/-- CLKC of every die at its TSC (20_counters R339). -/
def State.applyCeiling (s : State) : State :=
  (List.range 8).foldl (fun t d => t.modDie d fun k => { k with clkc := s.group.ceiling k.tsc.toNat }) s
/-- A pending change at TSC `e` is in the schedule of every die, which holds at most 16 entries by effective time
(20_counters R342). -/
def State.schedule16 (s : State) (e : Nat) : State :=
  let entry := (BitVec.ofNat 64 e, s.group.ceiling e)
  let ins (l : List (Word × BitVec 16)) : List (Word × BitVec 16) :=
    let l := l.filter fun x => x.1.toNat != e
    (l.filter (fun x => x.1.toNat < e) ++ [entry] ++
      (l.filter (fun x => e < x.1.toNat)).map fun x => (x.1, s.group.ceiling x.1.toNat)).take 16
  (List.range 8).foldl (fun t d => t.modDie d fun k => { k with sched := ins k.sched }) s
/-- A control write of this package to a group (20_counters R338). -/
def State.sendTo (s : State) (gid : BitVec 16) (kind mhz time : Nat) : State :=
  let bytes := toBytes 2 gid.toNat ++ toBytes 1 kind ++ toBytes 1 0 ++ toBytes 2 mhz ++ toBytes 2 s.pkg ++ toBytes 8 time ++ toBytes 16 0
  { s with group := { s.group with sent := bytes :: s.group.sent } }
/-- The group that this package's limits and acknowledgements go to: the one that it is in force in, else the one that it joins
(20_counters R338, R340; notes/assumptions/13). -/
def Group.talksTo (g : Group) : Option (BitVec 16) := if g.self.in_ then some g.self.gid else (g.self.pend.filterMap Prod.snd).getLast?
/-- A control write to that group: nothing leaves a package that is alone. -/
def State.sendGroup (s : State) (kind mhz time : Nat) : State :=
  match s.group.talksTo with | some d => s.sendTo d kind mhz time | none => s
/-- The package id as a group member. -/
def State.pkg16 (s : State) : BitVec 16 := BitVec.ofNat 16 s.pkg
/-- The first round boundary by which every acknowledgement is in: the named round, or the next one (20_counters
R339). -/
def State.boundary (s : State) (round : Nat) : Nat := max round (s.round + 1) * 1000000
/-- Whether every member in force but the raiser has acknowledged (20_counters R339). -/
def Group.allAcked (g : Group) (self : BitVec 16) (raiser : BitVec 16) (acks : List (BitVec 16)) : Bool :=
  (self == raiser || acks.contains self) &&
  (g.others.filter fun m => m.pkg != raiser).all fun m => acks.contains m.pkg
/-- The raise of a member takes effect at a boundary once every member has acknowledged it. -/
def State.tryRaise (s : State) (m : Member) : Member × Option Nat :=
  match m.raise with
  | none => (m, none)
  | some (l, r) =>
    if s.group.allAcked s.pkg16 m.pkg m.acks then
      let e := s.boundary r.toNat
      ({ m with raise := none, acks := [], changes := m.changes ++ [(BitVec.ofNat 64 e, l)] }, some e)
    else (m, none)
/-- Every raise, and the cap, that the acknowledgements heard so far complete (20_counters R339, R340). -/
def State.settleRaises (s : State) : State :=
  let g := s.group
  let self := s.tryRaise { g.self with pkg := s.pkg16 }
  let others := g.members.map s.tryRaise
  let until_ : Option Word :=
    if g.cap.isSome && g.capUntil == none && g.allAcked s.pkg16 s.pkg16 g.capAcks then
      some (BitVec.ofNat 64 (s.boundary g.capRound.toNat)) else none
  let t := { s with group := { g with self := self.1, members := others.map Prod.fst, capUntil := g.capUntil.or until_ } }
  let times := (self.2 :: others.map Prod.snd ++ [until_.map BitVec.toNat]).filterMap id
  times.foldl (fun t e => t.schedule16 e) t
/-- Whether an acknowledgement that names round `a` counts for a ceiling held down since the round before `r`: members find out
about a leave or an expulsion within one round of each other (20_counters R340, R341; notes/assumptions/13). -/
def capCounts (r a : Nat) : Bool := decide (r ≤ a + 1)
/-- The ceiling is held at its present value until the raise rule releases it; acknowledgements that came first count. After a leave or
an expulsion every member holds its own and acknowledges; the end of a silence is announced as a raise, which every member
acknowledges, the one that was silent too (20_counters R339-R341; notes/assumptions/13). -/
def State.capCeiling (s : State) (c : BitVec 16) (announce : Bool := false) : State :=
  let r := s.round + 1
  let acks := (s.group.heard.filter fun a => capCounts r a.2.toNat).map Prod.fst
  let t := { s with group := { s.group with cap := some c, capRound := BitVec.ofNat 64 r, capAcks := acks, capUntil := none } }
  (if announce then t.sendGroup 1 s.group.self.settled.toNat (r * 1000000) else t.sendGroup 2 0 r).settleRaises

/-! ### The package's own limit -/

/-- The package's limit: the lesser of CLKL and its own control's, clamped to 1,200-3,300 (20_counters R339). -/
def State.limitNow (s : State) : BitVec 16 :=
  BitVec.ofNat 16 (max 1200 (min 3300 (min (s.die 0).clkl.toNat s.group.own.toNat)))
/-- A change of the package's limit: a LIMIT with an effective time where it falls, from the limit in force or from one whose raise waits,
and a raise where it rises (20_counters R339). -/
def State.relimit (s : State) : State :=
  let g := s.group
  let new := s.limitNow
  let old := g.self.settled
  if new.ult old || (new == old && g.self.raise.isSome) then
    let e := (s.time.toNat + 100000 + 999) / 1000 * 1000
    let self := { g.self with changes := g.self.changes ++ [(BitVec.ofNat 64 e, new)], raise := none, acks := [] }
    (({ s with group := { g with self := self } } : State).sendGroup 1 new.toNat e).schedule16 e
  else if old.ult new then
    let r := s.round + 1
    let self := { g.self with raise := some (new, BitVec.ofNat 64 r), acks := [] }
    (({ s with group := { g with self := self } } : State).sendGroup 1 new.toNat (r * 1000000)).settleRaises
  else s
/-- CLKL ← v in every die's register, and the announcement (04_registers R80, 20_counters R339). -/
def State.writeClkl (s : State) (v : Word) : State :=
  ((List.range 8).foldl (fun t d => t.modDie d fun k => { k with clkl := v.setWidth 16 }) s).relimit
/-- CLKL_WRITE (R80, R339). -/
def execClklWrite (v : Word) (s : State) : Out := .next (s.writeClkl v)
/-- The limit of the package's own thermal and power control (20_counters R339). -/
def State.setOwn (s : State) (mhz : BitVec 16) : State := ({ s with group := { s.group with own := mhz } } : State).relimit
/-- THERMAL_POWER_LIMIT_CHANGE (R339). -/
def execThermalPowerLimitChange (mhz : BitVec 16) (s : State) : Out := .next (s.setOwn mhz)

/-! ### Control writes of the group -/

/-- Whether a control write counts: this package is in force in its group or joins it, and the fields hold (20_counters R338). -/
def State.hears (s : State) (g : GroupMsg) : Bool :=
  ((s.group.self.in_ && g.gid == s.group.self.gid) || s.group.self.pend.any fun e => e.2 == some g.gid) && g.pad && g.src != s.pkg16
/-- The members with member `src` changed by `f`. A package not known yet starts at 1,200 MHz, in force but where it joins; one that was
expelled or has left is no member again before it joins (20_counters R340, R341; notes/assumptions/13). -/
def Group.modMember (g : Group) (m : GroupMsg) (now : Word) (joins : Bool) (f : Member → Member) : Group :=
  if g.members.any fun k => k.pkg == m.src then { g with members := g.members.map fun k => if k.pkg == m.src then f k else k }
  else if g.out.contains m.src && !joins then g
  else { g with members := g.members ++ [f { Member.start m.src m.gid 1200 now with in_ := !joins }], out := g.out.filter (· != m.src) }
/-- A LIMIT is heard: a fall is scheduled at its effective time; a raise is acknowledged, and so is a limit that stays (R339, R341;
notes/assumptions/13). -/
def State.groupLimit (s : State) (g : GroupMsg) : State :=
  if !s.hears g then s
    else
      let old := ((s.group.members.find? fun m => m.pkg == g.src).map Member.settled).getD 1200
      if !g.mhz.ult old then
        let r := BitVec.ofNat 64 (g.time.toNat / 1000000)
        let acks := s.pkg16 :: (s.group.heard.filter fun a => a.2 == r).map Prod.fst
        let t := { s with group := s.group.modMember g s.time false fun m => { m with raise := some (g.mhz, r), acks } }
        (t.sendGroup 2 0 r.toNat).settleRaises
      else
        ({ s with group := s.group.modMember g s.time false fun m =>
            { m with changes := m.changes ++ [(g.time, g.mhz)], raise := none, acks := [] } } : State).schedule16 g.time.toNat
/-- GROUP_LIMIT. -/
def execGroupLimit (g : GroupMsg) (s : State) : Out := .next (s.groupLimit g)
/-- An ACK is heard: it is counted toward every raise that names its round, heard already or not (R339). -/
def State.groupAck (s : State) (g : GroupMsg) : State :=
  if !s.hears g then s
    else
      let note (m : Member) : Member := match m.raise with
        | some (_, r) => if r = g.time then { m with acks := g.src :: m.acks } else m
        | none => m
      let k := s.group
      let k := { k with self := note k.self, members := k.members.map note,
                        heard := (g.src, g.time) :: k.heard.filter (fun a => decide (s.round ≤ a.2.toNat)),
                        capAcks := if k.cap.isSome && capCounts k.capRound.toNat g.time.toNat then g.src :: k.capAcks else k.capAcks }
      ({ s with group := k } : State).settleRaises
/-- GROUP_ACK. -/
def execGroupAck (g : GroupMsg) (s : State) : Out := .next (s.groupAck g)
/-- A JOIN is heard: the member counts from its round on (R340). -/
def State.groupJoin (s : State) (g : GroupMsg) : State :=
  if s.hears g then
    { s with group := s.group.modMember g s.time true fun m => { m with pend := m.pend ++ [(g.time, some g.gid)] } } else s
/-- GROUP_JOIN. -/
def execGroupJoin (g : GroupMsg) (s : State) : Out := .next (s.groupJoin g)
/-- A LEAVE is heard: the member runs alone from its round on (R340). -/
def State.groupLeave (s : State) (g : GroupMsg) : State :=
  if s.hears g then
    { s with group := s.group.modMember g s.time false fun m => { m with pend := m.pend ++ [(g.time, none)] } } else s
/-- GROUP_LEAVE. -/
def execGroupLeave (g : GroupMsg) (s : State) : Out := .next (s.groupLeave g)
/-- A BEAT is heard: the member is heard, and its silence ends, after which the ceiling rises under the raise rule (R341). -/
def State.groupBeat (s : State) (g : GroupMsg) : State :=
  if !s.hears g then s
    else
      let was := s.group.others.any fun m => m.pkg == g.src && m.silent
      let t := { s with group := s.group.modMember g s.time false fun m => { m with beat := s.time, silent := false } }
      if was then t.capCeiling (s.group.ceiling s.time.toNat) true else t
/-- GROUP_BEAT. -/
def execGroupBeat (g : GroupMsg) (s : State) : Out := .next (s.groupBeat g)
/-- A control write of 32 bytes reaches the package (R338). -/
def State.controlWrite (s : State) (bs : List Byte) : State :=
  let v := ofBytes bs
  let g : GroupMsg := { gid := BitVec.ofNat 16 v, mhz := BitVec.ofNat 16 (v / 2 ^ 32), src := BitVec.ofNat 16 (v / 2 ^ 48),
                        time := BitVec.ofNat 64 (v / 2 ^ 64), pad := bits v 24 8 == 0 && bits v 128 128 == 0 }
  match bits v 16 8 with
  | 1 => s.groupLimit g
  | 2 => s.groupAck g
  | 3 => s.groupJoin g
  | 4 => s.groupLeave g
  | 5 => s.groupBeat g
  | _ => s

/-! ### Heartbeats and membership -/

/-- BEAT_SEND: each member in force sends a BEAT every 100 µs (R341). -/
def execBeatSend (s : State) : Out :=
  .next (
    if s.group.self.in_ ∧ 100000 ≤ s.time.toNat - s.group.lastBeat.toNat then
      { s.sendGroup 5 0 0 with group := { (s.sendGroup 5 0 0).group with lastBeat := s.time } }
    else s)
/-- MEMBER_SILENT: no BEAT for 500 µs counts the member in SILENT, and the floor applies at once (R341). -/
def execMemberSilent (pkg : BitVec 16) (s : State) : Out :=
  .next (
    if s.group.others.any fun m => m.pkg == pkg && !m.silent &&
        decide (500000 ≤ s.time.toNat - m.beat.toNat) then
      ({ s with group := { s.group with members := s.group.members.map fun m =>
          if m.pkg == pkg then { m with silent := true } else m } } : State).applyCeiling
    else s)
/-- MEMBER_EXPEL: a member silent for 5 ms is expelled, and GROUPX is posted (R341, R356). -/
def execMemberExpel (pkg : BitVec 16) (s : State) : Out :=
  .next (
    if s.group.others.any fun m => m.pkg == pkg && m.silent && decide (5000000 ≤ s.time.toNat - m.beat.toNat) then
      let c := s.group.ceiling s.time.toNat
      let t := { s with group := { s.group with members := s.group.members.filter (fun m => m.pkg != pkg),
                                                out := pkg :: s.group.out, expel := s.group.expel + 1 } }
      (t.post 1 pkg.toNat).capCeiling c
    else s)
/-- CEILING_CHANGE: the due entries leave the schedule of the die, and CLKC is the ceiling in force (R339, R342). -/
def execCeilingChange (d : DieId) (s : State) : Out :=
  .next (s.modDie d.val fun k =>
    { k with sched := k.sched.filter (fun e => k.tsc.toNat < e.1.toNat), clkc := s.group.ceiling k.tsc.toNat })
/-- A store to word 0 of the clock block: GID, and a request to join or to leave at RND + 2, unless the package is in that group, or in
none, once its requests have taken effect. DESIGN CHOICE: a package that joins one group out of another leaves that one in the same
round, and says so to it (R338, R340; notes/assumptions/13). -/
def State.storeReq (s : State) (v : Word) : State :=
  let g := { s.group with gid := v.setWidth 16 }
  let want : Option (BitVec 16) := if v.getLsbD 63 then some g.gid else none
  let eff := s.round + 2
  if want = g.aim then { s with group := g }
  else
    let t : State := { s with group := { g with eff := BitVec.ofNat 48 eff, self := { g.self with pend := g.self.pend ++ [(BitVec.ofNat 64 eff, want)] } } }
    let t := match g.aim with | some old => t.sendTo old 4 0 eff | none => t
    match want with | some d => t.sendTo d 3 0 eff | none => t
/-- GROUP_REQ_STORE (R338, R340). -/
def execGroupReqStore (v : Word) (s : State) : Out := .next (s.storeReq v)
/-- A member once the joins and leaves up to a round have taken effect, in order (R340). -/
def Member.effect (m : Member) (round : Nat) (now : Word) : Member :=
  (m.pend.filter fun e => decide (e.1.toNat ≤ round)).foldl (fun m e => match e.2 with
      | some d => { m with in_ := true, gid := d, beat := now, silent := false }
      | none => { m with in_ := false, silent := false })
    { m with pend := m.pend.filter fun e => decide (round < e.1.toNat) }
/-- The group once they have; a package that has left is known no more, and a package that is alone knows nobody (R340). -/
def Group.effect (g : Group) (round : Nat) (now : Word) : Group :=
  let self := g.self.effect round now
  let all := g.members.map fun m => m.effect round now
  let stays (m : Member) : Bool := m.in_ || m.pend != []
  if self.in_ || self.pend != [] then
    { g with self, members := all.filter stays, out := g.out ++ (all.filter fun m => !stays m).map Member.pkg }
  else { g with self, members := [], out := [] }
/-- MEMBERSHIP_EFFECT: joins and leaves whose round has come take effect; a ceiling that a leave raises rises under
the raise rule (R340). -/
def execMembershipEffect (s : State) : Out :=
  let g := s.group.effect s.round s.time
  let t : State := { s with group := g }
  let left := s.group.others.any fun m => !g.others.any fun k => k.pkg == m.pkg
  .next (if g = s.group then s else (if left then t.capCeiling (s.group.ceiling s.time.toNat) else t).applyCeiling)

end Sys2Proof.Machine
end

