-- ==== Sys2Proof/Machine/Creg.lean ====
section
/-! DEFINITION. Reads and writes of the control registers (04_registers R75-R82), and the invalidation of
translation caches (R80, 18_tables R309). -/

namespace Sys2Proof.Machine

/-- Whether a tenant slot's `crd` and `crw` of the register trap PRIV (04_registers R75, 02_encoding R44). -/
def privileged (r : Cr) : Bool :=
  match r with
  | .pc | .ts | .frm | .fflags | .vcnt | .prvb | .prvl | .lvt | .evsb | .evsl | .evid | .popid | .slot | .core | .pkg
  | .thidx | .gvt | .vtdom | .tsc | .clkc | .trsy | .admw | .escn | .rolls | .annih => false
  | _ => true
/-- A link status register (04_registers R81). -/
def LinkPort.status (k : LinkPort) : Nat :=
  k.txs.toNat + 2 * k.rxs.toNat + 4 * k.swp.toNat + 8 * k.keys[0].loaded.toNat + 16 * k.keys[1].loaded.toNat + 32 * k.up.toNat
/-- XINV (04_registers R80). -/
def Die.xinv (d : Die) : Nat := d.xscope.toNat + 2 ^ 4 * d.xpart.val + 2 ^ 12 * d.xpage.toNat + 2 ^ 63 * d.xbusy.toNat
/-- The whole value of a control register, as the executing slot reads it (04_registers R76-R82). -/
def State.cr (s : State) (r : Cr) : Word :=
  let t := s.me
  let k := s.myCore
  let d := s.myDie
  match r with
  | .pc => t.pc
  | .ts => t.ts
  | .tcause => k.trap.tcause
  | .tval => k.trap.tval
  | .tpc => k.trap.tpc
  | .tts => k.trap.tts
  | .frm => t.frm.setWidth 64
  | .fflags => t.fflags.setWidth 64
  | .vcnt => BitVec.ofNat 64 t.vcnt
  | .prvb => t.prvb
  | .prvl => t.prvl
  | .lvt => t.lvt.setWidth 64
  | .evsb => t.evsb
  | .evsl => t.evsl
  | .evid => t.evid.setWidth 64
  | .popid => t.popid.setWidth 64
  | .slot => BitVec.ofNat 64 s.cur.slot.val
  | .core => BitVec.ofNat 64 s.myId
  | .pkg => BitVec.ofNat 64 s.pkg
  | .thidx => t.thidx.setWidth 64
  | .ttb => k.ttb
  | .mbt => k.mbt
  | .ulogb => k.ulogb
  | .ulogl => k.ulogl
  | .slogb => k.slogb
  | .slogl => k.slogl
  | .mxw => k.weight.setWidth 64
  | .phbuf => k.phbuf
  | .partmap => k.partmap
  | .timer => k.timer
  | .wdwin => k.wdwin.setWidth 64
  | .fwd => BitVec.ofNat 64 (k.fwdTo.toNat + 2 ^ 63 * k.fwdV.toNat)
  | .gvt => d.gvt.setWidth 64
  | .vtdom => BitVec.ofNat 64 (d.dom.toNat + 2 ^ 16 * d.domV.toNat)
  | .tsc => d.tsc
  | .clkc => d.clkc.setWidth 64
  | .clkl => d.clkl.setWidth 64
  | .trsy => d.trsy.setWidth 64
  | .admw => BitVec.ofNat 64 (d.asks.length % 2 ^ 16)
  | .escn => BitVec.ofNat 64 (d.escrow.length % 2 ^ 13)
  | .rolls => d.rolls
  | .annih => d.annih
  | .gvtr => d.gvtr.setWidth 64
  | .xinv => BitVec.ofNat 64 d.xinv
  | .lkc0 p => ((s.port p.val).lkc[0]).setWidth 64
  | .lkc1 p => ((s.port p.val).lkc[1]).setWidth 64
  | .lkth p => (s.port p.val).lkth.setWidth 64
  | .lkaf p => (s.port p.val).lkaf.setWidth 64
  | .lkrt p => (s.port p.val).lkrt.setWidth 64
  | .lksta p => BitVec.ofNat 64 (s.port p.val).status
  | .ctxsc => (SMap.get KeyEntry.reset s.keys k.keySel.toNat).sc
/-- FFLAGS waits for the flags of the thread's posted float atomics (07_vector R117, 10_access R183). -/
def State.crReady (s : State) (r : Cr) : Act Unit :=
  if r = .fflags then needFlags s (s.flagsOut s.cur) s.cur else .ok ()
/-- `crd` (R76). -/
def execCrd (d : XReg) (r : Cr) (s : State) : Out :=
  seq s (do
    check (!privileged r || s.isSup) .priv (BitVec.ofNat 64 (wordCrd d r))
    s.crReady r
    .ok (s.setX d (s.cr r)))

/-! ### Writes -/

/-- The executing thread ends its open event, and waits until GVT passes its LVT (15_messages R287). -/
def State.endEvent (s : State) : Act State :=
  let final := s.me.lvt.ult s.myDie.gvt
  if !s.me.opt then .ok s
  else if s.me.evo then
    let t := s.modMe fun t => { t with evo := false, range := none }
    if final then .ok t else waitFor (t.modMe fun t => { t with prog := .ended }) (.gvtAbove s.me.lvt)
  else if s.me.prog = .ended && !final then waitFor s (.gvtAbove s.me.lvt)
  else .ok s
/-- A write of PARTMAP leaves the nibbles of occupied slots unchanged (04_registers R79). -/
def Core.writePartmap (k : Core) (v : Word) : Core :=
  { k with partmap := BitVec.ofNat 64 ((tenantSlots.map fun i =>
      bits (if k.slots[i.val].state == .free then v.toNat else k.partmap.toNat) (4 * i.val) 4 * 2 ^ (4 * i.val)).sum) }
/-- A write of XINV: scopes 0-3 start an invalidation, a scope of 4-7 starts nothing (04_registers R80). -/
def Die.writeXinv (d : Die) (v : Word) : Die :=
  { d with xscope := v.setWidth 3, xpart := Fin.ofNat 8 (v.toNat / 16), xpage := BitVec.ofNat 45 (v.toNat / 2 ^ 12),
           xbusy := decide (bits v.toNat 0 3 < 4) }
/-- A `crw` of `v`, field by field (04_registers R76-R82). -/
def State.writeCr (s : State) (r : Cr) (v : Word) : Act State :=
  let lo (n : Nat) : Word := BitVec.ofNat 64 (v.toNat / 2 ^ n * 2 ^ n)
  let base : Word := BitVec.ofNat 64 (bits v.toNat 12 12 * 2 ^ 12)
  let log : Word := BitVec.ofNat 64 (bits v.toNat 3 21 * 2 ^ 3)
  let core (f : Core → Core) : Act State := .ok (s.modMyCore f)
  match r with
  | .ts => if v.getLsbD 0 then .ok (s.modMe fun t => { t with opt := true })
           else (s.endEvent).map fun s => s.modMe fun t => { t with opt := false }
  | .tcause => core fun k => { k with trap := { k.trap with tcause := BitVec.ofNat 64 (v.toNat % 2 ^ 21) } }
  | .tval => core fun k => { k with trap := { k.trap with tval := v } }
  | .tpc => core fun k => { k with trap := { k.trap with tpc := lo 2 } }
  | .tts => core fun k => { k with trap := { k.trap with tts := v } }
  | .frm => .ok (if v.toNat % 8 < 5 then s.modMe fun t => { t with frm := v.setWidth 3 } else s)
  | .fflags => .ok (s.modMe fun t => { t with fflags := t.fflags &&& ~~~(v.setWidth 5) })
  | .prvb => .ok (s.modMe fun t => { t with prvb := lo 6 })
  | .prvl => .ok (s.modMe fun t => { t with prvl := lo 6 })
  | .evsb => .ok (s.modMe fun t => { t with evsb := lo 3 })
  | .evsl => .ok (s.modMe fun t => { t with evsl := lo 3 })
  | .ttb => core fun k => { k with ttb := base }
  | .mbt => core fun k => { k with mbt := base }
  | .ulogb => if s.myCore.undo ≠ [] then waitFor s .undoEmpty else core fun k => { k with ulogb := log, undoAt := 0 }
  | .ulogl => if s.myCore.undo ≠ [] then waitFor s .undoEmpty else core fun k => { k with ulogl := log, undoAt := 0 }
  | .slogb => if s.myCore.sent ≠ [] then waitFor s .sentEmpty else core fun k => { k with slogb := log, sentAt := 0 }
  | .slogl => if s.myCore.sent ≠ [] then waitFor s .sentEmpty else core fun k => { k with slogl := log, sentAt := 0 }
  | .mxw => core fun k => if v.toNat % 16 = 0 then k else { k with weight := v.setWidth 4 }
  | .phbuf => if s.myCore.spill ≠ [] then waitFor s .spillEmpty
              else core fun k => { k with phbuf := BitVec.ofNat 64 (bits v.toNat 12 12 * 2 ^ 12 + bits v.toNat 32 8 * 2 ^ 32) }
  | .partmap => core fun k => k.writePartmap v
  | .timer => core fun k => { k with timer := v }
  | .wdwin => core fun k => { k with wdwin := v.setWidth 32 }
  | .fwd => core fun k => { k with fwdV := k.fwdV && !v.getLsbD 63 }
  | .clkl => .ok (s.writeClkl v)
  | .gvtr => .ok (s.modMyDie fun d => { d with gvtr := BitVec.ofNat 32 (max 100 (v.toNat % 2 ^ 32)) })
  | .xinv => if s.myDie.xbusy then waitFor s .xinvIdle else .ok (s.modMyDie fun d => d.writeXinv v)
  | .lkth p => .ok (s.modPort p.val fun k => { k with lkth := v.setWidth 48 })
  | _ => .ok s

/-! ### The steps that a `crw` starts -/

/-- TS_WRITE: a `crw` of TS by the thread of a slot, which is READY to execute it, with no rollback to come or under way; clearing OPT
ends an open event, and is complete once GVT has passed its LVT (R78, 15_messages R283, R287, 17_prog_pipeline R299, R300). -/
def execTsWrite (c : CoreId) (sl : SlotId) (opt : Bool) (s : State) : Out :=
  let p : Place := { core := c, slot := sl }
  let final := (s.slotAt p).lvt.ult (s.die (dieOf c.val)).gvt
  .next (s.modSlot p fun t =>
    if t.state != .ready || t.pending.isSome || t.antiOut != 0 then t
    else if opt then { t with opt := true }
    else if t.opt && t.evo then
      { t with evo := false, range := none, opt := !final, prog := if final then t.prog else .ended }
    else { t with opt := t.opt && t.prog == .ended && !final })
/-- XINV_START: a `crw` of XINV, which waits while BUSY = 1 (R80). -/
def execXinvStart (d : DieId) (v : Word) (s : State) : Out :=
  .next (if (s.die d.val).xbusy then s else s.modDie d.val fun k => k.writeXinv v)
/-- Whether an invalidation that die `d` has under way drops a cached entry: for scope 2, one that concerns the page as it was read, or a
range entry that concerns it as it stands now (04_registers R80, 18_tables R309; notes/assumptions/33). -/
def State.drops (s : State) (d : Die) (c : Cached) : Bool :=
  let page := d.xpage.toNat * 4096
  match d.xscope.toNat with
  | 0 => true
  | 1 => c.part == d.xpart
  | 2 => c.covers d.xpart.val page || (c.range && c.part == d.xpart && (rangeMap (s.rangeEntry c.part.val c.at_).toList page).isSome)
  | _ => c.part == d.xpart && c.range
/-- XINV_DONE: the caches of the die have dropped the entries, and BUSY clears (18_tables R309). -/
def execXinvDone (d : DieId) (s : State) : Out :=
  .next (if (s.die d.val).xbusy then
    s.modDie d.val fun k => { k with cache := k.cache.filter fun c => !s.drops k c, xbusy := false } else s)

end Sys2Proof.Machine
end

