-- ==== Sys2Proof/Machine/Tile.lean ====
section
/-! DEFINITION. The tile table, shape records, the TILE instructions and `brst` (11_matrix R190-R200, R207-R214,
R226, 18_tables R305, R306). -/

namespace Sys2Proof.Machine

/-! ### Shapes -/

/-- The digits of a format (01_device R15, 11_matrix R195). -/
def digits : Nat → Nat
  | 1 => 1 | 2 => 1 | 3 => 2 | 4 => 2 | 5 => 2 | 6 => 3 | 7 => 6 | 8 => 14 | _ => 1
/-- The bytes of a bit-plane segment (11_matrix R195). -/
def segBytes : Nat → Nat
  | 1 => 32 | 2 => 48 | 3 => 72 | 4 => 64 | 5 => 128 | 6 => 128 | 7 => 256 | 8 => 512 | _ => 0
/-- Whether a format is a PS format (11_matrix R195). -/
def isPs (f : Nat) : Bool := decide (1 ≤ f ∧ f ≤ 3)
/-- The bytes of a row-major element: 8 for f64, else 4 (11_matrix R198). -/
def elemBytes (f : Nat) : Nat := if f = 8 then 8 else 4
/-- The byte size of a shape (11_matrix R208). -/
def Shape.size (h : Shape) : Nat :=
  if h.rowMaj then h.vecs * h.len * elemBytes h.fmt else h.vecs * ((h.len + 63) / 64) * segBytes h.fmt
/-- Whether BLOCKS agrees with LEN (18_tables R306). -/
def Shape.blocksOk (h : Shape) : Bool := h.blocks == if isPs h.fmt then (h.len + 15) / 16 else 0
/-- The shape record that 32 bytes spell (18_tables R305). -/
def shapeOf (v : Nat) : Shape :=
  { fmt := bits v 0 4, rowMaj := bits v 4 1 == 1, rd := bits v 8 1 == 1, wr := bits v 9 1 == 1, valid := bits v 63 1 == 1,
    len := bits v 64 32, vecs := bits v 96 32, blocks := bits v 128 32 }
/-- A word of the entry of a partition (18_tables R303). -/
def State.partWord (s : State) (p w : Nat) : Nat := ((s.partition p).words.toList.getD w 0).toNat
/-- The package offset of shape record `i` of a partition (18_tables R305). -/
def State.shapeAt (s : State) (p i : Nat) : Nat := bits (s.partWord p 1) 12 44 * 2 ^ 12 % 2 ^ 43 + 32 * i
/-- The rights that a role needs (18_tables R305). -/
inductive ShapeRole where
  | source | dest | either
  deriving DecidableEq, Repr
/-- Whether a shape may be named in a role, with its index below SHCNT (18_tables R305). -/
def State.shapeOk (s : State) (p i : Nat) (role : ShapeRole) (h : Shape) : Bool :=
  decide (i < s.partWord p 6) && h.valid &&
  (match role with | .source => h.rd | .dest => h.wr | .either => h.rd || h.wr)
/-- Capture of a shape record for a role; a failure traps SHAPE with subcode 1 (18_tables R305, 02_encoding R52). -/
def State.shape (s : State) (i : Nat) (role : ShapeRole) : Act (Shape × State) := do
  let q := s.shapeAt s.me.part.val i
  let h := shapeOf (ofBytes (s.captured q 32))
  if s.shapeOk s.me.part.val i role h then .ok (h, s.keepCapture q 32)
  else trapSub .shape 1 (BitVec.ofNat 64 i)

/-! ### The tile table -/

/-- The states of a tile (11_matrix R191). -/
inductive TileState where
  | empty | filling | ready | draining
  deriving DecidableEq, Repr
/-- The code of a tile state. -/
def TileState.code : TileState → Nat
  | .empty => 0 | .filling => 1 | .ready => 2 | .draining => 3
/-- The tile state of a code. -/
def TileState.ofCode : Nat → TileState
  | 0 => .empty | 1 => .filling | 2 => .ready | _ => .draining
/-- A tile table entry (11_matrix R190); BASE in bytes, SIZE in units of 64 bytes. -/
structure Tile where
  base    : Nat
  size    : Nat
  shape   : Nat
  state   : TileState
  err     : Nat
  ring    : Bool
  memb    : Bool
  first   : Nat
  nm1     : Nat
  readers : Nat
  pend    : Nat
  part    : Nat
  v       : Bool
  mxf     : Bool
  pidx    : Nat
  cidx    : Nat
  owner   : Nat
  deriving DecidableEq, Repr

/-- An entry that the five words spell (11_matrix R190). -/
def tileOf (w0 w1 w2 w3 w4 : Nat) : Tile :=
  { base := bits w0 6 18 * 64, size := bits w0 24 18, shape := bits w0 48 16,
    state := TileState.ofCode (bits w1 0 2), err := bits w1 2 2, ring := bits w1 4 1 == 1, memb := bits w1 5 1 == 1,
    first := bits w1 6 6, nm1 := bits w1 12 4, readers := bits w1 16 8, pend := bits w1 24 8, part := bits w1 32 3,
    v := bits w1 35 1 == 1, mxf := bits w1 36 1 == 1, pidx := w2, cidx := w3, owner := bits w4 0 32 }
/-- The five words of an entry; Reserved bits are 0 (11_matrix R190). -/
def Tile.words (t : Tile) : List Nat :=
  [t.base / 64 % 2 ^ 18 * 2 ^ 6 + t.size % 2 ^ 18 * 2 ^ 24 + t.shape % 2 ^ 16 * 2 ^ 48,
   t.state.code + t.err % 4 * 4 + t.ring.toNat * 16 + t.memb.toNat * 32 + t.first % 64 * 64 + t.nm1 % 16 * 2 ^ 12 +
     t.readers % 256 * 2 ^ 16 + t.pend % 256 * 2 ^ 24 + t.part % 8 * 2 ^ 32 + t.v.toNat * 2 ^ 35 + t.mxf.toNat * 2 ^ 36,
   t.pidx % 2 ^ 64, t.cidx % 2 ^ 64, t.owner % 2 ^ 32]
/-- The package offset of entry `h` of core `c` (11_matrix R190). -/
def State.tileAt (s : State) (c h : Nat) : Nat := vaultBase c + bits (s.core c).ttb.toNat 12 12 * 2 ^ 12 + 64 * h
/-- Entry `h` of core `c`. -/
def State.tile (s : State) (c h : Nat) : Tile :=
  let q := s.tileAt c h
  tileOf (s.num q 8) (s.num (q + 8) 8) (s.num (q + 16) 8) (s.num (q + 24) 8) (s.num (q + 32) 8)
/-- Entry `h` of core `c` replaced: an immediate-class event (11_matrix R191). -/
def State.setTile (s : State) (c h : Nat) (t : Tile) : State :=
  s.commitAt (s.tileAt c h) (t.words.flatMap (toBytes 8))
/-- Entry `h` of core `c` changed by `f`. -/
def State.modTile (s : State) (c h : Nat) (f : Tile → Tile) : State := s.setTile c h (f (s.tile c h))
/-- The slot that a handle names as a producer operand, and as a consumer operand (11_matrix R193). -/
def State.producerSlot (s : State) (c h : Nat) : Nat :=
  let t := s.tile c h
  if t.ring then t.first + t.pidx % (t.nm1 + 1) else h
/-- The consumer slot of a handle (11_matrix R193). -/
def State.consumerSlot (s : State) (c h : Nat) : Nat :=
  let t := s.tile c h
  if t.ring then t.first + t.cidx % (t.nm1 + 1) else h
/-- The package offset of a tile's first byte, and of its status word (11_matrix R190, R199). -/
def State.tileBase (s : State) (c h : Nat) : Nat := vaultBase c + (s.tile c h).base
/-- The package offset of word `w` of the status word of a tile (11_matrix R199). -/
def State.statusAt (s : State) (c h w : Nat) : Nat := s.tileBase c h + 64 * (s.tile c h).size + 8 * w
/-- The status word of a tile is written to 0 (11_matrix R199). -/
def State.clearStatus (s : State) (c h : Nat) : State := s.commitAt (s.statusAt c h 0) (List.replicate 32 0)
/-- Flags of word 0 of the status word (11_matrix R199). -/
def flagIV : Nat := 1
/-- Overflow. -/
def flagOV : Nat := 2
/-- Underflow. -/
def flagUN : Nat := 4
/-- Saturation. -/
def flagSAT : Nat := 8
/-- NaN in. -/
def flagNANIN : Nat := 16
/-- Shape error. -/
def flagSHAPE : Nat := 32
/-- Checksum error. -/
def flagCSUM : Nat := 64
/-- Poison. -/
def flagPOIS : Nat := 128
/-- Block format error. -/
def flagDFMT : Nat := 256
/-- Flags into word 0 of the status word, sticky (11_matrix R199). -/
def State.orStatus (s : State) (c h f : Nat) : State :=
  if f = 0 then s
  else s.commitWord (s.statusAt c h 0) (BitVec.ofNat 64 (Nat.lor (s.num (s.statusAt c h 0) 8) f))
/-- BYTES of the status word (11_matrix R199). -/
def State.setBytes (s : State) (c h n : Nat) : State :=
  s.commitWord (s.statusAt c h 3) (BitVec.ofNat 64 (n % 2 ^ 32))

/-! ### What an instruction waits for, and transitions -/

/-- Whether a tile is READY, or failed: EMPTY with ERR ≠ 0. -/
def Tile.failed (t : Tile) : Bool := t.state == .empty && t.err != 0
/-- A tile that a producer may claim (11_matrix R191). -/
def Tile.claimable (t : Tile) : Bool := t.state == .empty && t.err == 0
/-- Whether a handle of core `c` is in the state that an instruction waits for (11_matrix R210-R217). -/
def State.tileWant (s : State) (c h : Nat) (w : TileWant) : Bool :=
  let t := s.tile c h
  let con := s.tile c (s.consumerSlot c h)
  match w with
  | .ready => con.state == .ready
  | .readyOrFailed => con.state == .ready || con.failed
  | .emptyOk => (s.tile c (s.producerSlot c h)).claimable
  | .fillingDone => t.state == .filling && t.pend == 0
  | .forMma => (t.state == .ready && t.readers == 0) || (t.state == .filling && t.mxf)
  | .freeable => (t.state == .empty || t.state == .ready) && t.readers == 0 && t.pend == 0
  | .ringFreeable => t.pend == 0 && (List.range (t.nm1 + 1)).all fun i => (s.tile c (t.first + i)).readers == 0
/-- Goes on where a handle of the executing core is in the state; otherwise the instruction waits. -/
def State.tileWait (s : State) (h : TileH) (w : TileWant) : Act Unit :=
  if s.tileWant s.myId h.val w then .ok () else waitFor s (.tile h w)
/-- A producer's claim through handle `h` of its slot: FILLING, PIDX + 1, the status word 0 (11_matrix R191,
R193, R199). -/
def State.claim (s : State) (c h : Nat) (f : Tile → Tile) : State :=
  let slot := s.producerSlot c h
  let t := s.modTile c h fun t => { t with pidx := t.pidx + 1 }
  (t.modTile c slot fun t => f { t with state := .filling }).clearStatus c slot
/-- The same by an instruction, which stalls while the bank of the status word is locked (08_slots R140). -/
def State.claimNow (s : State) (h : Nat) (f : Tile → Tile) : Act State := do
  s.unlockedAt (s.statusAt s.myId (s.producerSlot s.myId h) 0)
  .ok (s.claim s.myId h f)
/-- A read of a tile ends: READERS − 1, and a drained tile is EMPTY (11_matrix R191). -/
def Tile.unread (t : Tile) : Tile :=
  let n := (t.readers + 255) % 256
  { t with readers := n, state := if n = 0 ∧ t.state = .draining then .empty else t.state }
/-- An entry with one reader more. -/
def Tile.read (t : Tile) : Tile := { t with readers := t.readers + 1 }
/-- A tile or ring is undefined (11_matrix R213). -/
def State.freeTile (s : State) (c h : Nat) : State :=
  let t := s.tile c h
  let u := if t.ring then (List.range (t.nm1 + 1)).foldl (fun u i => u.modTile c (t.first + i) fun m => { m with memb := false }) s
           else s
  u.modTile c h fun t => { t with v := false, ring := false }
/-- The handle checks, in operand order: defined, of the thread's partition, and plain where a ring is not accepted
(11_matrix R193, R194, R226). -/
def State.handle (s : State) (h : TileH) (plain : Bool) : Act Unit := do
  let t := s.tile s.myId h.val
  let v := BitVec.ofNat 64 h.val
  if !t.v then trapSub .tile 2 v
  else if !s.isSup && t.part != s.me.part.val then trapSub .tile 3 v
  else if plain && t.ring then trapSub .tile 4 v
  else .ok ()

/-! ### TILE -/

/-- Whether a partition owns every vault bank of `n` bytes from a local-alias address at or above 0x1_0000
(09_memories R160). -/
def State.ownsLocal (s : State) (p a n : Nat) : Bool :=
  decide (0x10000 ≤ a) && decide (a + n ≤ 2 ^ 24) &&
  (List.range ((a + n - 1) / 2 ^ 20 - a / 2 ^ 20 + 1)).all fun i => s.bankOf p (vaultBase s.myId + (a / 2 ^ 20 + i) * 2 ^ 20)
/-- A new handle must be undefined: subcode 3 for another partition's, 1 for one of its own (11_matrix R226). -/
def State.newHandle (s : State) (h : TileH) : Act Unit :=
  let t := s.tile s.myId h.val
  if t.v && t.part != s.me.part.val then trapSub .tile 3 (BitVec.ofNat 64 h.val)
  else .ok ()
/-- The handle is not defined yet. -/
def State.undefined (s : State) (h : TileH) : Act Unit :=
  if (s.tile s.myId h.val).v then trapSub .tile 1 (BitVec.ofNat 64 h.val) else .ok ()
/-- The fresh entry of a defined tile or ring (11_matrix R208, R209). -/
def State.freshTile (s : State) : Tile :=
  { base := 0, size := 0, shape := 0, state := .empty, err := 0, ring := false, memb := false, first := 0, nm1 := 0,
    readers := 0, pend := 0, part := s.me.part.val, v := true, mxf := false, pidx := 0, cidx := 0, owner := s.me.popid.toNat }
/-- `tldef` (R208). -/
def execTldef (t : TileH) (n : KIdx) (s : State) : Out :=
  seq s (do
    s.tenantOnly (wordTldef t n)
    s.newHandle t
    let ((base, size, w2, w3), s) ← s.params n
    s.undefined t
    let i := w2 % 2 ^ 16
    if base % 64 ≠ 0 ∨ size % 64 ≠ 0 ∨ size = 0 ∨ w2 / 2 ^ 16 ≠ 0 ∨ w3 ≠ 0 then trapSub .shape 5 (BitVec.ofNat 64 i)
    else
      check (s.ownsLocal s.me.part.val base (size + 32)) .prot (BitVec.ofNat 64 base)
      let (h, s) ← s.shape i .either
      if size < h.size then trapSub .shape 4 (BitVec.ofNat 64 i)
      else
        s.unlockedAt (vaultBase s.myId + base + size)
        let s := s.setTile s.myId t.val { s.freshTile with base, size := size / 64, shape := i }
        .ok (s.clearStatus s.myId t.val))
/-- The checks of the members of a ring, in rising order (11_matrix R209). -/
def State.checkMembers (s : State) : List Nat → Act Unit
  | [] => .ok ()
  | h :: rest =>
    let t := s.tile s.myId h
    let v := BitVec.ofNat 64 h
    if !t.v then trapSub .tile 2 v
    else if t.part != s.me.part.val then trapSub .tile 3 v
    else if t.ring || t.memb then trapSub .tile 4 v
    else s.checkMembers rest
/-- `tlring` (R209), which leaves the fields that it does not name. DESIGN CHOICE: bits 7-0 of 253-255, which R39 and R43 would make a
decode failure, are an n above 16 and trap TILE with subcode 4 as R209 says (notes/assumptions/72). -/
def execTlring (t u : TileH) (n : KIdx) (s : State) : Out :=
  seq s (do
    s.tenantOnly (wordTlring t u n)
    s.newHandle t
    s.handle u false
    s.undefined t
    if n.val < 2 ∨ 16 < n.val ∨ 63 < u.val + n.val - 1 ∨ (u.val ≤ t.val ∧ t.val ≤ u.val + n.val - 1) then
      trapSub .tile 4 (BitVec.ofNat 64 t.val)
    else
      let members := (List.range n.val).map fun i => u.val + i
      s.checkMembers members
      let s := s.setTile s.myId t.val { s.tile s.myId t.val with
        ring := true, first := u.val, nm1 := n.val - 1, pidx := 0, cidx := 0, part := s.me.part.val, owner := s.me.popid.toNat, v := true }
      .ok (members.foldl (fun s h => s.modTile s.myId h fun m => { m with memb := true }) s))
/-- `tlwait.r`: a failed slot traps by its ERR (R210). -/
def execTlwaitR (t : TileH) (s : State) : Out :=
  seq s (do
    s.handle t false
    let h := s.consumerSlot s.myId t.val
    let k := s.tile s.myId h
    if k.failed then
      trap (match k.err with | 1 => .decerr | 2 => .decfmt | _ => .poison) (BitVec.ofNat 64 h)
    else
      s.tileWait t .readyOrFailed
      .ok s)
/-- `tlwait.e` (R210). -/
def execTlwaitE (t : TileH) (s : State) : Out :=
  seq s (do
    s.handle t false
    s.tileWait t .emptyOk
    .ok s)
/-- `tlcons` (R211). -/
def execTlcons (t : TileH) (s : State) : Out :=
  seq s (do
    s.handle t false
    s.tileWait t .readyOrFailed
    let h := s.consumerSlot s.myId t.val
    let s := s.modTile s.myId h fun k =>
      if k.state = .ready then { k with state := if k.readers = 0 then .empty else .draining } else { k with err := 0 }
    .ok (s.modTile s.myId t.val fun k => { k with cidx := k.cidx + 1 }))
/-- `tlstat` (R212). -/
def execTlstat (t : TileH) (d : XReg) (s : State) : Out :=
  seq s (do
    s.handle t false
    let k := s.tile s.myId t.val
    let c := s.tile s.myId (s.consumerSlot s.myId t.val)
    .ok (s.setX d (BitVec.ofNat 64 (c.state.code + 4 * c.err + 16 * k.ring.toNat + 2 ^ 8 * c.readers + 2 ^ 16 * k.pend +
      2 ^ 24 * min ((k.pidx + 2 ^ 64 - k.cidx) % 2 ^ 64) 255 + 2 ^ 32 * c.shape))))
/-- A tile of a population that has finished (11_matrix R194). -/
def State.deadTile (s : State) (t : Tile) : Bool := t.v && (s.pop? (BitVec.ofNat 32 t.owner)).isNone
/-- The handles of finished populations are freed, rings before members, where they may be (11_matrix R194). -/
def State.reapTiles (s : State) (c : Nat) : State :=
  let rings := (List.range 64).foldl (fun t h =>
    if t.deadTile (t.tile c h) && (t.tile c h).ring && t.tileWant c h .ringFreeable then t.freeTile c h else t) s
  (List.range 64).foldl (fun t h =>
    let e := t.tile c h
    if t.deadTile e && !e.ring && !e.memb && e.readers == 0 && e.pend == 0 then t.freeTile c h else t) rings
/-- `tlfree` (R213): where a ring is undefined, a member of a finished population is freed too (R194). -/
def execTlfree (t : TileH) (s : State) : Out :=
  seq s (do
    s.handle t false
    let k := s.tile s.myId t.val
    if !k.ring && k.memb then trapSub .tile 4 (BitVec.ofNat 64 t.val)
    else
      s.tileWait t (if k.ring then .ringFreeable else .freeable)
      let s := s.freeTile s.myId t.val
      .ok (if k.ring then s.reapTiles s.myId else s))
/-- `tlopen` (R214). -/
def execTlopen (t : TileH) (s : State) : Out :=
  seq s (do
    s.handle t true
    s.tileWait t .emptyOk
    s.claimNow t.val id)
/-- The entries and records of the executing thread whose lines lie in `n` bytes from an offset are applied, in the
order of their creation, and freed (11_matrix R214). -/
def State.publish (s : State) (q n : Nat) : State :=
  let who := s.ident s.cur
  let mine (e : Entry) : Bool := e.mine who &&
    decide (q ≤ e.da % 2 ^ 43 ∧ e.da % 2 ^ 43 < q + n) && e.da / 2 ^ 43 == s.pkg
  let all := s.myCore.spill.map Prod.snd ++ s.myCore.buffer
  let t := (all.filter mine).foldl (fun t e => t.portCommit (e.da % 2 ^ 43) (maskCells (e.da % 2 ^ 43) e.mask e.data)) s
  t.modMyCore fun k => { k with buffer := k.buffer.filter fun e => !mine e, spill := k.spill.filter fun e => !mine e.2 }
/-! ### `brst` and `shdef` -/

/-- Whether a selected group of status flags is set (11_matrix R200). -/
def statusHit (f : BitVec 4) (w : Nat) : Bool :=
  (f.getLsbD 0 && Nat.land w (flagIV + flagNANIN) != 0) || (f.getLsbD 1 && Nat.land w (flagOV + flagSAT) != 0) ||
  (f.getLsbD 2 && Nat.land w flagUN != 0) ||
  (f.getLsbD 3 && Nat.land w (flagSHAPE + flagCSUM + flagPOIS + flagDFMT) != 0)
/-- `brst` (R200). -/
def execBrst (t : TileH) (f : BitVec 4) (i : BitVec 16) (s : State) : Out :=
  jump s (do
    s.handle t false
    s.tileWait t .readyOrFailed
    let h := s.consumerSlot s.myId t.val
    s.unlockedAt (s.statusAt s.myId h 0)
    .ok (s, if statusHit f (s.num (s.statusAt s.myId h 0) 8) then s.target i else s.nextPc))
/-- The fields of a shape record image that `shdef` requires where V = 1 (18_tables R306). -/
def shapeImageOk (v : Nat) : Bool :=
  let h := shapeOf v
  decide (v = bits v 0 5 + bits v 8 2 * 2 ^ 8 + bits v 63 1 * 2 ^ 63 + bits v 64 96 * 2 ^ 64) &&
  (if h.rowMaj then decide (7 ≤ h.fmt ∧ h.fmt ≤ 9) else decide (1 ≤ h.fmt ∧ h.fmt ≤ 8)) &&
  h.len != 0 && h.vecs != 0 && h.blocksOk && decide (h.size ≤ 0xFFFFC0)
/-- A privileged instruction in a tenant slot traps PRIV with its word (02_encoding R44, R46). -/
def State.supOnly (s : State) (word : Nat) : Act Unit := check s.isSup .priv (BitVec.ofNat 64 word)
/-- `shdef` (R306): the Reserved bits of the record read 0 (00_scope R4). -/
def execShdef (d a : XReg) (s : State) : Out :=
  seq s (do
    s.supOnly (wordShdef d a)
    let va := s.x a
    check (va.toNat % 32 = 0) .align va
    let x := (s.x d).toNat
    let p := bits x 16 3
    let i := x % 2 ^ 16
    if x / 2 ^ 19 ≠ 0 ∨ bits (s.partWord p 0) 63 1 = 0 ∨ s.partWord p 6 ≤ i then trapSub .shape 1 (BitVec.ofNat 64 i)
    else
      let q ← s.translateHere va .r 32
      s.touchable va (s.pkg * 2 ^ 43 + q) 32 true
      let v := ofBytes (s.bytes q 32)
      if bits v 63 1 = 1 ∧ !shapeImageOk v then trapSub .shape 4 (BitVec.ofNat 64 i)
      else
        let r := s.shapeAt p i
        .ok ((s.commit (maskTable .shape r (toBytes 32 v))).dropCaptures r 32))

end Sys2Proof.Machine
end

