-- ==== Sys2Proof/Machine/Matrix.lean ====
section
/-! DEFINITION. The matrix unit: `wload`, `mma`, `mmaz`, `wdrop`, the arbiter and the passes (05_numbers R97,
11_matrix R195-R206, R215-R218, 20_counters R335, 22_prog_exchange R351). -/

namespace Sys2Proof.Machine

/-! ### Reading a bit-plane tile -/

/-- The 64-bit word at an offset of a tile. -/
abbrev PlaneWords := Nat → Nat
/-- The planes of an element of a format, without the scale word (11_matrix R195). -/
def planes : Nat → Nat
  | 1 => 3 | 2 => 5 | 3 => 8 | 4 => 8 | 5 => 16 | 6 => 16 | 7 => 32 | _ => 64
/-- The magnitude bits of a PS format (05_numbers R92). -/
def psMag : Nat → Nat
  | 1 => 2 | 2 => 4 | _ => 7
/-- The binary format of a format code (11_matrix R195). -/
def floatOf : Nat → FloatFmt
  | 5 => bf16 | 6 => f16 | 7 => f32 | _ => f64
/-- The words of a K-vector that a command reads under a declared format: offsets in the tile (11_matrix R196, R197). -/
def vectorWords (h : Shape) (fmt v : Nat) : List Nat :=
  let segs := (h.len + 63) / 64
  (List.range segs).flatMap fun i =>
    (List.range (planes fmt + (isPs fmt).toNat)).map fun p => (v * segs + i) * segBytes h.fmt + 8 * p
/-- The bits of element `j` of the segment at `base`, most significant plane first (11_matrix R196). -/
def elementBits (w : PlaneWords) (fmt base j : Nat) : Nat :=
  (List.range (planes fmt)).foldl (fun a i => 2 * a + bits (w (base + 8 * (i + (isPs fmt).toNat))) j 1) 0
/-- The value of element `k` of K-vector `v` under a declared format (11_matrix R196, R197, 05_numbers R93). -/
def element (w : PlaneWords) (h : Shape) (fmt v k : Nat) : Fl :=
  let base := (v * ((h.len + 63) / 64) + k / 64) * segBytes h.fmt
  let j := k % 64
  let x := elementBits w fmt base j
  if isPs fmt then
    let m := psMag fmt
    let sc := bits (w base) (16 * (j / 16)) 16
    if sc % 256 = 255 then .nan false
    else if x % 2 ^ m = 0 then .fin false 0 0
    else .fin (bits x m 1 == 1) (x % 2 ^ m) ((sc % 256 : Nat) - 127 - (m - 1 : Nat) - bits sc (8 + j % 16 / 2) 1)
  else if fmt = 4 then
    let v := (BitVec.ofNat 8 x).toInt
    .fin (decide (v < 0)) v.natAbs 0
  else (floatOf fmt).unpack x
/-- The elements of a K-vector. -/
def vector (w : PlaneWords) (h : Shape) (fmt v : Nat) : List Fl := (List.range h.len).map (element w h fmt v)

/-! ### The arithmetic of a pass -/

/-- The classes of R198: 0 PS, 1 f16, bf16 and f32, 2 i8, 3 f64. -/
def fmtClass (f : Nat) : Nat := if isPs f then 0 else if f = 4 then 2 else if f = 8 then 3 else 1
/-- The result format of a class (11_matrix R198). -/
def resultFmt (cls : Nat) : Nat := if cls = 2 then 9 else if cls = 3 then 8 else 7
/-- The elements of a chunk (05_numbers R97). -/
def chunkLen (cls : Nat) : Nat := if cls = 0 then 16 else 32
/-- The status flags of a Round (05_numbers R97, 11_matrix R199). -/
def statusOf (f : Flags) : Nat :=
  (if f &&& NV = 0 then 0 else flagIV) + (if f &&& OF = 0 then 0 else flagOV) + (if f &&& UF = 0 then 0 else flagUN)
/-- The integer that a value of exponent 0 or more holds. -/
def Fl.toInt : Fl → Int
  | .fin n m e => (if n then -1 else 1) * m * 2 ^ e.toNat
  | _ => 0
/-- A float chunk: the exact sum of exact products, rounded once, and its status flags (05_numbers R97). -/
def floatChunk (f : FloatFmt) (ps : List (Fl × Fl)) : Nat × Nat :=
  let nan := ps.any fun p => p.1.isNan || p.2.isNan
  let prods := (ps.filter fun p => !(p.1.isNan || p.2.isNan)).map fun p => mulFl p.1 p.2
  let invalid := prods.any fun p => match p with | .ok _ => false | .error _ => true
  let has (n : Bool) := prods.any fun p => match p with | .ok (.inf m) => m == n | _ => false
  if nan || invalid || (has true && has false) then
    (f.nan, (if nan then flagNANIN else 0) + (if invalid || (has true && has false) then flagIV else 0))
  else
    let sum := prods.foldl (fun (a : Option Fl) p =>
      match a, p with
      | none, .ok v => some v
      | some u, .ok v => (match addFl .rne u v with | .ok x => some x | .error _ => some u)
      | a, .error _ => a) none
    let (v, fl) := roundFl f .rne (sum.getD (.fin false 0 0))
    (v, statusOf fl)
/-- One chunk into an accumulator of a class, with the status flags so far (05_numbers R97). -/
def accumulate (cls : Nat) (mode : Mode) (acc : Nat × Nat) (ps : List (Fl × Fl)) : Nat × Nat :=
  if cls = 2 then
    let sum : Int := (ps.map fun p => p.1.toInt * p.2.toInt).sum
    let exact := (BitVec.ofNat 32 acc.1).toInt + sum
    let r := saturate32 exact
    ((BitVec.ofInt 32 r).toNat, Nat.lor acc.2 (if r = exact then 0 else flagSAT))
  else
    let f := if cls = 3 then f64 else f32
    let (c, fl) := floatChunk f ps
    let (v, g) := fadd f mode acc.1 c
    (v, Nat.lor (Nat.lor acc.2 fl) (statusOf g))
/-- The chunks of two K-vectors, in increasing k (05_numbers R97). -/
def chunks (n : Nat) : Nat → List (Fl × Fl) → List (List (Fl × Fl))
  | 0, _ => []
  | fuel + 1, ps => if ps = [] then [] else ps.take n :: chunks n fuel (ps.drop n)
/-- An output element from an accumulator, a row and a column, with its status flags (05_numbers R97). -/
def outputElement (cls : Nat) (mode : Mode) (acc : Nat) (row col : List Fl) : Nat × Nat :=
  (chunks (chunkLen cls) row.length (row.zip col)).foldl (accumulate cls mode) (acc, 0)

/-! ### Queues, weight slots, poison -/

/-- The executing or named core's cluster. -/
def State.cluster (s : State) (d k : Nat) : Cluster := if h : k < 16 then (s.die d).clusters[k] else Cluster.reset
/-- The state with a cluster changed by `f`. -/
def State.modCluster (s : State) (d k : Nat) (f : Cluster → Cluster) : State :=
  s.modDie d fun e => { e with clusters := e.clusters.setIfInBounds k (f (s.cluster d k)) }
/-- Weight slot `w` of the cluster of core `c`. -/
def State.weights (s : State) (c : Nat) (w : WSlot) : Weights := (s.cluster (dieOf c) (clusterOf c)).ws[w.val]
/-- The state with that weight slot changed by `f`. -/
def State.modWeights (s : State) (c : Nat) (w : WSlot) (f : Weights → Weights) : State :=
  s.modCluster (dieOf c) (clusterOf c) fun k => { k with ws := k.ws.set w.val (f k.ws[w.val]) }
/-- Whether an engine queue of a core has a free entry (11_matrix R205). -/
def Core.queueRoom (k : Core) : QueueKind → Bool
  | .matrix => decide (k.matrixQ.length < 16)
  | .copy => decide (k.copyQ.length < 8)
  | .dec => decide (k.decQ.length < 4)
/-- Goes on where the queue has a free entry; otherwise the instruction waits (11_matrix R204). -/
def State.needQueue (s : State) (q : QueueKind) : Act Unit :=
  if s.myCore.queueRoom q then .ok () else waitFor s (.queue q)
/-- Whether a weight slot is unheld or held by a core and population (11_matrix R201). -/
def State.weightsFree (s : State) (c : CoreId) (pop : BitVec 32) (w : WSlot) : Bool :=
  (s.weights c.val w).holder == none || (s.weights c.val w).holder == some (c, pop)
/-- A weight slot that the executing core and population do not hold traps TILE with subcode 5 (11_matrix R201). -/
def State.holdsWeights (s : State) (w : WSlot) (v : Nat) : Act Unit :=
  if (s.weights s.myId w).holder = some (s.cur.core, s.me.popid) then .ok () else trapSub .tile 5 (BitVec.ofNat 64 v)
/-- The locked banks in which `n` bytes at an offset lie, on which an engine's access stalls (08_slots R140). -/
def State.locksIn (s : State) (q n : Nat) : List (CoreId × BitVec 4) :=
  (List.range ((q % 2 ^ 20 + n + 2 ^ 20 - 1) / 2 ^ 20)).filterMap fun i => s.lockedAt (q + i * 2 ^ 20)
/-- The locked banks that an engine's access to a tile and its status word meets (08_slots R140). -/
def State.tileLocks (s : State) (c h : Nat) : List (CoreId × BitVec 4) := s.locksIn (s.tileBase c h) (64 * (s.tile c h).size + 32)
/-- The locked banks that the head of a core's engine queue has met (08_slots R140). -/
def Core.stallsOf (k : Core) (q : QueueKind) : List Stall := (k.stalls.filter fun a => a.1 == q).map Prod.snd
/-- Whether the head of a core's engine queue stalls on one of the locked banks `ls` (08_slots R140). -/
def State.blocked (s : State) (c : Nat) (q : QueueKind) (ls : List (CoreId × BitVec 4)) : Bool :=
  ls.any fun e => !freedFrom ((s.core c).stallsOf q) e
/-- The head of a core's engine queue has met the locked banks `ls` (08_slots R140). -/
def State.stallOn (s : State) (c : Nat) (q : QueueKind) (ls : List (CoreId × BitVec 4)) : State :=
  s.modCore c fun k => { k with stalls := (k.stalls.filter fun a => a.1 != q) ++ (meets (k.stallsOf q) ls).map fun a => (q, a) }
/-- Its accesses have completed (08_slots R140). -/
def Core.unstall (k : Core) (q : QueueKind) : Core := { k with stalls := k.stalls.filter fun a => a.1 != q }
/-- Whether the word of an offset is poisoned, or of a lost line (11_matrix R206, 23_system R362). -/
def State.badWord (s : State) (q : Nat) : Bool := s.poison.contains (q / 8) || s.lost.contains (q / 256)
/-- Words become poisoned (11_matrix R206). -/
def State.addPoison (s : State) (ws : List Nat) : State :=
  { s with poison := ws.foldl (fun p w => if p.contains w then p else p ++ [w]) s.poison }

/-! ### Shadow copies -/

/-- The shadow copy of a tile: nothing yet where none is held (11_matrix R192). -/
def Core.shadowOf (k : Core) (h : Nat) : Shadow := SMap.get { bytes := [], poison := [] } k.shadow h
/-- Byte `i` of a tile as its producer sees it. -/
def State.shadowByte (s : State) (c h i : Nat) : Byte :=
  SMap.get (Memory.get s.mem (s.tileBase c h + i)) ((s.core c).shadowOf h).bytes i
/-- Whether the word of offset `i` is poisoned as the producer sees it. -/
def State.shadowBad (s : State) (c h i : Nat) : Bool :=
  ((s.core c).shadowOf h).poison.contains (i / 8) ||
  ((List.range 8).all (fun j => !((s.core c).shadowOf h).bytes.any fun e => e.1 == i / 8 * 8 + j) && s.badWord (s.tileBase c h + i))
/-- Bytes written into the shadow copy at offset `i`; `bad` marks their words poisoned. -/
def State.putShadow (s : State) (c h i : Nat) (bs : List Byte) (bad : Bool) : State :=
  s.modCore c fun k =>
    let sh := k.shadowOf h
    let new : Shadow :=
      { bytes := (cells i bs).foldl (fun m e => SMap.set m e.1 e.2) sh.bytes,
        poison := if bad && !sh.poison.contains (i / 8) then sh.poison ++ [i / 8] else sh.poison }
    { k with shadow := SMap.set k.shadow h new }
/-- A list of bytes, and the words of offsets in it that are poisoned, are written into the shadow copy by their offset (11_matrix R192). -/
def State.fillShadow (s : State) (c h : Nat) (bs : List (Nat × Byte)) (bad : List Nat) : State :=
  s.modCore c fun k =>
    let sh := k.shadowOf h
    let new : Shadow :=
      { bytes := bs.foldl (fun m e => SMap.set m e.1 e.2) sh.bytes,
        poison := sh.poison ++ ((bad.map (· / 8)).eraseDups.filter fun w => !sh.poison.contains w) }
    { k with shadow := SMap.set k.shadow h new }
/-- The bytes of the shadow copy replace the committed bytes (11_matrix R192, R206). -/
def State.commitShadow (s : State) (c h : Nat) : State :=
  let sh := (s.core c).shadowOf h
  let q := s.tileBase c h
  ((s.commit (sh.bytes.map fun e => (q + e.1, e.2))).addPoison (sh.poison.map fun w => q / 8 + w)).modCore c
    fun k => { k with shadow := SMap.del k.shadow h }

/-! ### Finished populations -/

/-- HOLDER is cleared where the population has finished and its queued commands are done (11_matrix R201). -/
def State.reapWeights (s : State) (d k : Nat) : State :=
  s.modCluster d k fun cl => { cl with ws := cl.ws.map fun w =>
    match w.holder with
    | some (c, pop) =>
      if (s.pop? pop).isNone && (s.core c.val).matrixQ.all (fun e => e.by_.pop != pop) then { w with holder := none } else w
    | none => w }
/-- What a finished population holds on a core is freed as far as it may be (11_matrix R194, R201). -/
def State.reap (s : State) (c : Nat) : State := (s.reapTiles c).reapWeights (dieOf c) (clusterOf c)

/-! ### Issue -/

/-- The format that a command reads: the stored one for 0, else a declared prefix (11_matrix R197). -/
def declared (stored d : Nat) (i : Nat) : Act Nat :=
  if d = 0 ∨ d = stored then .ok stored
  else if (stored = 3 ∧ (d = 1 ∨ d = 2)) ∨ (stored = 2 ∧ d = 1) ∨ (stored = 7 ∧ d = 5) then .ok d
  else trapSub .shape 5 (BitVec.ofNat 64 i)
/-- Goes on where `b` holds; otherwise traps SHAPE. -/
def shapeCheck (b : Bool) (sub i : Nat) : Act Unit := if b then .ok () else trapSub .shape sub (BitVec.ofNat 64 i)
/-- The command is at the end of the executing core's matrix queue. -/
def State.queueMatrix (s : State) (w : Work) : State :=
  s.modMyCore fun k => { k with matrixQ := k.matrixQ ++ [{ by_ := s.issuer, work := w }] }
/-- `wload` (R216). -/
def execWload (u : TileH) (w : WSlot) (n : KIdx) (s : State) : Out :=
  seq s (do
    s.tenantOnly (wordWload u w n)
    s.handle u false
    let ((w0, w1, w2, w3), s) ← s.params n
    shapeCheck (decide (w0 ≤ 9) && w1 == 0 && w2 == 0 && w3 == 0) 5 0
    let c := s.myId
    let slot : TileH := Fin.ofNat 64 (s.consumerSlot c u.val)
    let i := (s.tile c slot.val).shape
    let (h, s) ← s.shape i .source
    shapeCheck (!h.rowMaj && decide (1 ≤ h.fmt ∧ h.fmt ≤ 8)) 4 i
    let f ← declared h.fmt w0 i
    shapeCheck (decide (h.len ≤ 576) && decide (h.vecs ≤ 336 / digits f)) 4 i
    shapeCheck (!isPs h.fmt || h.blocksOk) 2 i
    if !s.weightsFree s.cur.core s.me.popid w then waitFor s (.weights w)
    s.tileWait u .ready
    s.needQueue .matrix
    let s ← s.allowance 64
    let s := s.modTile c slot.val Tile.read
    let s := s.modWeights c w fun k => { k with holder := some (s.cur.core, s.me.popid), k := h.len, cols := h.vecs, fmt := f }
    .ok (s.queueMatrix (.wload w slot h f)))
/-- `mma` and `mmaz` (R217). -/
def matrixIssue (word : Nat) (zero : Bool) (t u : TileH) (w : WSlot) (n : KIdx) (s : State) : Out :=
  seq s (do
    s.tenantOnly word
    s.handle t true
    s.handle u false
    s.holdsWeights w t.val
    let ((w0, w1, w2, w3), s) ← s.params n
    let rnd := bits w0 4 3
    shapeCheck (decide (w0 < 2 ^ 7) && decide (w0 % 16 ≤ 9) && decide (rnd ≤ 4) && w1 == 0 && w2 == 0 && w3 == 0) 5 0
    let c := s.myId
    let slot : TileH := Fin.ofNat 64 (s.consumerSlot c u.val)
    let ai := (s.tile c slot.val).shape
    let oi := (s.tile c t.val).shape
    let (a, s) ← s.shape ai .source
    let (o, s) ← s.shape oi .dest
    let k := s.weights c w
    shapeCheck (!a.rowMaj && decide (1 ≤ a.fmt ∧ a.fmt ≤ 8)) 4 ai
    let f ← declared a.fmt (w0 % 16) ai
    shapeCheck (decide (1 ≤ a.vecs ∧ a.vecs ≤ 256) && a.len == k.k) 4 ai
    shapeCheck (!isPs a.fmt || a.blocksOk) 2 ai
    shapeCheck (fmtClass f == fmtClass k.fmt) 3 ai
    shapeCheck o.rowMaj 4 oi
    shapeCheck (o.fmt == resultFmt (fmtClass f)) 3 oi
    shapeCheck (o.vecs == a.vecs && o.len == k.cols) 4 oi
    s.tileWait t (if zero then .emptyOk else .forMma)
    s.tileWait u .ready
    s.needQueue .matrix
    let s ← s.allowance (11 * a.vecs * digits f)
    let s ← if zero then s.claimNow t.val fun e => { e with mxf := true }
            else .ok (s.modTile c t.val fun e => { e with state := .filling })
    let s := s.modTile c t.val fun e => { e with pend := e.pend + 1 }
    let s := s.modTile c slot.val Tile.read
    .ok (s.queueMatrix (.mma zero t slot w f rnd a o 0)))
/-- `mma` (R217). -/
def execMma (t u : TileH) (w : WSlot) (n : KIdx) (s : State) : Out := matrixIssue (wordMma t u w n) false t u w n s
/-- `mmaz` (R217). -/
def execMmaz (t u : TileH) (w : WSlot) (n : KIdx) (s : State) : Out := matrixIssue (wordMmaz t u w n) true t u w n s
/-- `wdrop` (R218). -/
def execWdrop (w : WSlot) (s : State) : Out :=
  seq s (do
    s.tenantOnly (wordWdrop w)
    s.holdsWeights w w.val
    s.needQueue .matrix
    .ok (s.queueMatrix (.wdrop w)))

/-! ### The arbiter -/

/-- The core of member `m` of cluster `k` of die `d`. -/
abbrev memberCore (d k m : Nat) : Nat := 128 * d + 8 * k + m
/-- The MXW values of a cluster's members (04_registers R79, 11_matrix R203). -/
def State.mxw (s : State) (d k : Nat) : Vector (BitVec 4) 8 := Vector.ofFn fun m => (s.core (memberCore d k m.val)).weight
/-- The arbiter's place once it has moved on to a core whose turn it is; none where every queue is empty
(11_matrix R203). DESIGN CHOICE: a round stays open, with its quota, while every queue is empty (notes/assumptions/73). -/
def State.seekFrom (s : State) (d k : Nat) : Nat → Cluster → Option Cluster
  | 0, _ => none
  | n + 1, cl =>
    if (s.core (memberCore d k cl.member.val)).matrixQ ≠ [] ∧ cl.taken < max 1 cl.quota[cl.member.val].toNat then some cl
    else
      let m := cl.member + 1
      s.seekFrom d k n { cl with member := m, taken := 0, quota := if m = 0 then s.mxw d k else cl.quota }
/-- The command is an `mma` or `mmaz` whose passes are all done. -/
def Cmd.passed (c : Cmd) : Bool :=
  match c.work with
  | .mma _ _ _ _ _ _ a _ pass => decide (a.vecs ≤ 32 * pass)
  | _ => false
/-- The member whose queue head has done all its passes and is to complete (11_matrix R217). -/
def State.passedMember (s : State) (d k : Nat) : Option (Fin 8) :=
  ([0, 1, 2, 3, 4, 5, 6, 7] : List (Fin 8)).find? fun m =>
    match (s.core (memberCore d k m.val)).matrixQ with | c :: _ => c.passed | [] => false
/-- The arbiter's turn: its place, the core and the command it serves; none while a command is to complete, or
where every queue is empty. -/
def State.turn (s : State) (d k : Nat) : Option (Cluster × Nat × Cmd) :=
  if (s.passedMember d k).isSome then none
  else match s.seekFrom d k 17 (s.cluster d k) with
    | none => none
    | some cl =>
      match (s.core (memberCore d k cl.member.val)).matrixQ with
      | c :: _ => some (cl, memberCore d k cl.member.val, c)
      | [] => none
/-- The head of a core's matrix queue is replaced, or removed, once an access of it has completed. -/
def State.setMatrixHead (s : State) (c : Nat) (w : Option Work) : State :=
  s.modCore c fun k => { k.unstall .matrix with matrixQ :=
    match k.matrixQ, w with
    | [], _ => []
    | _ :: rest, none => rest
    | h :: rest, some w => { h with work := w } :: rest }
/-- Counts a pass of the arbiter's turn. -/
def Cluster.count (cl : Cluster) : Cluster := { cl with taken := cl.taken + 1 }
/-- The rows of a pass (11_matrix R202). -/
def passRows (vecs pass : Nat) : List Nat := (List.range (min 32 (vecs - 32 * pass))).map fun i => 32 * pass + i
/-- One pass of an `mma` or `mmaz`: each output element, the flags, and PASSES, which wraps at 32 bits (11_matrix R217, R206,
20_counters R328). -/
def State.matrixPass (s : State) (c : Nat) (zero : Bool) (dst src : TileH) (ws : WSlot) (fmt rnd : Nat) (a o : Shape)
    (pass : Nat) : State :=
  let k := s.weights c ws
  let base := s.tileBase c src.val
  let act : PlaneWords := fun i => s.num (base + i) 8
  let lat : PlaneWords := fun i => ofBytes ((k.bytes.drop i).take 8)
  let cls := fmtClass fmt
  let sz := elemBytes o.fmt
  let cols := (List.range o.len).map fun j => (vector lat k.shape k.as_ j, (vectorWords k.shape k.as_ j).any k.poison.contains)
  let (t, fl) := (passRows a.vecs pass).foldl (fun acc r =>
    let row := vector act a fmt r
    let bad := (vectorWords a fmt r).any fun i => s.badWord (base + i)
    cols.zipIdx.foldl (fun (acc : State × Nat) col =>
      let i := (r * o.len + col.2) * sz
      let old := if zero then 0 else ofBytes ((List.range sz).map fun j => acc.1.shadowByte c dst.val (i + j))
      let poisoned := bad || col.1.2 || (!zero && s.shadowBad c dst.val i)
      let (v, fl) := outputElement cls (Mode.ofFrm rnd) old row col.1.1
      (acc.1.putShadow c dst.val i (toBytes sz v) poisoned, Nat.lor (Nat.lor acc.2 fl) (if poisoned then flagPOIS else 0)))
      acc) (s, 0)
  let t := t.orStatus c dst.val fl
  t.commitAt (t.statusAt c dst.val 1) (toBytes 4 (t.num (t.statusAt c dst.val 1) 4 + 1))
/-- MATRIX_ARBITER_PASS: one pass of the queue head whose turn it is (R203, R217). -/
def execMatrixArbiterPass (d : DieId) (k : ClusterId) (s : State) : Out :=
  if s.still then .next s else
  .next (match s.turn d.val k.val with
    | some (cl, c, cmd) =>
      (match cmd.work with
       | .mma zero dst src ws fmt rnd a o pass =>
         let locks := s.tileLocks c dst.val ++ s.tileLocks c src.val
         if s.blocked c .matrix locks then s.stallOn c .matrix locks
         else
           let t := s.matrixPass c zero dst src ws fmt rnd a o pass
           ((t.setMatrixHead c (some (.mma zero dst src ws fmt rnd a o (pass + 1)))).modCluster d.val k.val fun _ =>
             cl.count).pulse cmd.by_.pop
       | _ => s)
    | none => s)
/-- WLOAD_COMPLETE: the weights are latched; it counts as one pass (R203, R216). -/
def execWloadComplete (d : DieId) (k : ClusterId) (s : State) : Out :=
  if s.still then .next s else
  .next (match s.turn d.val k.val with
    | some (cl, c, cmd) =>
      (match cmd.work with
       | .wload ws src h f =>
         if s.blocked c .matrix (s.tileLocks c src.val) then s.stallOn c .matrix (s.tileLocks c src.val)
         else
           let base := s.tileBase c src.val
           let t := (s.modCluster d.val k.val fun _ => cl.count).modWeights c ws fun w =>
             { w with shape := h, as_ := f, bytes := s.bytes base h.size,
                      poison := ((List.range (h.size / 8)).map (8 * ·)).filter fun i => s.badWord (base + i) }
           (((t.modTile c src.val Tile.unread).setMatrixHead c none).pulse cmd.by_.pop).reap c
       | _ => s)
    | none => s)
/-- WDROP_EXECUTE: HOLDER is cleared; it counts as no pass (R203, R218). -/
def execWdropExecute (d : DieId) (k : ClusterId) (s : State) : Out :=
  if s.still then .next s else
  .next (match s.turn d.val k.val with
    | some (cl, c, cmd) =>
      (match cmd.work with
       | .wdrop ws =>
         (((s.modCluster d.val k.val fun _ => cl).modWeights c ws fun w => { w with holder := none }).setMatrixHead c none).reap c
       | _ => s)
    | none => s)
/-- A producing matrix command ends: PEND − 1, and at 0 the tile is READY with its new bytes (R192, R217). -/
def State.endMatrix (s : State) (c h : Nat) : State :=
  let t := s.tile c h
  if t.pend ≤ 1 then (s.commitShadow c h).modTile c h fun t => { t with pend := 0, state := .ready, mxf := false }
  else s.modTile c h fun t => { t with pend := t.pend - 1 }
/-- MATRIX_COMMAND_COMPLETE: the last pass of the command has ended (R217, R351). -/
def execMatrixCommandComplete (d : DieId) (k : ClusterId) (s : State) : Out :=
  .next (match s.passedMember d.val k.val with
    | some m =>
      let c := memberCore d.val k.val m.val
      (match (s.core c).matrixQ with
       | cmd :: _ =>
         (match cmd.work with
          | .mma _ dst src _ _ _ _ o _ =>
            if s.blocked c .matrix (s.tileLocks c dst.val) then s.stallOn c .matrix (s.tileLocks c dst.val)
            else
              let t := (s.modTile c src.val Tile.unread).setBytes c dst.val (o.vecs * o.len * elemBytes o.fmt)
              ((t.endMatrix c dst.val).setMatrixHead c none).reap c
          | _ => s)
       | [] => s)
    | none => s)

end Sys2Proof.Machine
end

