-- ==== Sys2Proof/Machine/Copy.lean ====
section
/-! DEFINITION. The copy engine: `tcopy.in`, `tcopy.out`, `tfill`, `tconv` and the completion of a copy command
(11_matrix R204-R206, R219-R221, 22_prog_exchange R351). -/

namespace Sys2Proof.Machine

/-! ### Issue -/

/-- The command is at the end of the executing core's copy queue. -/
def State.queueCopy (s : State) (w : Work) : State :=
  s.modMyCore fun k => { k with copyQ := k.copyQ ++ [{ by_ := s.issuer, work := w }] }
/-- A length word: a multiple of 8, at most the slot's size; 0 means all of it (11_matrix R219). -/
def copyLen (size w : Nat) : Act Nat := do
  shapeCheck (w % 8 == 0 && decide (w ≤ 64 * size)) 5 0
  .ok (if w = 0 then 64 * size else w)
/-- The estimate of a `tcopy` of `len` bytes: none below 64 KiB (20_counters R335). -/
def copyCost (len : Nat) : Nat := if len < 65536 then 0 else (len + 1023) / 1024
/-- A copy command's claim of its slot: PEND of the slot, and of the ring that it names (11_matrix R193). -/
def State.claimCopy (s : State) (named slot : TileH) (f : Tile → Tile) : Act State := do
  let t ← s.claimNow named.val fun e => f { e with pend := e.pend + 1 }
  .ok (if named = slot then t else t.modTile s.myId named.val fun e => { e with pend := e.pend + 1 })
/-- The shape that a `tcopy.in` gives its slot, checked as `tldef` does with the producer's right (11_matrix R220). -/
def State.newShape (s : State) (size w2 : Nat) : Act (Option Nat × State) := do
  if bits w2 16 1 = 0 then .ok (none, s)
  else
    let i := w2 % 2 ^ 16
    let (h, s) ← s.shape i .dest
    shapeCheck (decide (h.size ≤ 64 * size)) 4 i
    .ok (some i, s)
/-- `tcopy.in` (R220). -/
def execTcopyIn (t : TileH) (n : KIdx) (s : State) : Out :=
  seq s (do
    s.tenantOnly (wordTcopyIn t n)
    s.handle t false
    let slot : TileH := Fin.ofNat 64 (s.producerSlot s.myId t.val)
    let size := (s.tile s.myId slot.val).size
    let ((w0, w1, w2, w3), s) ← s.params n
    let src := BitVec.ofNat 64 w0
    check (w0 % 8 = 0) .align src
    let len ← copyLen size w1
    shapeCheck (decide (w2 < 2 ^ 17) && w3 == 0) 5 0
    let (shape, s) ← s.newShape size w2
    let pages ← s.pages src .r len
    let s := s.touchPages src len
    s.tileWait t .emptyOk
    s.needQueue .copy
    let s ← s.allowance (copyCost len)
    let s ← s.claimCopy t slot fun e => { e with shape := shape.getD e.shape }
    .ok (s.queueCopy (.copyIn t slot pages src len)))
/-- `tcopy.out` (R220); a destination in control space traps PROT (notes/assumptions/14). -/
def execTcopyOut (u : TileH) (n : KIdx) (s : State) : Out :=
  seq s (do
    s.tenantOnly (wordTcopyOut u n)
    s.handle u false
    let slot : TileH := Fin.ofNat 64 (s.consumerSlot s.myId u.val)
    let ((w0, w1, w2, w3), s) ← s.params n
    let dst := BitVec.ofNat 64 w0
    check (w0 % 8 = 0) .align dst
    let len ← copyLen (s.tile s.myId slot.val).size w1
    shapeCheck (w2 == 0 && w3 == 0) 5 0
    let pages ← s.pages dst .w len
    check (pages.all fun p => p.2 / 2 ^ 43 != s.pkg || !inCtl (p.2 % 2 ^ 43)) .prot dst
    let s := s.touchPages dst len
    s.tileWait u .ready
    s.needQueue .copy
    let s ← s.allowance (copyCost len)
    .ok ((s.modTile s.myId slot.val Tile.read).queueCopy (.copyOut slot pages dst len)))
/-- `tfill` (R220). -/
def execTfill (t : TileH) (n : KIdx) (s : State) : Out :=
  seq s (do
    s.tenantOnly (wordTfill t n)
    s.handle t false
    let slot : TileH := Fin.ofNat 64 (s.producerSlot s.myId t.val)
    let ((w0, w1, w2, w3), s) ← s.params n
    let len ← copyLen (s.tile s.myId slot.val).size w1
    shapeCheck (w2 == 0 && w3 == 0) 5 0
    s.tileWait t .emptyOk
    s.needQueue .copy
    let s ← s.claimCopy t slot id
    .ok (s.queueCopy (.fill t slot (BitVec.ofNat 64 w0) len)))
/-- Whether `tconv` offers a pair of shapes (11_matrix R221). -/
def convOk (a o : Shape) : Bool :=
  a.vecs == o.vecs && a.len == o.len &&
  (if a.rowMaj then a.fmt == 7 && !o.rowMaj && (isPs o.fmt || decide (5 ≤ o.fmt ∧ o.fmt ≤ 7))
   else if o.rowMaj then o.fmt == 7 && (isPs a.fmt || decide (5 ≤ a.fmt ∧ a.fmt ≤ 7))
   else a.fmt == 7 && (isPs o.fmt || o.fmt == 5 || o.fmt == 6))
/-- `tconv` (R221); the source's shape is captured before the target's (notes/assumptions/15). -/
def execTconv (t u : TileH) (n : KIdx) (s : State) : Out :=
  seq s (do
    s.tenantOnly (wordTconv t u n)
    s.handle t false
    s.handle u false
    let dst : TileH := Fin.ofNat 64 (s.producerSlot s.myId t.val)
    let src : TileH := Fin.ofNat 64 (s.consumerSlot s.myId u.val)
    let ((w0, w1, w2, w3), s) ← s.params n
    shapeCheck (decide (w0 ≤ 4) && w1 == 0 && w2 == 0 && w3 == 0) 5 0
    let ai := (s.tile s.myId src.val).shape
    let (a, s) ← s.shape ai .source
    let (o, s) ← s.shape (s.tile s.myId dst.val).shape .dest
    shapeCheck (convOk a o) 3 ai
    s.tileWait t .emptyOk
    s.tileWait u .ready
    s.needQueue .copy
    let s ← s.claimCopy t dst id
    .ok ((s.modTile s.myId src.val Tile.read).queueCopy (.conv t dst src a o w0)))

/-! ### What `tconv` writes -/

/-- A float code of a target format, with its status flags (11_matrix R221; notes/assumptions/15). -/
def convCode (fmt : Nat) (mode : Mode) (exact : Bool) (x : Fl) : Nat × Nat :=
  match x with
  | .nan sig => ((floatOf fmt).nan, (if exact then 0 else flagNANIN) + (if sig then flagIV else 0))
  | x => let (v, f) := roundFl (floatOf fmt) mode x; (v, statusOf f)
/-- The plane words of a segment, most significant plane first: bit `j` of each is that of element `j` (11_matrix R196). -/
def planeWords (n : Nat) (codes : List Nat) : List Nat :=
  (List.range n).map fun p => (codes.zipIdx.map fun c => bits c.1 (n - 1 - p) 1 * 2 ^ c.2).sum
/-- The words of a bit-plane segment of 64 elements, of which `cnt` exist, with the status flags; `exact` where a NaN passes without an
indication. The bits of
elements that do not exist are 0 in a PS segment and free in others, which R221 does not state
(notes/assumptions/16). -/
def convSegment (free : Nat → Nat) (fmt : Nat) (mode : Mode) (exact : Bool) (xs : List Fl) : List Nat × Nat :=
  let cnt := xs.length
  if isPs fmt then
    let m := psMag fmt
    let blocks := (List.range 4).map fun b => quantise m ((List.range 16).map fun i => xs.getD (16 * b + i) (.fin false 0 0))
    let codes := blocks.flatMap fun b => (List.range 16).map fun i => bits b.1 (16 + (m + 1) * i) (m + 1)
    ((blocks.zipIdx.map fun b => bits b.1.1 0 16 * 2 ^ (16 * b.2)).sum :: planeWords (m + 1) codes,
     (xs.filter fun x => !exact && x.isNan).foldl (fun a x => Nat.lor a (convCode 7 mode false x).2) (if blocks.any Prod.snd then flagSAT else 0))
  else
    let cs := xs.map (convCode fmt mode exact)
    let ws := planeWords (planes fmt) (cs.map Prod.fst)
    (if cnt = 64 then ws else ws.zipIdx.map fun w => w.1 + free w.2 / 2 ^ cnt * 2 ^ cnt, cs.foldl (fun a c => Nat.lor a c.2) 0)
/-- The elements of segment `i` of vector `v` of a source tile, and whether a word that holds one is poisoned. -/
def State.convSource (s : State) (base : Nat) (a : Shape) (v i : Nat) : List Fl × Bool :=
  let cnt := min 64 (a.len - 64 * i)
  if a.rowMaj then
    let at_ (j : Nat) := base + (v * a.len + 64 * i + j) * 4
    ((List.range cnt).map fun j => f32.unpack (s.num (at_ j) 4), (List.range cnt).any fun j => s.badWord (at_ j))
  else
    let word : PlaneWords := fun q => s.num (base + q) 8
    let seg := (v * ((a.len + 63) / 64) + i) * segBytes a.fmt
    ((List.range cnt).map fun j => element word a a.fmt v (64 * i + j),
     (List.range (segBytes a.fmt / 8)).any fun p => s.badWord (base + seg + 8 * p))
/-- The bytes that a segment of a `tconv` writes, their offset in the tile, its status flags, and whether they are
poisoned (11_matrix R206, R221). -/
def State.convPart (s : State) (base : Nat) (a o : Shape) (rnd v i : Nat) : Nat × List Byte × Nat × Bool :=
  let (xs, bad) := s.convSource base a v i
  let mode := Mode.ofFrm rnd
  if o.rowMaj then
    let cs := xs.map (convCode 7 mode false)
    ((v * o.len + 64 * i) * 4, cs.flatMap fun c => toBytes 4 c.1, cs.foldl (fun f c => Nat.lor f c.2) 0, bad)
  else
    let seg := (v * ((o.len + 63) / 64) + i) * segBytes o.fmt
    let (ws, fl) := convSegment (fun p => (Config.freeWord (s.choice (2 ^ 62 + seg + p))).toNat) o.fmt mode (o.fmt == 7 || (a.rowMaj && isPs o.fmt)) xs
    (seg, ws.flatMap (toBytes 8), fl, bad)

/-! ### Completion -/

/-- The pieces of `n` bytes from a virtual address, cut at pages: each with its device address and length. -/
def pieces (pages : Pages) : Nat → Nat → Nat → List (Nat × Nat)
  | 0, _, _ => []
  | fuel + 1, va, n =>
    if n = 0 then []
    else
      let m := min n (4096 - va % 4096)
      (pageAddr pages va, m) :: pieces pages fuel (va + m) (n - m)
/-- The pieces of a translated range. -/
def rangePieces (pages : Pages) (va : Word) (n : Nat) : List (Nat × Nat) := pieces pages (n / 4096 + 2) va.toNat n
/-- The locked banks that an engine's access to a translated range on this package meets (08_slots R140). -/
def State.pagesLocks (s : State) (pages : Pages) (va : Word) (n : Nat) : List (CoreId × BitVec 4) :=
  (rangePieces pages va n).flatMap fun p => if p.1 / 2 ^ 43 = s.pkg then s.locksIn (p.1 % 2 ^ 43) p.2 else []
/-- The bytes of a translated range, a multiple of 8 long, as an engine reads them, and the offsets of its poisoned
words (11_matrix R204, R206). -/
def State.readRange (s : State) (pages : Pages) (va : Word) (n : Nat) : List Byte × List Nat :=
  let ws := (rangePieces pages va n).flatMap fun p => (List.range (p.2 / 8)).map fun i => p.1 % 2 ^ 43 + 8 * i
  (ws.flatMap fun q => s.portBytes q 8, (ws.zipIdx.filter fun q => s.badWord q.1).map fun q => 8 * q.2)
/-- What a copy command produces into a slot, by the offset in the tile, with the status flags, BYTES and the poisoned words: committed
where the slot is READY with it, else in the shadow copy (11_matrix R192, R199, R206, R220). -/
def State.produce (s : State) (c h : Nat) (ws : List (Nat × Byte)) (flags size : Nat) (bad : List Nat) : State :=
  let q := s.tileBase c h
  let t := (s.orStatus c h flags).setBytes c h size
  if (s.tile c h).pend ≤ 1 then (t.commit (ws.map fun w => (q + w.1, w.2))).addPoison (bad.map fun i => (q + i) / 8).eraseDups
  else t.fillShadow c h ws bad
/-- A copy command of the named handle ends: PEND of the slot and of the ring, and READY (11_matrix R191, R193). -/
def State.endCopy (s : State) (c : Nat) (named slot : TileH) : State :=
  let t := s.modTile c slot.val fun e =>
    { e with pend := e.pend - 1, state := if e.pend ≤ 1 then .ready else e.state }
  if named = slot then t else t.modTile c named.val fun e => { e with pend := e.pend - 1 }
/-- A copy command is done whole (11_matrix R220, R221). -/
def State.runCopy (s : State) (c : Nat) (cmd : Cmd) : State :=
  match cmd.work with
  | .copyIn named dst pages src len =>
    let (bs, bad) := s.readRange pages src len
    (s.produce c dst.val (cells 0 bs) (if bad = [] then 0 else flagPOIS) len bad).endCopy c named dst
  | .copyOut src pages dst len =>
    let base := s.tileBase c src.val
    let t := ((rangePieces pages dst len).foldl (fun (acc : State × Nat) p =>
      let bs := s.bytes (base + acc.2) p.2
      let q := p.1 % 2 ^ 43
      (if p.1 / 2 ^ 43 = s.pkg then
        (acc.1.portWrite q bs).addPoison
          (((List.range (p.2 / 8)).filter fun i => s.badWord (base + acc.2 + 8 * i)).map fun i => q / 8 + i)
       else acc.1.sendFabric cmd.by_ p.1 0 0 bs false false false false, acc.2 + p.2)) (s, 0)).1
    t.modTile c src.val Tile.unread
  | .fill named dst pattern len =>
    (s.produce c dst.val (cells 0 ((List.range (len / 8)).flatMap fun _ => toBytes 8 pattern.toNat)) 0 len []).endCopy c named dst
  | .conv named dst src a o rnd =>
    let base := s.tileBase c src.val
    let parts := (List.range a.vecs).flatMap fun v => (List.range ((a.len + 63) / 64)).map fun i => s.convPart base a o rnd v i
    let bad := parts.flatMap fun p => if p.2.2.2 then (List.range (p.2.1.length / 8 + 1)).map fun i => min (p.1 + 8 * i) (p.1 + p.2.1.length - 1) else []
    let fl := parts.foldl (fun f p => Nat.lor f p.2.2.1) (if bad = [] then 0 else flagPOIS)
    ((s.produce c dst.val (parts.flatMap fun p => cells p.1 p.2.1) fl o.size bad).modTile c src.val Tile.unread).endCopy c named dst
  | _ => s
/-- The locked banks that a copy command's accesses meet (08_slots R140). -/
def State.copyLocks (s : State) (c : Nat) (cmd : Cmd) : List (CoreId × BitVec 4) :=
  match cmd.work with
  | .copyIn _ dst pages src len => s.tileLocks c dst.val ++ s.pagesLocks pages src len
  | .copyOut src pages dst len => s.tileLocks c src.val ++ s.pagesLocks pages dst len
  | .fill _ dst _ _ => s.tileLocks c dst.val
  | .conv _ dst src _ _ _ => s.tileLocks c dst.val ++ s.tileLocks c src.val
  | _ => []
/-- The members of a cluster in the order of a rotation that begins at `m`. -/
def rotation (m : Fin 8) : List (Fin 8) := [m, m + 1, m + 2, m + 3, m + 4, m + 5, m + 6, m + 7]
/-- COPY_COMMAND_COMPLETE: the copy engine finishes the queue head that its rotation serves (R205, R220, R221). -/
def execCopyCommandComplete (d : DieId) (k : ClusterId) (s : State) : Out :=
  if s.still then .next s else
  .next (match (rotation (s.cluster d.val k.val).copyAt).find? fun m => (s.core (memberCore d.val k.val m.val)).copyQ != [] with
    | some m =>
      let c := memberCore d.val k.val m.val
      (match (s.core c).copyQ with
       | cmd :: rest =>
         if s.blocked c .copy (s.copyLocks c cmd) then s.stallOn c .copy (s.copyLocks c cmd)
         else
           let t := (s.runCopy c cmd).modCore c fun e => { e.unstall .copy with copyQ := rest }
           ((t.modCluster d.val k.val fun e => { e with copyAt := m + 1 }).pulse cmd.by_.pop).reap c
       | [] => s)
    | none => s)

end Sys2Proof.Machine
end

