-- ==== Sys2Proof/Machine/Mint.lean ====
section
/-! DEFINITION. The Mint: objects, layout maps, the work record, the five traversal instructions with their steps and
stop points, `oalloc` and `lmdef` (02_encoding R51, 13_graphs R228-R247, 16_prog_graphsend R298). -/

namespace Sys2Proof.Machine

/-! ### Layout maps and objects -/

/-- A layout map entry (13_graphs R229). -/
structure Layout where
  fmap  : Nat
  fixed : Nat
  esize : Nat
  emap  : Nat
  v     : Bool
  deriving DecidableEq, Repr
/-- The entry that 32 bytes spell (13_graphs R229). -/
def layoutOf (w : Nat) : Layout :=
  { fmap := bits w 0 64, fixed := bits w 64 7, esize := bits w 72 4, emap := bits w 80 8, v := bits w 127 1 == 1 }
/-- IsPtr(i) (13_graphs R230). -/
def Layout.isPtr (l : Layout) (i : Nat) : Bool :=
  if i < l.fixed then bits l.fmap i 1 == 1
  else if l.esize = 0 then false
  else bits l.emap ((i - l.fixed) % l.esize) 1 == 1
/-- The package offset of entry `t` of a partition's layout map table (13_graphs R229, 18_tables R303). -/
def State.layoutAt (s : State) (p t : Nat) : Nat := bits (s.partWord p 2) 12 44 * 2 ^ 12 % 2 ^ 43 + 32 * t
/-- The captured entry of a type of the executing thread's partition, where it is defined (13_graphs R229, R230). -/
def State.layout (s : State) (t : Nat) : Option Layout :=
  if t = 0 ∨ 4096 ≤ t then none
  else
    let l := layoutOf (ofBytes (s.captured (s.layoutAt s.me.part.val t) 32))
    if l.v then some l else none
/-- A GRAPH trap (13_graphs R237). -/
def graphTrap {α : Type} (sub v : Nat) : Act α := trapSub .graph sub (BitVec.ofNat 64 v)
/-- An 8-byte read of committed memory for the Mint at a virtual address (13_graphs R228). -/
def State.mintLoad (s : State) (va : Nat) : Act Nat := do
  let a := BitVec.ofNat 64 va
  let da ← s.translate a .r 8
  s.touchable a da 8 true
  .ok (ofBytes (s.portBytes (da % 2 ^ 43) 8))
/-- An object as Visit read it: its address, device address, header, body and layout (02_encoding R51). -/
structure Obj where
  at_  : Nat
  dev  : Nat
  hdr  : Nat
  body : List Nat
  lay  : Layout
/-- TYPE of a header (13_graphs R228). -/
abbrev hdrType (h : Nat) : Nat := h % 2 ^ 20
/-- N of a header (13_graphs R228). -/
abbrev hdrN (h : Nat) : Nat := bits h 20 16
/-- The checks of a header or template against the layout map; `v` is TVAL (02_encoding R51, 13_graphs R230, R237). -/
def State.headerLayout (s : State) (h v : Nat) : Act Layout :=
  if hdrType h = 0 then graphTrap 3 v
  else match s.layout (hdrType h) with
    | none => graphTrap 4 v
    | some l => if hdrN h < l.fixed then graphTrap 5 v else .ok l
/-- Visit(ptr) (02_encoding R51). -/
def State.visit (s : State) (p : Nat) : Act Obj := do
  if p % 8 ≠ 0 then graphTrap 1 p
  let dev ← s.translate (BitVec.ofNat 64 p) .r 8
  let hdr ← s.mintLoad p
  if bits hdr 36 12 ≠ 0 then afterAll [BitVec.ofNat 64 p] (graphTrap 2 p)
  let lay ← afterAll [BitVec.ofNat 64 p] (s.headerLayout hdr p)
  let body ← (List.range (hdrN hdr)).mapM fun i => afterAll (pageStarts p (8 + 8 * i)) (s.mintLoad (p + 8 + 8 * i))
  .ok { at_ := p, dev, hdr, body, lay }
/-- The pages that a Visit translated. -/
def Obj.pages (o : Obj) : List Word := pageStarts o.at_ (8 + 8 * o.body.length)
/-- The indexes of the pointer words of an object, ascending (13_graphs R230). -/
def Obj.ptrs (o : Obj) : List Nat := (List.range o.body.length).filter o.lay.isPtr
/-- The indexes of its data words. -/
def Obj.data (o : Obj) : List Nat := (List.range o.body.length).filter fun i => !o.lay.isPtr i

/-! ### The work record -/

/-- The 8-byte word at offset `o` of a run's record (13_graphs R232). -/
def State.recWord (s : State) (m : MintRun) (o : Nat) : Nat := s.num (m.at_ o) 8
/-- That word written, as an immediate-class store (13_graphs R232). -/
def State.setRec (s : State) (m : MintRun) (o v : Nat) : State := s.commitWord (m.at_ o) (BitVec.ofNat 64 v)
/-- VTCAP (13_graphs R232). -/
def MintRun.cap (m : MintRun) : Nat := 2 ^ m.vtlog
/-- Offset of the op area, and of the first frame (13_graphs R232, R234). -/
def MintRun.opArea (m : MintRun) : Nat := 64 + 16 * m.cap
/-- Offset of the first frame. -/
def MintRun.frames (m : MintRun) : Nat := m.opArea + 128
/-- VISITED. -/
def State.visited (s : State) (m : MintRun) : Nat := s.recWord m 0x18
/-- STKTOP. -/
def State.stkTop (s : State) (m : MintRun) : Nat := s.recWord m 0x28 / 2 ^ 32
/-- STKTOP ← v. -/
def State.setTop (s : State) (m : MintRun) (v : Nat) : State := s.setRec m 0x28 (m.stk + 2 ^ 32 * v)
/-- EMITTED + n. -/
def State.emitted (s : State) (m : MintRun) (n : Nat) : State := s.setRec m 0x20 (s.recWord m 0x20 + n)
/-- The locked banks that the Mint's accesses to a run's record meet (08_slots R140). -/
def State.recLocks (s : State) (m : MintRun) : List (CoreId × BitVec 4) := s.pagesLocks m.pages m.recAddr (m.opArea + m.stk)
/-- Whether the run of the slot at `p` stalls on a locked bank of its record, one that has not released it (08_slots R140). -/
def State.recStalls (s : State) (p : Place) (m : MintRun) : Bool := (s.recLocks m).any fun e => !freedFrom (s.slotAt p).stalls e
/-- The run of the slot at `p` has met the locked banks `ls` (08_slots R140). -/
def State.mintMeets (s : State) (p : Place) (ls : List (CoreId × BitVec 4)) : State := s.modSlot p fun t => { t with stalls := meets t.stalls ls }

/-- The key of an object: USED, G2 and the device address (13_graphs R233). -/
def visitKey (dev g2 : Nat) : Nat := 1 + 2 * g2 + bits dev 3 53 * 8
/-- The home entry of an object (13_graphs R233). -/
def visitHome (vtlog dev g2 : Nat) : Nat :=
  (dev / 8 + 2 ^ 60 * g2) * 0x9E3779B97F4A7C15 % 2 ^ 64 / 2 ^ (64 - vtlog)
/-- Probing upward from an entry: the entry of the key with its value, or the free entry (13_graphs R233). -/
def State.probe (s : State) (m : MintRun) (key : Nat) : Nat → Nat → Nat × Option Nat
  | 0, i => (i, none)
  | n + 1, i =>
    let k := s.recWord m (64 + 16 * i)
    if k = key then (i, some (s.recWord m (72 + 16 * i)))
    else if k % 2 = 0 then (i, none)
    else s.probe m key n ((i + 1) % m.cap)
/-- The lookup of an object in the visited table (13_graphs R233). -/
def State.lookup (s : State) (m : MintRun) (dev g2 : Nat) : Nat × Option Nat :=
  s.probe m (visitKey dev g2) m.cap (visitHome m.vtlog dev g2)
/-- An object is entered (13_graphs R233). -/
def State.enter (s : State) (m : MintRun) (i dev g2 v : Nat) : State :=
  (s.setRec m (64 + 16 * i) (visitKey dev g2)).setRec m (72 + 16 * i) v

/-- The bytes of an entry of a frame: 24 for `gcmp`, else 16 (13_graphs R234). -/
def MintRun.entry (m : MintRun) : Nat := if m.op = 2 then 24 else 16
/-- The bytes of a frame of `n` entries (13_graphs R234). -/
def MintRun.frameSize (m : MintRun) (n : Nat) : Nat := 32 + m.entry * n
/-- The last frame at or above `pos`, with its third word; frames end at `top` (13_graphs R234). -/
def State.lastFrame (s : State) (m : MintRun) (top : Nat) : Nat → Nat → Option (Nat × Nat) → Option (Nat × Nat)
  | 0, _, l => l
  | n + 1, pos, l =>
    if top ≤ pos then l
    else
      let w := s.recWord m (m.frames + pos + 16)
      s.lastFrame m top n (pos + m.frameSize (w % 2 ^ 16)) (some (pos, w))
/-- The top frame: its position and third word. -/
def State.topFrame (s : State) (m : MintRun) : Option (Nat × Nat) :=
  s.lastFrame m (s.stkTop m) (s.stkTop m / 32 + 1) 0 none
/-- Exhausted frames are popped (13_graphs R231, R235). -/
def State.popFrames (s : State) (m : MintRun) : Nat → State
  | 0 => s
  | n + 1 =>
    match s.topFrame m with
    | none => s
    | some (_, w) =>
      if bits w 16 16 = w % 2 ^ 16 then (s.setTop m (s.stkTop m - m.frameSize (w % 2 ^ 16))).popFrames m n else s
/-- A frame is pushed: its head, and the entries' words in order (13_graphs R234). -/
def State.push (s : State) (m : MintRun) (dev dev2 ord out : Nat) (entries : List (List Nat)) : State :=
  let top := s.stkTop m
  let f := m.frames + top
  let t := (((s.setRec m f dev).setRec m (f + 8) dev2).setRec m (f + 16) (entries.length % 2 ^ 16 + 2 ^ 32 * ord)).setRec m (f + 24) out
  let u := entries.flatten.zipIdx.foldl (fun t e => t.setRec m (f + 32 + 8 * e.2) e.1) t
  u.setTop m (top + m.frameSize entries.length)
/-- A visited table that holds `used` objects takes one more, with an entry left unused (13_graphs R233). -/
def MintRun.room (m : MintRun) (used p : Nat) : Act Unit := if m.cap ≤ used + 1 then graphTrap 7 p else .ok ()
/-- The stack takes a frame of `n` entries (13_graphs R234). -/
def State.stackRoom (s : State) (m : MintRun) (n p : Nat) : Act Unit :=
  if m.stk - 128 < s.stkTop m + m.frameSize n then graphTrap 8 p else .ok ()

/-! ### Writes of the Mint -/

/-- The device addresses of the Mint's 8-byte stores, each translated and touchable; control space is no place for
them (notes/assumptions/14). -/
def State.mintTargets (s : State) (ws : List (Nat × Nat)) : Act (List (Nat × Nat)) :=
  ws.zipIdx.mapM fun w => afterAll ((ws.take w.2).map fun e => BitVec.ofNat 64 e.1) (do
    let va := BitVec.ofNat 64 w.1.1
    let da ← s.translate va .w 8
    s.touchable va da 8 false
    check (da / 2 ^ 43 != s.pkg || !inCtl (da % 2 ^ 43)) .prot va
    .ok (da, w.1.2))
/-- One such store: immediate class, or a fabric write of the population (13_graphs R238, R243). -/
def State.mintStore (s : State) (rec_ : Option Nat) (w : Nat × Nat) : State :=
  if w.1 / 2 ^ 43 = s.pkg then s.portWrite (w.1 % 2 ^ 43) (toBytes 8 w.2)
  else s.sendFabric s.issuer w.1 0 0 (toBytes 8 w.2) false false false false rec_
/-- The stores of a step, all translated before the first. -/
def State.mintWrite (s : State) (rec_ : Option Nat) (ws : List (Nat × Nat)) : Act State := do
  let ts ← s.mintTargets ws
  .ok (ts.foldl (fun t w => t.mintStore rec_ w) (ws.foldl (fun t w => t.touch (BitVec.ofNat 64 w.1)) s))

/-- An allocation of `n` bytes from the heap whose descriptor is at `desc`: the old NEXT and HEAPID, and the state
with NEXT advanced; none where it fails (13_graphs R241). -/
def State.allocate (s : State) (desc n : Nat) : Act (Option (Nat × Nat × State)) := do
  let va := BitVec.ofNat 64 desc
  let da ← s.translate va .rw 32
  s.touchable va da 32 true
  let q := da % 2 ^ 43
  let next := s.num q 8
  if next + n ≤ s.num (q + 8) 8 then .ok (some (next, s.num (q + 16) 2, (s.touch va).commitWord q (BitVec.ofNat 64 (next + n))))
  else .ok none

/-! ### SHA-256 in the op area -/

/-- The hash state of the op area (13_graphs R234): the state words, the byte count, the fill and the partial block. -/
structure Sha where
  st    : List Nat
  count : Nat
  fill  : Nat
  part  : List Byte
/-- The hash state at the start of a stream. -/
def Sha.start : Sha := { st := (List.range 8).map fun i => bits shaH (32 * i) 32, count := 0, fill := 0, part := List.replicate 64 0 }
/-- A token of 8 bytes, little-endian (13_graphs R244). -/
def Sha.absorb (h : Sha) (t : Nat) : Sha :=
  let part := h.part.take h.fill ++ toBytes 8 t ++ h.part.drop (h.fill + 8)
  if h.fill + 8 = 64 then { st := shaBlock h.st part, count := h.count + 8, fill := 0, part }
  else { h with count := h.count + 8, fill := h.fill + 8, part }
/-- The digest of the padded stream, in FIPS 180-4 byte order. -/
def Sha.digest (h : Sha) : List Byte :=
  let pad := (119 - h.fill) % 64
  let text := h.part.take h.fill ++ [0x80] ++ List.replicate pad 0 ++ toBytesBE 8 (8 * h.count)
  (shaBlocks 3 h.st text).flatMap (toBytesBE 4)
/-- The hash state that a run's op area holds. -/
def State.readSha (s : State) (m : MintRun) : Sha :=
  let at_ (o : Nat) := m.opArea + o
  { st := (List.range 8).map fun i => s.num (m.at_ (at_ (4 * i))) 4, count := s.recWord m (at_ 0x20),
    fill := s.recWord m (at_ 0x28), part := (List.range 8).flatMap fun i => toBytes 8 (s.recWord m (at_ (0x40 + 8 * i))) }
/-- The hash state written into the op area. -/
def State.writeSha (s : State) (m : MintRun) (h : Sha) : State :=
  let at_ (o : Nat) := m.opArea + o
  let t := ((s.commit (h.st.zipIdx.flatMap fun w => cells (m.at_ (at_ (4 * w.2))) (toBytes 4 w.1))).setRec m (at_ 0x20) h.count).setRec m (at_ 0x28) h.fill
  (List.range 8).foldl (fun t i => t.setRec m (at_ (0x40 + 8 * i)) (ofBytes ((h.part.drop (8 * i)).take 8))) t
/-- Tokens are absorbed and counted (13_graphs R244, R232). -/
def State.absorb (s : State) (m : MintRun) (ts : List Nat) : State :=
  (s.writeSha m (ts.foldl Sha.absorb (s.readSha m))).emitted m ts.length

/-! ### Steps -/

/-- What a step gives: a state, or a stop with the state that it leaves (13_graphs R235, R241). -/
abbrev StepOut := Except (State × Stop) State
/-- A step that leaves the state as it was where it stops. -/
def unchanged (s : State) (r : Act State) : StepOut :=
  match r with | .ok t => .ok t | .error e => .error (s, e)
/-- The pointer word that a step examines: the position of its frame, that frame's third word, the word's index, and
the frame's output offset (13_graphs R234). -/
structure Examined where
  pos : Nat
  w2  : Nat
  idx : Nat
  out : Nat
/-- F.NEXT + 1, at the end of a step (13_graphs R235). -/
def State.examined (s : State) (m : MintRun) : Option Examined → State
  | none => s
  | some e => s.setRec m (m.frames + e.pos + 16) (e.w2 + 2 ^ 16)
/-- The target of a pointer (13_graphs R235): nil, not followed, an object with its value in the visited table, or a
new one with its entry. -/
inductive Target where
  | nil
  | skip
  | old (v : Nat)
  | new (o : Obj) (i : Nat)
/-- Reach(p): the lookup, the Visit of a new target and the capacity checks (13_graphs R235, R246). -/
def State.reach (s : State) (m : MintRun) (p : Nat) : Act Target := do
  if p = 0 then .ok .nil
  else if p % 8 ≠ 0 then graphTrap 1 p
  else
    let other ← if m.op = 4 then do
        let h ← s.mintLoad p
        let heap ← afterAll [BitVec.ofNat 64 p] (s.mintLoad (m.dest.toNat + 16))
        pure (bits h 48 16 != heap % 2 ^ 16)
      else pure false
    if other then .ok .skip
    else
      let dev ← s.translate (BitVec.ofNat 64 p) .r 8
      match s.lookup m dev 0 with
      | (_, some v) => .ok (.old v)
      | (i, none) => do
        let o ← s.visit p
        afterAll o.pages (do m.room (s.visited m) p; s.stackRoom m o.ptrs.length p)
        .ok (.new o i)
/-- The addresses that a Reach of `p` translated, beside the descriptor of `grel`. -/
def Target.pages (p : Nat) : Target → List Word
  | .nil => []
  | .new o _ => o.pages
  | _ => [BitVec.ofNat 64 p]
/-- A new target is entered with a value, its frame is pushed, and VISITED + 1 (13_graphs R231, R233-R235). -/
def State.enterNew (s : State) (m : MintRun) (o : Obj) (i v out : Nat) : State :=
  let s := o.pages.foldl State.touch s
  let k := s.visited m
  let t := ((s.enter m i o.dev 0 v).push m o.dev 0 k out (o.ptrs.map fun j => [o.body.getD j 0, j])).setRec m 0x18 (k + 1)
  t.keepCapture (t.layoutAt t.me.part.val (hdrType o.hdr)) 32
/-- The value of an object in the visited table but for `gcopy`: the ordinal and n (13_graphs R233). -/
def Obj.entry (o : Obj) (k : Nat) : Nat := k + 2 ^ 32 * o.body.length
/-- The data words of an object written from an address on (13_graphs R240). -/
def Obj.words (o : Obj) (a hdr : Nat) : List (Nat × Nat) :=
  (a, hdr) :: o.data.map fun i => (a + 8 + 8 * i, o.body.getD i 0)
/-- A step of `gcopy` (13_graphs R240, R241). -/
def State.stepCopy (s : State) (m : MintRun) (e : Option Examined) (p : Nat) : StepOut :=
  match s.reach m p with
  | .error x => .error (s, x)
  | .ok target =>
    let seen := target.pages p
    let parent (v : Nat) : List (Nat × Nat) := match e with | some e => [(e.out + 8 * (1 + e.idx), v)] | none => []
    match target with
    | .new o i =>
      (match s.allocate m.dest.toNat (8 * (1 + o.body.length)) with
       | .error x => .error (s, .after seen x)
       | .ok none => .error (s, .after (seen ++ [m.dest]) (.trap .graph 6 (BitVec.ofNat 64 p)))
       | .ok (some (a, heap, t)) =>
         let ws := parent a ++ o.words a (o.hdr % 2 ^ 48 + 2 ^ 48 * heap) ++ o.ptrs.map fun j => (a + 8 + 8 * j, 0)
         match t.mintWrite none ws with
         | .error x => .error (t, .after seen x)
         | .ok t =>
           let t := (t.enterNew m o i a a).setRec m 0x38 (t.recWord m 0x38 + 1 + o.body.length)
           let t := if e.isNone then t.setRec m 0x30 a else t
           .ok ((t.emitted m ((parent a).length + 1 + o.data.length)).examined m e))
    | .old v => unchanged s ((afterAll seen (s.mintWrite none (parent v))).map fun t => (t.emitted m (parent v).length).examined m e)
    | _ => unchanged s ((afterAll seen (s.mintWrite none (parent 0))).map fun t => (t.emitted m (parent 0).length).examined m e)
/-- A step of `gsend` (13_graphs R240, R243). -/
def State.stepSend (s : State) (m : MintRun) (e : Option Examined) (p : Nat) : StepOut :=
  unchanged s (do
    let target ← s.reach m p
    let parent (v : Nat) : List (Nat × Nat) :=
      match e with | some e => [(m.dest.toNat + e.out + 8 * (1 + e.idx), v)] | none => []
    let k := s.visited m
    let here := some (m.at_ 0)
    match target with
    | .new o i =>
      let off := s.recWord m 0x30
      let ws := parent (2 ^ 63 + k) ++ o.words (m.dest.toNat + off) o.hdr
      let t ← afterAll o.pages (s.mintWrite here ws)
      let t := (t.enterNew m o i (o.entry k) off).setRec m 0x30 (off + 8 * (1 + o.body.length))
      .ok ((t.emitted m ws.length).examined m e)
    | .old v =>
      let t ← afterAll [BitVec.ofNat 64 p] (s.mintWrite here (parent (2 ^ 63 + v % 2 ^ 32)))
      .ok ((t.emitted m (parent 0).length).examined m e)
    | _ =>
      let t ← s.mintWrite here (parent 0)
      .ok ((t.emitted m (parent 0).length).examined m e))
/-- A step of `ghash` (13_graphs R240, R244). A nil root, which assigns no ordinal, leaves the stream of its one token
however often the root step runs. -/
def State.stepHash (s : State) (m : MintRun) (e : Option Examined) (p : Nat) : StepOut :=
  unchanged s (do
    let target ← s.reach m p
    let token (v : Nat) : List Nat := if e.isSome then [v] else []
    let k := s.visited m
    match target with
    | .new o i =>
      let ts := token (k + 1) ++ [hdrType o.hdr, o.body.length] ++ o.data.map fun j => o.body.getD j 0
      .ok (((s.absorb m ts).enterNew m o i (o.entry k) 0).examined m e)
    | .old v => .ok ((s.absorb m (token (v % 2 ^ 32 + 1))).examined m e)
    | _ =>
      if e.isSome then .ok ((s.absorb m [0]).examined m e)
      else .ok ((s.writeSha m (Sha.start.absorb 0)).setRec m 0x20 1))
/-- A step of `grel` (13_graphs R246). -/
def State.stepRelease (s : State) (m : MintRun) (e : Option Examined) (p : Nat) : StepOut :=
  unchanged s (do
    let target ← s.reach m p
    match target with
    | .new o i =>
      let n := 1 + o.body.length
      let heap := m.dest + 24
      let seen := o.pages ++ [m.dest + 16]
      let da ← afterAll seen (s.translate heap .rw 8)
      afterAll seen (s.touchable heap da 8 true)
      let t ← afterAll (seen ++ [heap]) (s.mintWrite none [(p, o.hdr / 2 ^ 20 * 2 ^ 20)])
      let t := (t.touch heap).commitWord (da % 2 ^ 43) (t.word (da % 2 ^ 43) + BitVec.ofNat 64 n)
      let t := (t.enterNew m o i (o.entry (s.visited m)) 0).setRec m 0x30 (t.recWord m 0x30 + n)
      .ok ((t.emitted m n).examined m e)
    | .nil => .ok (s.examined m e)
    | _ => .ok ((s.touch (m.dest + 16)).examined m e))

/-! ### `gcmp` -/

/-- What a pair gives (13_graphs R245). -/
inductive Pair where
  | same
  | differ (kind ord word compared : Nat)
  | new (a b : Obj) (i j : Nat)
/-- The first data word in which two objects of one layout differ (13_graphs R245). -/
def firstDiff (a b : Obj) : Option Nat := a.data.find? fun i => a.body.getD i 0 != b.body.getD i 0
/-- The pair (p, q), with the ordinal and word of the parent's (13_graphs R245). DESIGN CHOICE: the capacity checks of R235's third
item, the table for `p`, the table for `q`, then the stack, come before the comparison, so that a pair that would be unequal traps too
where it would not fit, and `p` is the object that a full stack names (notes/assumptions/93). -/
def State.pair (s : State) (m : MintRun) (ord word p q : Nat) : Act (List Word × Pair) := do
  if p = 0 ∧ q = 0 then .ok ([], .same)
  else if p = 0 ∨ q = 0 then .ok ([], .differ 4 ord word 0)
  else if p % 8 ≠ 0 then graphTrap 1 p
  else if q % 8 ≠ 0 then graphTrap 1 q
  else
    let dp ← s.translate (BitVec.ofNat 64 p) .r 8
    let dq ← afterAll [BitVec.ofNat 64 p] (s.translate (BitVec.ofNat 64 q) .r 8)
    let both := [BitVec.ofNat 64 p, BitVec.ofNat 64 q]
    match s.lookup m dp 0, s.lookup m dq 1 with
    | (_, some x), (_, some y) => .ok (both, if x % 2 ^ 32 = y % 2 ^ 32 then .same else .differ 5 ord word 0)
    | (i, none), (j, none) => do
      let a ← s.visit p
      let b ← afterAll a.pages (s.visit q)
      let k := s.visited m
      let seen := a.pages ++ b.pages
      afterAll seen (do m.room (2 * k) p; m.room (2 * k + 1) q; s.stackRoom m a.ptrs.length p)
      .ok (seen,
        if hdrType a.hdr ≠ hdrType b.hdr then .differ 1 k 0 0
        else if a.body.length ≠ b.body.length then .differ 2 k 0 0
        else match firstDiff a b with
          | some d => .differ 3 k d ((a.data.filter (· ≤ d)).length)
          | none => .new a b i j)
    | _, _ => .ok (both, .differ 5 ord word 0)
/-- The entry of the second object of a pair, once the first is entered: a free entry of the table. -/
def State.enterPair (s : State) (m : MintRun) (a b : Obj) (i : Nat) : State :=
  let k := s.visited m
  let t := s.enter m i a.dev 0 (a.entry k)
  let t := t.enter m (t.lookup m b.dev 1).1 b.dev 1 (b.entry k)
  let t := (t.push m a.dev b.dev k 0 (a.ptrs.map fun j => [a.body.getD j 0, b.body.getD j 0, j])).setRec m 0x18 (k + 1)
  let q := t.layoutAt t.me.part.val (hdrType a.hdr)
  (t.keepCapture q 32).emitted m a.data.length

/-! ### A run -/

/-- The run ends: STATE 2, BUSY 0, and the instruction completes with RESULT0 (13_graphs R235). -/
def State.endRun (s : State) (m : MintRun) : State :=
  let t := (s.commitAt (m.at_ 1) [2]).commitAt (m.at_ 3) [Memory.get s.mem (m.at_ 3) &&& 0xFE]
  let u := t.modMe fun q => { q with state := .ready, mint := none }
  (u.setX m.xd (BitVec.ofNat 64 (u.recWord m 0x30))).retire (s.me.pc + 4)
/-- A step of `gcmp`, which may end the run (13_graphs R245). The ordinal and word of a difference at the roots
themselves are free: R245 names none (notes/assumptions/17). -/
def State.stepCompare (s : State) (m : MintRun) (e : Option Examined) (p q : Nat) : Except (State × Stop) (State × Bool) :=
  let free := (Config.freeWord (s.choice 5)).toNat
  let ord := match e with | some e => bits e.w2 32 32 | none => free % 2 ^ 32
  let word := match e with | some e => e.idx | none => bits free 32 16
  match s.pair m ord word p q with
  | .error x => .error (s, x)
  | .ok (seen, .same) => .ok ((seen.foldl State.touch s).examined m e, false)
  | .ok (seen, .differ kind o w n) =>
    .ok (((((seen.foldl State.touch s).emitted m n).setRec m 0x30 (2 ^ 32 * o + 2 ^ 16 * w + 2 * kind)).setTop m 0), true)
  | .ok (seen, .new a b i _) => .ok (((seen.foldl State.touch s).enterPair m a b i).examined m e, false)
/-- One step on a pointer (13_graphs R235); whether the run ends at once. -/
def State.stepOn (s : State) (m : MintRun) (e : Option Examined) (p q : Nat) : Except (State × Stop) (State × Bool) :=
  let go (r : StepOut) : Except (State × Stop) (State × Bool) := r.map fun t => (t.touch (BitVec.ofNat 64 p), false)
  match m.op with
  | 0 => go (s.stepCopy m e p)
  | 1 => go (s.stepSend m e p)
  | 2 => s.stepCompare m e p q
  | 3 => go (s.stepHash m e p)
  | _ => go (s.stepRelease m e p)
/-- The run record of the slot after a step: the count, and the next allowance at every 1,024th step (13_graphs R236). -/
def MintRun.stepped (m : MintRun) : MintRun :=
  { m with rooted := true, steps := m.steps + 1, stage := if (m.steps + 1) % 1024 = 0 then .admitting else m.stage }
/-- FinishHook(op), where the stack is empty (13_graphs R235, R243-R245). -/
def State.finishRun (s : State) (m : MintRun) : StepOut :=
  match m.op with
  | 1 => .ok (s.modMe fun t => { t with mint := some { m with stage := .objects } })
  | 2 => .ok ((s.setRec m 0x30 0xFFFFFFFF00000001).endRun m)
  | 3 =>
    let h := s.readSha m
    let d := h.digest
    unchanged s ((s.mintWrite none ((List.range 4).map fun i => (m.dest.toNat + 8 * i, ofBytes ((d.drop (8 * i)).take 8)))).map
      fun t => (t.setRec m 0x30 h.count).endRun m)
  | _ => .ok (s.endRun m)
/-- The root step, a step, or the end of a run of the executing slot (13_graphs R235). -/
def State.advanceRun (s : State) (m : MintRun) : StepOut :=
  let close (r : Except (State × Stop) (State × Bool)) : StepOut :=
    r.map fun t =>
      let u := (t.1.modMe fun q => { q with mint := some m.stepped }).pulse s.me.popid
      if t.2 then u.endRun m else u
  if !m.rooted && s.visited m = 0 then close (s.stepOn m none (s.recWord m 0x08) m.dest.toNat)
  else
    let s := s.popFrames m (s.stkTop m / 32 + 1)
    match s.topFrame m with
    | none => s.finishRun m
    | some (pos, w) =>
      let e := m.frames + pos + 32 + m.entry * bits w 16 16
      let x : Examined := { pos, w2 := w, idx := s.recWord m (e + m.entry - 8), out := s.recWord m (m.frames + pos + 24) }
      close (s.stepOn m (some x) (s.recWord m e) (s.recWord m (e + 8)))
/-- The locked bank on which a step stalls (08_slots R140). -/
def Stop.stalled : Stop → Option (CoreId × BitVec 4)
  | .stall c b => some (c, b)
  | .after _ e => e.stalled
  | _ => none
/-- The subcode of a GRAPH trap. -/
def Stop.graph : Stop → Option Nat
  | .trap .graph sub _ => some sub
  | .after _ e => e.graph
  | _ => none
/-- A run that stops: GRAPH sets SUB and STATE 3; BUSY is cleared, and the slot traps (13_graphs R236). -/
def State.stopRun (s : State) (m : MintRun) (x : Stop) : State :=
  let t := match x.graph with
    | some sub => (s.commitAt (m.at_ 2) [BitVec.ofNat 8 sub]).commitAt (m.at_ 1) [3]
    | none => s
  match finish t (.error x) with
  | .next u => u
  | _ => t
/-- The slot at `p` acts: `f` gives its outcome, and a stall on a locked bank leaves everything else as it was (08_slots R140). -/
def State.mintAct (s : State) (p : Place) (f : State → MintRun → StepOut) : State :=
  match (s.slotAt p).mint with
  | none => s
  | some m =>
    if (s.slotAt p).state ≠ .wait then s
    else if s.recStalls p m then s.mintMeets p (s.recLocks m)
    else match f { s with cur := p } m with
      | .ok t => { t with cur := s.cur }
      | .error (t, x) => (match x.stalled with | some e => s.mintMeets p [e] | none => { t.stopRun m x with cur := s.cur })
/-- Whether a run stays at its stop point for a boundary trap, a rotation or a rollback of its slot (R236, 08_slots R141, R149,
15_messages R283). -/
def State.mintHeld (s : State) (p : Place) : Bool :=
  (s.slotAt p).intr.isSome || (s.slotAt p).pending.isSome || (s.core p.core.val).rotLeft.getLsbD p.slot.val
/-- Whether the run of the slot at `p` is to step: one that a locked bank has released completes its step (R235, R236, 08_slots
R140). -/
def State.mintDue (s : State) (p : Place) : Bool :=
  match (s.slotAt p).mint with
  | some m => (s.slotAt p).state == .wait && m.stage == .walking && (!s.mintHeld p || (s.slotAt p).released)
  | none => false
/-- Whether it may step, with no locked bank of its record in its way (08_slots R140). -/
def State.mintReady (s : State) (p : Place) : Bool := s.mintDue p && ((s.slotAt p).mint.all fun m => !s.recStalls p m)
/-- The number of a slot in its die. -/
def Place.inDie (p : Place) : Nat := p.core.val % 128 * 16 + p.slot.val
/-- How far after the run that stepped last the rotation of die `d` reaches the slot at `p` (R238). -/
def State.mintTurn (s : State) (p : Place) : Nat := (p.inDie + 2047 - (s.die (dieOf p.core.val)).mintAt % 2048) % 2048
/-- Whether the rotation of the die's runs has come to the slot at `p`: no run that may step comes before it (R238). -/
def State.mintFirst (s : State) (p : Place) : Bool :=
  s.cores.all fun k => dieOf k.1 != dieOf p.core.val || allSlots.all fun i =>
    let q : Place := { core := Fin.ofNat 1024 k.1, slot := i }
    !(s.mintReady q && decide (s.mintTurn q < s.mintTurn p))
/-- MINT_STEP: the step of the run whose turn it is (R235, R238). -/
def execMintStep (c : CoreId) (sl : SlotId) (s : State) : Out :=
  let p : Place := { core := c, slot := sl }
  if s.still || !s.mintDue p || !s.mintFirst p then .next s else
  let t := s.mintAct p fun t m => (t.advanceRun m).map fun u => u.modMe fun q => { q with stalls := [] }
  .next (if s.mintReady p then t.modDie (dieOf c.val) fun d => { d with mintAt := p.inDie } else t)
/-- MINT_STOP_POINT: no stop point comes before the access that a locked bank has released (08_slots R140); there a thread that is to stop stops, and a boundary trap that waits for the slot is taken; else, at a 1,024th step, a
further allowance is asked for (R236, 08_slots R146). -/
def execMintStopPoint (c : CoreId) (sl : SlotId) (s : State) : Out :=
  .next (s.mintAct { core := c, slot := sl } fun t m =>
    if t.me.released then .ok t
    else if m.stage = .walking ∨ m.stage = .admitting then
      if t.me.stopping then .ok (t.stopThread t.cur)
      else if t.me.intr.isSome then .ok (t.takeIntr t.cur)
      else if m.stage = .walking || t.mintHeld t.cur then .ok t
      else
        let go (u : State) : State := u.modMe fun q => { q with mint := some { m with stage := .walking }, prog := .none }
        if t.me.prog = .granted then .ok (go t)
        else if 64 ≤ t.me.res then .ok (go (t.modMe fun q => { q with res := q.res - 64 }))
        else
          let (u, yes) := t.askTreasury 64
          .ok (if yes then go u else u)
    else .ok t)
/-- The sizes of the objects in words, in ordinal order, from the visited table (13_graphs R243). -/
def State.sizes (s : State) (m : MintRun) : List Nat :=
  let es := (List.range m.cap).filterMap fun i =>
    if s.recWord m (64 + 16 * i) % 2 = 1 then some (s.recWord m (72 + 16 * i)) else none
  (List.range (s.visited m)).map fun k => match es.find? fun v => v % 2 ^ 32 == k with | some v => 1 + bits v 32 16 | none => 0
/-- The 8-byte words of the size list, zero-padded (13_graphs R243). -/
def sizeWords : List Nat → List Nat
  | a :: b :: t => (a + 2 ^ 32 * b) :: sizeWords t
  | [a] => [a]
  | [] => []
/-- GSEND_FINISH: once every earlier write is acknowledged, the size words, then, where no write was refused, the end
header as one end write, then completion (R243). -/
def execGsendFinish (c : CoreId) (sl : SlotId) (s : State) : Out :=
  if s.still then .next s else
  .next (s.mintAct { core := c, slot := sl } fun t m =>
    let here := m.at_ 0
    let dest := m.dest.toNat + t.recWord m 0x30
    let at_ (st : MintStage) (u : State) : State := u.modMe fun q => { q with mint := some { m with stage := st }, stalls := [] }
    if t.out.any fun o => o.mint == some here then .ok t
    else match m.stage with
      | .objects =>
        let ws := (sizeWords (t.sizes m)).zipIdx.map fun w => (dest + 16 + 8 * w.2, w.1)
        unchanged t ((t.mintWrite (some here) ws).map (at_ .sizes))
      | .sizes =>
        if t.recWord m 0x38 ≠ 0 then .ok (t.endRun m)
        else unchanged t ((t.mintTargets [(dest, 0)]).map fun ts =>
          let da := (ts.getD 0 (0, 0)).1
          at_ .header (t.sendFabric t.issuer da 0 0 (toBytes 4 0x4B474E44 ++ toBytes 4 (t.visited m) ++ toBytes 8 (t.recWord m 0x30))
            false false false true (some here)))
      | .header => .ok (t.endRun m)
      | _ => .ok t)

/-! ### Issue -/

/-- The header checks of R235, on the 64 captured bytes. -/
def recordOk (op h : Nat) : Bool :=
  let st := bits h 8 8
  bits h 25 7 == 0 && bits h 37 27 == 0 && decide (4 ≤ bits h 32 5 ∧ bits h 32 5 ≤ 28) &&
  bits h 320 32 % 16 == 0 && decide (160 ≤ bits h 320 32) && decide (st ≤ 3) && bits h 24 1 == 0 &&
  (st == 0 || bits h 0 8 == op)
/-- Whether DEST meets the rule of its instruction (13_graphs R240). -/
def State.destOk (s : State) (op dest : Nat) : Bool :=
  match op with
  | 1 => dest % 64 == 0 && dest / 2 ^ 56 == 0x80 && bits dest 43 13 != s.pkg
  | 2 => true
  | _ => dest % 32 == 0
/-- The runs of a die (13_graphs R238). -/
def State.mintRuns (s : State) (d : Nat) : Nat :=
  (s.cores.map fun c => if dieOf c.1 = d then (c.2.slots.toList.filter fun t => t.mint.isSome).length else 0).sum
/-- The start of a fresh run: the header, the visited table and the op area (13_graphs R235, R234). -/
def State.startRun (s : State) (m : MintRun) (root : Word) : State :=
  let t := s.setRec m 0x00 (m.op + 2 ^ 8 + 2 ^ 24 + 2 ^ 32 * m.vtlog)
  let t := [(0x08, root.toNat), (0x18, 0), (0x20, 0), (0x30, 0), (0x38, 0)].foldl (fun t w => t.setRec m w.1 w.2) t
  let t := (List.range ((m.frames - 64) / 8)).foldl (fun t i => if t.recWord m (64 + 8 * i) = 0 then t else t.setRec m (64 + 8 * i) 0) (t.setTop m 0)
  if m.op = 3 then t.writeSha m Sha.start else t
/-- The record at an offset is live, of a run of a population (13_graphs R232; notes/assumptions/74). -/
def State.addWork (s : State) (q : Nat) (pop : BitVec 32) : State := { s with works := s.works.filter (fun w => w.1 != q) ++ [(q, pop)] }
/-- The issue of a traversal instruction (13_graphs R235, R240). -/
def traverse (word op : Nat) (r w d : XReg) (s : State) : Out :=
  finish s (do
    s.tenantOnly word
    let rec_ := s.x w
    check (rec_.toNat % 64 = 0) .align rec_
    let da ← s.translate rec_ .rw 64
    s.touchable rec_ da 64 true
    let h := s.num (da % 2 ^ 43) 64
    if !recordOk op h then afterAll [rec_] (graphTrap 9 rec_.toNat)
    let vtlog := bits h 32 5
    let stk := bits h 320 32
    let size := 64 + 16 * 2 ^ vtlog + stk
    let pages ← s.pages rec_ .rw size
    afterAll (pageStarts rec_.toNat size) (check (pages.all fun p => !inCtl (p.2 % 2 ^ 43)) .prot rec_)
    let s := s.touchPages rec_ size
    if bits h 8 8 = 2 then .ok ((s.setX d (BitVec.ofNat 64 (bits h 384 64))).retire (s.me.pc + 4))
    else
      let dest := bits h 128 64
      if !s.destOk op dest then afterAll (pageStarts rec_.toNat size) (graphTrap 10 dest)
      let m : MintRun := { op, xd := d, recAddr := rec_, pages, dest := BitVec.ofNat 64 dest, vtlog, stk,
                           rooted := false, steps := 0, stage := .walking }
      (s.recLocks m).forM fun e => if freedFrom s.me.stalls e then .ok () else .error (.stall e.1 e.2)
      if 16 ≤ s.mintRuns (dieOf s.myId) then waitFor s .mintFree
      let s ← s.allowance 64
      let t := (if bits h 8 8 = 0 then s.startRun m (s.x r) else s.setRec m 0 (h % 2 ^ 64 + 2 ^ 24)).addWork (m.at_ 0) s.me.popid
      waitFor (t.modMe fun q => { q with mint := some m, prog := .none }) .mintRun)
/-- `gcopy` (R240). -/
def execGcopy (r w d : XReg) (s : State) : Out := traverse (wordGcopy r w d) 0 r w d s
/-- `gsend` (R243). -/
def execGsend (r w d : XReg) (s : State) : Out := traverse (wordGsend r w d) 1 r w d s
/-- `gcmp` (R245). -/
def execGcmp (r w d : XReg) (s : State) : Out := traverse (wordGcmp r w d) 2 r w d s
/-- `ghash` (R244). -/
def execGhash (r w d : XReg) (s : State) : Out := traverse (wordGhash r w d) 3 r w d s
/-- `grel` (R246). -/
def execGrel (r w d : XReg) (s : State) : Out := traverse (wordGrel r w d) 4 r w d s
/-- `oalloc` (R242). -/
def execOalloc (r w d : XReg) (s : State) : Out :=
  seq s (do
    s.tenantOnly (wordOalloc r w d)
    let t := (s.x r).toNat
    if bits t 36 12 ≠ 0 ∨ bits t 48 16 ≠ 0 then graphTrap 2 t
    let _ ← s.headerLayout t t
    let desc := (s.x w).toNat
    match ← s.allocate desc (8 * (1 + hdrN t)) with
    | none => afterAll [s.x w] (graphTrap 6 desc)
    | some (a, heap, u) =>
      let v ← afterAll [s.x w] (u.mintWrite none ((a, t % 2 ^ 36 + 2 ^ 48 * heap) :: (List.range (hdrN t)).map fun i => (a + 8 + 8 * i, 0)))
      .ok ((v.keepCapture (v.layoutAt v.me.part.val (hdrType t)) 32).setX d (BitVec.ofNat 64 a)))
/-- The image of an entry that `lmdef` takes (13_graphs R247). -/
def layoutImageOk (v : Nat) : Bool :=
  let l := layoutOf v
  decide (v = l.fmap + l.fixed * 2 ^ 64 + l.esize * 2 ^ 72 + l.emap * 2 ^ 80 + l.v.toNat * 2 ^ 127 + bits v 128 12 * 2 ^ 128) &&
  bits v 128 12 != 0 && decide (l.fixed ≤ 64) && decide (l.fmap < 2 ^ l.fixed) && decide (l.esize ≤ 8) && decide (l.emap < 2 ^ l.esize)
/-- `lmdef` (R247). -/
def execLmdef (r : XReg) (s : State) : Out :=
  seq s (do
    s.tenantOnly (wordLmdef r)
    let va := s.x r
    let q ← s.translateHere va .r 32
    s.touchable va (s.pkg * 2 ^ 43 + q) 32 true
    let bs := s.portBytes q 8 ++ s.portBytes (q + 8) 8 ++ s.portBytes (q + 16) 8 ++ s.portBytes (q + 24) 8
    let v := ofBytes bs
    if !layoutImageOk v then afterAll [va] (graphTrap 11 va.toNat)
    let e := s.layoutAt s.me.part.val (bits v 128 12)
    .ok (((s.touch va).commitAt e bs).dropCaptures e 32))

end Sys2Proof.Machine
end

