-- ==== Sys2Proof/Machine/Queue.lean ====
section
/-! DEFINITION. The command front end: rings, the mapper, records, the journal, completion records and placement
(01_device R16, R17, 09_memories R161, R175, 14_queues R250-R260). -/

namespace Sys2Proof.Machine

/-! ### Notifies and the mapper -/

/-- RING_NOTIFY: a store to a ring's notify word by a thread of a partition; another partition's store has trapped
(R255). -/
def execRingNotify (r : RingId) (part : Part) (s : State) : Out :=
  .next (if (s.ring r.val).part = part then s.notify r else s)
/-- The idle slot with the least LRN whose ring is of a partition (14_queues R255). -/
def State.ownIdleSlot (s : State) (p : Part) : Option Nat :=
  ((List.range 32).filter fun q => s.idle q && (match (s.active q).ring with | some r => (s.ring r.val).part == p | none => false)).foldl
    (fun best q =>
      match best with
      | none => some q
      | some b =>
        let lrn (n : Nat) := ((s.active n).ring.map fun r => (s.ring r.val).lrn.toNat).getD 0
        if lrn q < lrn b then some q else some b) none
/-- The slot that a pending ring can take now: a free or idle one below MAXSLOTS, else an idle one of its own
partition, which keeps the count (14_queues R255; notes/assumptions/18). -/
def State.slotFor (s : State) (r : RingId) : Option Nat :=
  let k := s.ring r.val
  if !k.ok || k.mapped then none
  else if s.activeOf k.part < (s.partition k.part.val).maxs.toNat then
    (((List.range 32).find? fun q => (s.active q).ring == none)).or s.idleSlot
  else s.ownIdleSlot k.part
/-- MAPPER_MAP_PENDING: the first pending ring, in the order of the notifies, that can take a slot takes it (R255). -/
def execMapperMapPending (s : State) : Out :=
  .next (match s.pendingRings.find? fun r => (s.slotFor r).isSome with
    | none => s
    | some r =>
      match s.slotFor r with
      | none => s
      | some q => (match (s.active q).ring with | some old => s.unmap old | none => s).mapTo r q)
/-- A store of V, with the rest of word 0 of a ring table entry; while the ring is mapped the store waits until the slot is idle
(R252). -/
def State.defineRing (s : State) (r : RingId) (v : Word) : State :=
  let k := s.ring r.val
  if k.mapped then (s.modRing r.val fun k => { k with held := k.held ++ [v] }).flushHeld r
  else s.modRing r.val fun k => k.define v
/-- RING_DEFINE: the service OS stores word 0 of a ring table entry (R252). -/
def execRingDefine (r : RingId) (v : Word) (s : State) : Out := .next (s.defineRing r v)

/-! ### Addresses and the journal -/

/-- Whether the offset is the notify word of a ring of a partition, the one word of control space that a tenant may store to
(09_memories R159, 14_queues R255). -/
def State.ownNotify (s : State) (p : Part) (q : Nat) : Bool :=
  decide (Config.queueBase ≤ q ∧ q < Config.queueBase + 0x2000) && (s.ring ((q - Config.queueBase) / 8)).part == p
/-- An address of a record, through the tables and rights of a partition: its package offset, or the reason of a
rejection (14_queues R254, R260). The local alias, which names no core here, does not translate
(notes/assumptions/19). -/
def State.translateFor (s : State) (p : Part) (va : Word) (acc : Acc) (size : Nat) : Except Nat Nat :=
  if formOf va = some .loc then .error 2
  else match s.translateAs 0 (some p) va acc size with
    | .error (.trap .noremld _ _) => .error 4
    | .error _ => .error 2
    | .ok da =>
      let q := da % 2 ^ 43
      if da / 2 ^ 43 ≠ s.pkg then .error 4
      else if acc.writes && inCtl q && !(size == 8 && s.ownNotify p q) then .error 2
      else .ok q
/-- The package offset of journal entry `j` (14_queues R259); JBASE lies on this package. DEDUCED: its package field is not compared
(notes/assumptions/41). -/
def State.journalAt (s : State) (j : Nat) : Nat := bits s.jbase.toNat 12 31 * 2 ^ 12 + 64 * (j % 2 ^ s.jlog.toNat)
/-- Words written at an offset, in order. -/
def State.putWords (s : State) (q : Nat) (ws : List Nat) : State :=
  ws.zipIdx.foldl (fun t w => t.commitWord (q + 8 * w.2) (BitVec.ofNat 64 w.1)) s
/-- Word 0 of a journal entry: ring, STATE, KIND, STATUS and reject reason (14_queues R259). -/
def journalWord (ring state kind status reason : Nat) : Nat :=
  ring + 2 ^ 12 * state + 2 ^ 16 * kind + 2 ^ 24 * status + 2 ^ 32 * reason
/-- A change of STATE of entry `j`, made only while SEQ still equals `j`; the time of the change, and the population
where it is placed, are written before word 0 (14_queues R259). -/
def State.journal (s : State) (j ring state kind status reason : Nat) (pop : Option Nat) : State :=
  let q := s.journalAt j
  if s.num (q + 0x38) 8 ≠ j then s
  else
    let t := s.commitWord (q + 0x18) s.time
    let t := match pop with | some p => t.commitWord (q + 0x20) (BitVec.ofNat 64 p) | none => t
    t.commitWord q (BitVec.ofNat 64 (journalWord ring state kind status reason))
/-- A completion record: bytes 0x08 to 0x3F, then word 0 (14_queues R258). -/
def State.complete (s : State) (q w0 pop tval failAt fails placed tag : Nat) : State :=
  (s.putWords (q + 8) [pop, tval, failAt, fails, placed, s.time.toNat, tag]).commitWord q (BitVec.ofNat 64 (w0 + 2 ^ 63))
/-- The completion record of a rejected LAUNCH (14_queues R258, R260). The TSC at placement of what was never placed
is free (notes/assumptions/20). -/
def State.rejectRecord (s : State) (q reason tval tag : Nat) : State :=
  s.complete q (4 + 2 ^ 24 * reason) 0 tval 0 0 (Config.freeWord (s.choice 7)).toNat tag

/-! ### Launch records -/

/-- Word `i` of a captured launch record (14_queues R257). -/
abbrev launchWord (im : List Word) (i : Nat) : Nat := (im.getD i 0).toNat
/-- QUOTA (14_queues R257). -/
def launchQuota (im : List Word) : Nat := bits (launchWord im 1) 0 4
/-- NUSER. -/
def launchUsers (im : List Word) : Nat := bits (launchWord im 1) 8 8
/-- VTDOM, where VTB is set. -/
def launchDom (im : List Word) : Option (BitVec 16) :=
  if bits (launchWord im 1) 32 1 = 1 then some (BitVec.ofNat 16 (launchWord im 1 / 2 ^ 16)) else none
/-- NSH. -/
def launchShared (im : List Word) : Nat := bits (launchWord im 1) 40 3
/-- The cores of the core set, rising. -/
def launchCores (im : List Word) : List CoreId :=
  ((List.range 1024).filter fun c => bits (launchWord im (16 + c / 64)) (c % 64) 1 == 1).map (Fin.ofNat 1024)
/-- The limits of R257, and cores that exist (14_queues R257, R260). -/
def State.launchOk (s : State) (im : List Word) : Bool :=
  let w1 := launchWord im 1
  launchWord im 0 % 4 == 0 && decide (1 ≤ launchQuota im) && decide (launchUsers im ≤ 248) && decide (launchShared im ≤ 4) &&
  bits w1 4 4 == 0 && bits w1 33 7 == 0 && bits w1 43 21 == 0 && launchWord im 7 == 0 &&
  ((List.range (launchShared im)).all fun i => launchWord im (8 + 2 * i) % 64 == 0 && launchWord im (9 + 2 * i) % 64 == 0) &&
  launchCores im != [] && (launchCores im).all fun c => !(s.core c.val).absent
/-- The words at a virtual address of a partition: a launch's user words are read through it at acceptance, as a check, and at placement
(14_queues R257; notes/assumptions/95). -/
def State.wordsFor (s : State) (p : Part) (va : Nat) (n : Nat) : Except Nat (List Word) :=
  (List.range n).mapM fun i => (s.translateFor p (BitVec.ofNat 64 (va + 8 * i)) .r 8).map fun q => BitVec.ofNat 64 (ofBytes (s.portBytes q 8))
/-- The device pages of a shared range, as offset and length, or the reason of a rejection (09_memories R175). -/
def State.sharedPages (s : State) (p : Part) (base limit : Nat) : Nat → Except Nat (List (Nat × Nat))
  | 0 => .ok []
  | n + 1 =>
    if limit ≤ base then .ok []
    else
      let len := min limit (base / 4096 * 4096 + 4096) - base
      match s.translateFor p (BitVec.ofNat 64 base) .w 8 with
      | .error r => .error r
      | .ok q => (s.sharedPages p (base + len) limit n).map fun l => (q, len) :: l
/-- The pages of every shared range of a launch, or the reason of a rejection and the base that the launch record gives the
range (09_memories R175, 14_queues R258). -/
def State.launchRanges (s : State) (p : Part) (im : List Word) : Except (Nat × Nat) (List (Nat × Nat)) :=
  ((List.range (launchShared im)).mapM fun i =>
    let b := launchWord im (8 + 2 * i)
    let l := launchWord im (9 + 2 * i)
    (s.sharedPages p b l ((l - b) / 4096 + 2)).mapError fun r => (r, b)).map List.flatten

/-! ### Acceptance -/

/-- What the checks of a record give: the offset that it works on with its launch record, or the reason of its
rejection with the address that failed (14_queues R254, R258, R260). A record that breaks a rule about no address has
none, so that value is free (notes/assumptions/20). DESIGN CHOICE: the order of the checks, the values of word 3 of WAITQ and SIGNAL
that R254 does not name, and when the address of the user words is checked (notes/assumptions/95). -/
def State.checkRecord (s : State) (p : Part) (ws : List Nat) : Except (Nat × Nat) (Nat × List Word) :=
  let w (i : Nat) := ws.getD i 0
  let kind := w 0 % 16
  let zero (from_ : Nat) : Bool := (ws.drop from_).all (· == 0)
  let none_ := (Config.freeWord (s.choice 6)).toNat
  let at_ (i : Nat) (acc : Acc) (size : Nat) : Except (Nat × Nat) Nat :=
    match s.translateFor p (BitVec.ofNat 64 (w i)) acc size with | .error r => .error (r, w i) | .ok q => .ok q
  if kind = 0 ∨ 4 < kind ∨ bits (w 0) 4 12 ≠ 0 then .error (1, none_)
  else if kind = 1 then
    if w 1 % 64 ≠ 0 then .error (1, w 1)
    else if w 2 % 64 ≠ 0 then .error (1, w 2)
    else if !zero 4 then .error (1, none_)
    else do
      let _ ← at_ 1 .r 64
      let q ← at_ 2 .w 64
      let im ← (match s.wordsFor p (w 1) 32 with | .error r => .error (r, w 1) | .ok l => .ok l)
      if !s.launchOk im then .error (3, w 1)
      else
        let _ ← (match s.wordsFor p (launchWord im 6) (launchUsers im) with | .error r => .error (r, launchWord im 6) | .ok l => .ok l)
        .ok (q, im)
  else if kind = 4 then if zero 2 then .ok (0, []) else .error (1, none_)
  else if w 1 % 8 ≠ 0 then .error (1, w 1)
  else if !zero 4 || decide ((if kind = 2 then 2 else 1) < w 3) then .error (1, none_)
  else (at_ 1 (if kind = 2 then .r else if w 3 = 0 then .w else .rw) 8).map fun q => (q, [])
/-- The completion record's offset of a rejected LAUNCH that can take one (14_queues R260). -/
def State.rejectAt (s : State) (p : Part) (ws : List Nat) : Option Nat :=
  let va := ws.getD 2 0
  if ws.getD 0 0 % 16 = 1 ∧ va % 64 = 0 then (s.translateFor p (BitVec.ofNat 64 va) .w 64).toOption else none
/-- The record at RD carries the TAG of a later lap (14_queues R260). -/
def State.overrun (s : State) (r : Ring) : Bool :=
  let h := s.num (r.recordAt r.rd.toNat) 8
  let d := (bits h 16 48 + 2 ^ 48 - r.rd.toNat % 2 ^ 48) % 2 ^ 48
  d != 0 && decide (d < 2 ^ 47) && d % 2 ^ r.log.toNat == 0
/-- A ring error: ERRC, and then the ring is unmapped, so that a store of V that waited comes after it (14_queues R252, R260). -/
def State.ringError (s : State) (r : RingId) (e : Nat) : State :=
  (s.modRing r.val fun k => { k with errc := BitVec.ofNat 4 e }).unmap r
/-- Whether the journal has room (14_queues R259). -/
def State.journalRoom (s : State) : Bool := s.jhead.toNat - s.jcons.toNat != 2 ^ s.jlog.toNat
/-- The wait kind of a record at the head of an active slot (14_queues R251). -/
def waitKind (kind : Nat) : BitVec 3 := if kind = 1 then 1 else if kind = 2 then 2 else 3
/-- The record of ring `r` at RD, which active slot `q` accepts: its journal entry, RD, the control block, and its
rejection where a check fails (14_queues R256, R259, R260). -/
def State.acceptRecord (s : State) (q : Nat) (r : RingId) (cb : Nat) : State :=
  let k := s.ring r.val
  let rd := k.rd.toNat
  let ws := (List.range 8).map fun i => s.num (k.recordAt rd + 8 * i) 8
  let kind := ws.getD 0 0 % 16
  let j := s.jhead.toNat
  let tag := if kind = 1 then ws.getD 3 0 else if kind = 4 then ws.getD 1 0 else 0
  let res := s.checkRecord k.part ws
  let w0 := match res with
    | .ok _ => journalWord r.val 1 kind 0 0
    | .error (reason, _) => journalWord r.val 3 kind 4 reason
  let now := s.time.toNat
  let t := s.putWords (s.journalAt j) [w0, rd, now, now, 0, if kind = 1 then ws.getD 2 0 else 0, tag, j]
  let t := ({ t with jhead := t.jhead + 1 } : State).modRing r.val fun k => { k with rd := k.rd + 1 }
  let t := t.commitWord (cb + 8) (BitVec.ofNat 64 (rd + 1))
  match res with
  | .ok (at_, image) =>
    let rec_ : Running := { index := BitVec.ofNat 64 rd, kind := BitVec.ofNat 4 kind,
                            words := Vector.ofFn fun i => BitVec.ofNat 64 (ws.getD i.val 0), journal := BitVec.ofNat 64 j,
                            at_, image, pop := none }
    t.setActive q { ring := some r, wait := waitKind kind, head := some rec_ }
  | .error (reason, v) =>
    let t := t.setActive q { ring := some r, wait := 0, head := none }
    (match s.rejectAt k.part ws with
     | some c => t.rejectRecord c reason v tag
     | none => t).flushHeld r
/-- RECORD_ACCEPT: the published record at RD of the ring of an active slot with no record waiting (R256, R259,
R260). -/
def execRecordAccept (q : ActiveId) (s : State) : Out :=
  let a := s.active q.val
  .next (match a.ring with
    | none => s
    | some r =>
      let k := s.ring r.val
      if a.head.isSome || !k.ok then s
      else if s.overrun k then s.ringError r 1
      else if !s.published k then s
      else if !s.journalRoom then s.setActive q.val { a with wait := 4 }
      else match s.translateFor k.part (BitVec.ofNat 64 (2 ^ 63 + bits k.cb.toNat 6 50 * 64)) .w 64 with
        | .ok cb => s.acceptRecord q.val r cb
        | .error _ => s.ringError r 2)

/-! ### Records at the head of an active slot -/

/-- The record at the head of an active slot completes: journal CLOSED (14_queues R256). -/
def State.closeHead (s : State) (q : Nat) (r : RingId) (h : Running) : State :=
  ((s.journal h.journal.toNat r.val 3 h.kind.toNat 0 0 none).setActive q { ring := some r, wait := 0, head := none }).flushHeld r
/-- Whether every earlier record of a ring has completed (14_queues R256). -/
def State.earlierDone (s : State) (r : RingId) : Bool := SMap.get [] s.running r.val == []
/-- The condition of a WAITQ (14_queues R254). -/
def waitqHolds (w v mode : Nat) : Bool :=
  match mode with
  | 0 => decide (v ≤ w)
  | 1 => w == v
  | _ => w != v
/-- The head of an active slot, where it is of a kind. -/
def State.headOf (s : State) (q kind : Nat) : Option (RingId × Running) :=
  match (s.active q).ring, (s.active q).head with
  | some r, some h => if h.kind.toNat = kind then some (r, h) else none
  | _, _ => none
/-- WAITQ: the record completes when the word's condition holds (R256). -/
def execWaitq (q : ActiveId) (s : State) : Out :=
  .next (match s.headOf q.val 2 with
    | some (r, h) =>
      if waitqHolds (ofBytes (s.portBytes h.at_ 8)) h.words[2].toNat h.words[3].toNat then s.closeHead q.val r h else s
    | none => s)
/-- SIGNAL: after the earlier records of the ring, a store or an add, immediate class (R254, R256). -/
def execSignal (q : ActiveId) (s : State) : Out :=
  .next (match s.headOf q.val 3 with
    | some (r, h) =>
      if !s.earlierDone r then s
      else
        let old := ofBytes (s.portBytes h.at_ 8)
        let v := if h.words[3] = 0 then h.words[2].toNat else old + h.words[2].toNat
        let t := if inCtl h.at_ then (s.notify (Fin.ofNat 1024 ((h.at_ - Config.queueBase) / 8))).fireAt h.at_ else s.portWrite h.at_ (toBytes 8 v)
        t.closeHead q.val r h
    | none => s)
/-- MARK: completes after the earlier records of the ring (R256). -/
def execMark (q : ActiveId) (s : State) : Out :=
  .next (match s.headOf q.val 4 with
    | some (r, h) => if s.earlierDone r then s.closeHead q.val r h else s
    | none => s)

/-! ### Placement -/

/-- The slots of a core that a placement for a partition may fill, rising (01_device R16, R17, 21_prog_preempt R349). -/
def Core.freeFor (k : Core) (p : Part) : List SlotId :=
  tenantSlots.filter fun i => k.slots[i.val].state == .free && !k.slots[i.val].reserved && k.partOf i == some p
/-- Whether a launch can be placed now: the slots and windows of every core, a watchdog entry of the home core, and the
domain of every die (01_device R16, R17, 04_registers R80, 20_counters R330). DESIGN CHOICE: a population uses the windows of the cores
that its launch record names, and no other core's, where a thread of it came by `migr`, a task or a stage (notes/assumptions/89). -/
def State.placeable (s : State) (p : Part) (im : List Word) : Bool :=
  let cores := launchCores im
  (cores.all fun c => decide (launchQuota im ≤ ((s.core c.val).freeFor p).length) &&
    !s.pops.any fun o => o.part == p && o.cores.contains c) &&
  (match cores with | h :: _ => (s.core h.val).watch.toList.any fun e => !e.v | [] => false) &&
  (match launchDom im with
   | none => true
   | some d => cores.all fun c => !(s.die (dieOf c.val)).domV || (s.die (dieOf c.val)).dom == d)
/-- A thread at the start of its life, in TRANSIT until it is whole (01_device R17, 04_registers R71, R78, 08_slots R134). -/
def Slot.start (p : Part) (pop thidx : BitVec 32) (pc : Word) (x0 x1 x2 x3 : Word) : Slot :=
  { Slot.empty with state := .transit, into := some .ready, part := p, popid := pop, thidx, pc := pc &&& ~~~3,
                    x := ((((Vector.replicate 16 0).set 0 x0).set 1 x1).set 2 x2).set 3 x3 }
/-- The words of a core's constant window (01_device R17, 09_memories R161). -/
def State.windowWords (s : State) (p : Part) (pop : Nat) (users : List Word) (c : CoreId) (slot : SlotId) (first : Nat) : List Nat :=
  (users.map BitVec.toNat ++ List.replicate (248 - users.length) 0) ++
  [c.val, slot.val, dieOf c.val, s.pkg, pop, p.val, s.pkg * 2 ^ 43 + vaultBase c.val, first]
/-- The threads and the windows of the cores, rising, from thread index `first` (01_device R17). -/
def State.fillCores (s : State) (p : Part) (pop : Nat) (im users : List Word) : List CoreId → Nat → State
  | [], _ => s
  | c :: rest, first =>
    let slots := ((s.core c.val).freeFor p).take (launchQuota im)
    let t := s.commitAt (vaultBase c.val + 0xC000 + 0x800 * p.val)
      ((s.windowWords p pop users c (slots.headD 0) first).flatMap (toBytes 8))
    let u := slots.zipIdx.foldl (fun t i => t.modSlot { core := c, slot := i.1 } fun _ =>
      Slot.start p (BitVec.ofNat 32 pop) (BitVec.ofNat 32 (first + i.2)) (im.getD 0 0) (im.getD 2 0) (im.getD 3 0) (im.getD 4 0) (im.getD 5 0)) t
    u.fillCores p pop im users rest (first + slots.length)
/-- The home core's watchdog takes its lowest free entry for a population (20_counters R330). -/
def Core.watchPop (k : Core) (pop : BitVec 32) (now : Word) : Core :=
  match (List.range 15).find? fun i => match k.watch[i]? with | some e => !e.v | none => false with
  | some i => { k with watch := k.watch.setIfInBounds i { pop, v := true, last := now, win := k.wdwin, idle := 0 } }
  | none => k
/-- The dies of a domain, rising (04_registers R80). -/
def State.domDies (s : State) (dom : BitVec 16) : List Nat := (List.range 8).filter fun d => (s.die d).domV && (s.die d).dom == dom
/-- What the I/O dies keep of a domain (20_counters R333). -/
def State.domRound (s : State) (dom : BitVec 16) : DomRound := SMap.get DomRound.reset s.domains dom.toNat
/-- The state with it changed by `f`. -/
def State.modDom (s : State) (dom : BitVec 16) (f : DomRound → DomRound) : State :=
  { s with domains := SMap.set s.domains dom.toNat (f (s.domRound dom)) }
/-- What a die holds for its domain's rounds (20_counters R333, R334). -/
def Die.round (k : Die) : DomRound :=
  { colour := k.colour, open_ := k.open_, closedAt := k.closedAt, sent := k.sent, rcvd := k.rcvd, low := k.low }
/-- The die with that replaced. -/
def Die.setRound (k : Die) (r : DomRound) : Die :=
  { k with colour := r.colour, open_ := r.open_, closedAt := r.closedAt, sent := r.sent, rcvd := r.rcvd, low := r.low }
/-- Nothing counted, and no contribution. -/
def DomRound.blank (r : DomRound) : DomRound := { r with sent := Vector.replicate 2 0, rcvd := Vector.replicate 2 0, low := 2 ^ 48 - 1 }
/-- A die joins a domain: it takes the colour and the round of the domain, with nothing counted yet but, as the first one of the package,
what dies that left it have counted (04_registers R80, 20_counters R333, R334; notes/assumptions/80). -/
def State.joinDomain (s : State) (d : BitVec 16) (n : Nat) : State :=
  if (s.die n).domV then s
  else
    let r := s.domRound d
    if s.domDies d = [] then (s.modDie n fun k => { k.setRound r with dom := d, domV := true }).modDom d DomRound.blank
    else s.modDie n fun k => { k.setRound r.blank with dom := d, domV := true }
/-- A population is placed whole (01_device R16, R17, 04_registers R80, 14_queues R256). -/
def State.place (s : State) (q : Nat) (r : RingId) (h : Running) (users : List Word) (shared : List (Nat × Nat)) : State :=
  let p := (s.ring r.val).part
  let im := h.image
  let id := s.nextPop
  let cores := launchCores im
  let home := cores.headD 0
  let pop : Pop :=
    { id, part := p, dom := launchDom im, cores, home, phase := 0, arrived := [], away := [], shared, ring := r,
      journal := h.journal, compl := h.at_, tag := h.words[3], placed := s.time, status := 0, cause := 0, tval := 0,
      faberr := false, failAt := 0, fails := 0 }
  let t := s.fillCores p id.toNat im users cores 0
  let t : State := { t with pops := t.pops ++ [pop], nextPop := s.nextPop + 1, running := SMap.set t.running r.val (SMap.get [] t.running r.val ++ [{ h with pop := some id }]) }
  let t := t.modCore home.val fun k => k.watchPop id (s.die (dieOf home.val)).tsc
  let t := match pop.dom with
    | some d => cores.foldl (fun (t : State) (c : CoreId) => t.joinDomain d (dieOf c.val)) t
    | none => t
  ((t.journal h.journal.toNat r.val 2 1 0 0 (some id.toNat)).setActive q { ring := some r, wait := 0, head := none }).flushHeld r
/-- A LAUNCH at the head of an active slot is rejected (09_memories R175, 14_queues R260). -/
def State.rejectHead (s : State) (q : Nat) (r : RingId) (h : Running) (reason v : Nat) : State :=
  (((s.rejectRecord h.at_ reason v h.words[3].toNat).journal h.journal.toNat r.val 3 1 4 reason none).setActive q
    { ring := some r, wait := 0, head := none }).flushHeld r
/-- LAUNCH: the record waits at the head of its ring until its population can be placed (R16, R256). -/
def execLaunch (q : ActiveId) (s : State) : Out :=
  .next (match s.headOf q.val 1 with
    | some (r, h) =>
      if s.placeable (s.ring r.val).part h.image then s else s.setActive q.val { s.active q.val with wait := 1 }
    | none => s)
/-- POPULATION_PLACEMENT (R17): the ranges are translated now; a page that does not translate rejects the LAUNCH
(R175). -/
def execPopulationPlacement (q : ActiveId) (s : State) : Out :=
  .next (match s.headOf q.val 1 with
    | some (r, h) =>
      let p := (s.ring r.val).part
      if !s.placeable p h.image then s
      else match s.launchRanges p h.image, s.wordsFor p (launchWord h.image 6) (launchUsers h.image) with
        | .error (reason, v), _ => s.rejectHead q.val r h reason v
        | _, .error reason => s.rejectHead q.val r h reason (launchWord h.image 6)
        | .ok shared, .ok users => s.place q.val r h users shared
    | none => s)

end Sys2Proof.Machine
end

