-- ==== Sys2Proof/Machine/Message.lean ====
section
/-! DEFINITION. Messages and mailboxes: sending, arrival, receiving and the mailbox table (15_messages R266-R277,
R279, R282, R284). -/

namespace Sys2Proof.Machine

/-! ### The fields of a message -/

/-- VRT (R266). -/
def Msg.vrt (m : Msg) : Nat := bits m.h0.toNat 0 48
/-- TAG. -/
def Msg.tag (m : Msg) : Nat := bits m.h0.toNat 48 16
/-- MID. -/
def Msg.mid (m : Msg) : Nat := bits m.h1.toNat 0 28
/-- LEN. -/
def Msg.len (m : Msg) : Nat := bits m.h1.toNat 28 4
/-- SCORE. -/
def Msg.score (m : Msg) : Nat := bits m.h1.toNat 32 10
/-- SPKG. -/
def Msg.spkg (m : Msg) : Nat := bits m.h1.toNat 42 13
/-- KIND. -/
def Msg.kind (m : Msg) : Nat := bits m.h1.toNat 55 2
/-- PR. -/
def Msg.pr (m : Msg) : Nat := bits m.h1.toNat 57 2
/-- ORD. -/
def Msg.ord (m : Msg) : Bool := m.h1.getLsbD 63
/-- An ordered message or an anti-message, which carries a colour (20_counters R333). -/
def Msg.coloured (m : Msg) : Bool := m.ord || m.kind == 1
/-- The 64 bytes of a message, header first, as a mailbox window takes them (R266). -/
def Msg.bytes (m : Msg) : List Byte := toBytes 8 m.h0.toNat ++ toBytes 8 m.h1.toNat ++ toBytes 48 m.body.toNat
/-- The message as it lies in a vector register: payload in lanes 0-11, header in lanes 12-15 (R266). -/
def Msg.lanes (m : Msg) : Nat := m.body.toNat + m.h0.toNat * 2 ^ 384 + m.h1.toNat * 2 ^ 448
/-- Whether two messages are partners (R282). -/
def Msg.partner (a m : Msg) : Bool :=
  m.kind == 0 && a.spkg == m.spkg && a.score == m.score && a.mid == m.mid && a.vrt == m.vrt && a.tag == m.tag
/-- The key of a message in a mailbox of a priority (R270). -/
def Msg.key (m : Msg) (prio : Nat) : EvKey :=
  { vrt := m.vrt, prio := 3 - prio, pr := 3 - m.pr, spkg := m.spkg, score := m.score, mid := m.mid }
/-- The order of keys; of two ids of one core the later-sent one is the greater (R270). -/
def EvKey.lt (a b : EvKey) : Bool :=
  let pre (x y : Nat) (rest : Bool) : Bool := decide (x < y) || (x == y && rest)
  pre a.vrt b.vrt (pre a.prio b.prio (pre a.pr b.pr (pre a.spkg b.spkg (pre a.score b.score
    (a.mid != b.mid && decide ((b.mid + 2 ^ 28 - a.mid) % 2 ^ 28 < 2 ^ 27))))))

/-! ### Mailbox entries -/

/-- MODE: 0 FIFO, 1 ORD-OPT, 2 ORD-SAFE (R268). -/
def State.mbMode (s : State) (c mb : Nat) : Nat := bits (s.mboxWord c mb 0) 0 2
/-- PRIO. -/
def State.mbPrio (s : State) (c mb : Nat) : Nat := bits (s.mboxWord c mb 0) 2 2
/-- PART. -/
def State.mbPart (s : State) (c mb : Nat) : Nat := bits (s.mboxWord c mb 0) 4 3
/-- V. -/
def State.mbValid (s : State) (c mb : Nat) : Bool := bits (s.mboxWord c mb 0) 7 1 == 1
/-- The capacity. -/
def State.mbCap (s : State) (c mb : Nat) : Nat := bits (s.mboxWord c mb 0) 8 12 + 1
/-- OWNER, where OWNV = 1. -/
def State.mbOwner (s : State) (c mb : Nat) : Option SlotId :=
  let w := s.mboxWord c mb 5
  if bits w 52 1 = 1 then some (Fin.ofNat 16 (w / 2 ^ 48)) else none
/-- The messages of a mailbox, oldest arrival first. -/
def State.box (s : State) (c mb : Nat) : List MboxMsg := SMap.get [] (s.core c).mail mb
/-- The messages of a mailbox replaced, with OCC and HELD of its word 5 (R268; notes/assumptions/21). -/
def State.setBox (s : State) (c mb : Nat) (l : List MboxMsg) : State :=
  let t := s.modCore c fun k => { k with mail := SMap.set k.mail mb l }
  let w := t.mboxWord c mb 5
  let occ := (l.filter fun m => m.done == none).length
  let n := w - bits w 0 13 - bits w 16 13 * 2 ^ 16 + occ % 2 ^ 13 + (l.length - occ) % 2 ^ 13 * 2 ^ 16
  if n = w then t else t.commitWord (t.mboxAt c mb 5) (BitVec.ofNat 64 n)
/-- The device address of the mailbox window (09_memories R164). -/
def State.windowAddr (s : State) (c mb : Nat) : Word := BitVec.ofNat 64 (s.pkg * 2 ^ 43 + Config.mboxBase + c * 1024 + mb * 64)

/-! ### Sending -/

/-- One more in the counter of a colour. -/
def bump (v : Vector Nat 2) (colour : Bool) : Vector Nat 2 :=
  if colour then v.set 1 (v[1] + 1) else v.set 0 (v[0] + 1)
/-- A message is sent: counted by colour, and a term of the open round (20_counters R333, R334). -/
def DomRound.countSent (d : DomRound) (m : Msg) : DomRound :=
  { d with sent := bump d.sent m.colour, low := if d.open_ && m.colour == d.colour then min d.low m.vrt else d.low }
/-- A message is received (20_counters R333, R334). -/
def DomRound.countRcvd (d : DomRound) (m : Msg) : DomRound :=
  { d with rcvd := bump d.rcvd m.colour, low := if d.open_ && m.colour != d.colour then min d.low m.vrt else d.low }
/-- A message with a colour is counted by `f` where its domain keeps its sums: on die `d` while it is in the domain, else on the domain's
lowest die of the package, else with what the I/O dies keep of the domain. A message of no domain is none of its rounds'
(20_counters R333, R334; notes/assumptions/80). -/
def State.count (s : State) (d : Nat) (m : Msg) (f : DomRound → DomRound) : State :=
  match (if m.coloured then m.dom else none) with
  | none => s
  | some dom =>
    if (s.domDies dom).contains d then s.modDie d fun k => k.setRound (f k.round)
    else match s.domDies dom with
      | e :: _ => s.modDie e fun k => k.setRound (f k.round)
      | [] => s.modDom dom f
/-- A message is sent by die `d`. -/
def State.countSent (s : State) (d : Nat) (m : Msg) : State := s.count d m fun r => r.countSent m
/-- A message is received by die `d`. -/
def State.countRcvd (s : State) (d : Nat) (m : Msg) : State := s.count d m fun r => r.countRcvd m
/-- The colour that a message of a domain takes on die `d`: the die's, or the domain's where the die is not of it (20_counters
R333). -/
def State.colourOf (s : State) (d : Nat) (dom : Option (BitVec 16)) : Bool :=
  match dom with
  | some e => if (s.domDies e).contains d then (s.die d).colour else (s.domRound e).colour
  | none => (s.die d).colour
/-- A composed message leaves: over the mesh, or as a write to the window of another package, where a message that no
port carries counts as refused (R266, R267, 20_counters R333). -/
def State.inject (s : State) (by_ : Issuer) (desc : Nat) (m : Msg) : State :=
  let d := dieOf by_.place.core.val
  let m := { m with colour := s.colourOf d m.dom }
  let s := s.countSent d m
  let core := bits desc 4 10
  let mb := desc % 16
  if bits desc 14 13 = s.pkg then { s with net := s.net ++ [.msg (Fin.ofNat 1024 core) (Fin.ofNat 16 mb) false false m] }
  else
    let s := if s.route (bits desc 14 13) = none then s.countRcvd d m else s
    s.sendFabric by_ (bits desc 14 13 * 2 ^ 43 + Config.mboxBase + core * 1024 + mb * 64) 0 0 m.bytes
      (m.coloured && m.colour) (m.kind == 1) false false
/-- Header word 1 of a composed message (R272). -/
def State.header1 (s : State) (kind d pr mb : Nat) : Nat :=
  s.myCore.mid.toNat + 2 ^ 28 * (if bits d 28 4 = 0 then 12 else bits d 28 4) + 2 ^ 32 * s.myId + 2 ^ 42 * s.pkg + 2 ^ 55 * kind +
    2 ^ 57 * pr + 2 ^ 59 * mb + 2 ^ 63 * bits d 32 1
/-- A message composed by the executing thread (R272). -/
def State.compose (s : State) (kind d : Nat) (h0 : Word) (v : VReg) (pr mb : Nat) : Msg :=
  let len := if bits d 28 4 = 0 then 12 else bits d 28 4
  { h0, h1 := BitVec.ofNat 64 (s.header1 kind d pr mb), body := BitVec.ofNat 384 (bits (s.v v).toNat 0 (32 * len)),
    part := s.me.part, dom := s.myDom, colour := false, pop := s.me.popid, place := s.cur, ack := .none }
/-- The checks of a destination descriptor and of an ordered send (R272). -/
def State.sendCheck (s : State) (d : Nat) (h0 : Word) : Act Unit := do
  let mb := BitVec.ofNat 64 (d % 16)
  check (bits d 27 1 = 0 ∧ d < 2 ^ 33 ∧ bits d 28 4 ≤ 12) .mbox mb
  if bits d 32 1 = 1 then
    check s.myDom.isSome .mbox mb
    let vrt := h0.toNat % 2 ^ 48
    check (vrt ≠ 2 ^ 48 - 1 ∧ s.myDie.gvt.toNat ≤ vrt ∧ !(s.me.opt && decide (vrt ≤ s.me.lvt.toNat))) .vtorder (BitVec.ofNat 64 vrt)
  else .ok ()
/-- A composed message is injected, logged, or held in the Escrow (R272, R280, R281). -/
def State.sendMsg (s : State) (d : Nat) (m : Msg) : Act State :=
  let next (t : State) : State := t.modMyCore fun k => { k with mid := k.mid + 1 }
  if s.me.opt && s.me.evo then
    if m.ord then do
      s.needSpace .sent 1
      .ok (next ((s.addSent { h0 := m.h0, h1 := m.h1, desc := BitVec.ofNat 64 d, by_ := s.myEvent }).inject s.issuer d m))
    else do
      s.needSpace .escrow 1
      .ok (next (s.addEscrow (.send (BitVec.ofNat 64 d) m)))
  else .ok (next (s.inject s.issuer d m))
/-- `send` (R272). -/
def execSend (a b : XReg) (v : VReg) (m : Mbox) (p : Fin 4) (s : State) : Out :=
  seq s (do
    s.tenantOnly (wordSend a b v m p)
    s.vregs [v]
    let d := (s.x a).toNat
    s.sendCheck d (s.x b)
    s.sendMsg d (s.compose 0 d (s.x b) v p.val m.val))
/-- `req` (R273). -/
def execReq (a b : XReg) (v : VReg) (m : Mbox) (p : Fin 4) (s : State) : Out :=
  seq s (do
    s.tenantOnly (wordReq a b v m p)
    s.vregs [v]
    let d := (s.x a).toNat
    let mb := BitVec.ofNat 64 (d % 16)
    check (bits d 32 1 = 0) .mbox mb
    s.sendCheck d (s.x b)
    check (bits (s.x b).toNat 43 21 = s.pkg) .mbox mb
    s.sendMsg d (s.compose 2 d (s.x b) v p.val m.val))

/-! ### Arrival -/

/-- Whether a core refuses a message (R269), one from outside also while the mailbox's partition is reset (23_system
R359). -/
def State.refuses (s : State) (c mb : Nat) (m : Msg) : Bool :=
  let ordered := s.mbMode c mb != 0
  let d := s.die (dieOf c)
  !s.mbValid c mb || s.mbPart c mb != m.part.val || m.ord != ordered || m.kind == 3 || (m.kind == 2 && ordered) ||
  m.len == 0 || decide (13 ≤ m.len) || (m.ord && !(d.domV && m.dom == some d.dom)) ||
  (m.ack != .none && (s.partition (s.mbPart c mb)).busy)
/-- A message is refused: EMSG, and FABERR or a refusal of its write; the sequence that sent an anti-message hears of it (R269,
17_prog_pipeline R299). -/
def State.refuseMsg (s : State) (c mb : Nat) (m : Msg) : State :=
  let t := s.modDie (dieOf c) fun d => { d with emsg := d.emsg + 1 }
  match m.ack with
  | .none =>
    let u := t.faberr m.place.core.val m.pop (t.windowAddr c mb)
    if m.kind = 1 then u.antiDone m.place m.pop else u
  | a => t.refuse a
/-- The slot of the thread of a partition that a slot number of core `c` means, in its slot or taken out of it, changed
by `f` (08_slots R149). -/
def State.modOwner (s : State) (c : CoreId) (i : SlotId) (part : Part) (f : Slot → Slot) : State :=
  let p : Place := { core := c, slot := i }
  let t := s.slotAt p
  if t.part == part && t.state != .free && t.state != .done && (t.state != .transit || t.into.isSome) then s.modSlot p f
  else { s with pops := s.pops.map fun q => { q with away := q.away.map fun a =>
    if a.place == p && a.slot.part == part then { a with slot := f a.slot } else a } }
/-- A rollback to an event becomes pending, with the time of its cause (R282, R283). -/
def Slot.mark (t : Slot) (evid : BitVec 32) (vrt : Nat) : Slot :=
  let v := BitVec.ofNat 48 vrt
  ({ t with pending := match t.pending with
      | none => some { evid, causes := [v] }
      | some p => some { evid := if evid.ult p.evid then evid else p.evid, causes := p.causes ++ [v] } } : Slot).holdBack
/-- A rollback of an event's thread becomes pending. -/
def State.markEvent (s : State) (c : CoreId) (e : Event) (vrt : Nat) : State :=
  s.modOwner c e.slot e.part fun t => t.mark e.evid vrt
/-- The events of the thread of a slot and partition that are not final, oldest first, with their keys (R278, R282). -/
def State.openEvents (s : State) (c : Nat) (i : SlotId) (part : Nat) : List (Event × EvKey) :=
  (s.core c).undo.filterMap fun r => match r.2 with
    | .check e vrt key .. => if e.slot == i && e.part.val == part && !vrt.ult (s.die (dieOf c)).gvt then some (e, key) else none
    | .store .. => none
/-- The earliest event that an accepted message makes undone (R282). -/
def State.straggles (s : State) (c mb : Nat) (m : Msg) : Option Event :=
  if s.mbMode c mb = 1 then
    match s.mbOwner c mb with
    | some i => ((s.openEvents c i (s.mbPart c mb)).find? fun e => (m.key (s.mbPrio c mb)).lt e.2).map Prod.fst
    | none => none
  else none
/-- A message is accepted into a mailbox (R269, R282). -/
def State.acceptMsg (s : State) (c : CoreId) (mb : Nat) (m : Msg) : State :=
  let t := (s.setBox c.val mb (s.box c.val mb ++ [{ msg := m, done := none }])).acknowledge m.ack
  match t.straggles c.val mb m with
  | some e => t.markEvent c e m.vrt
  | none => t
/-- Whether two travelling messages are of one channel and path (R267, 08_slots R154). -/
def sameChannel (dst : CoreId) (mb : Mbox) (fwd : Bool) (m : Msg) : Net → Bool
  | .msg dst' mb' fwd' _ m' => dst' == dst && mb' == mb && fwd' == fwd && m'.spkg == m.spkg && m'.score == m.score
  | _ => false
/-- Whether a travelling message is held at a full mailbox (R269). -/
def Net.heldBack : Net → Bool
  | .msg _ _ _ counted _ => counted
  | _ => false
/-- The travelling messages without number `n`. -/
def State.dropNet (s : State) (n : Nat) : State := { s with net := s.net.eraseIdx n }
/-- The vacated core forwards a message (08_slots R154). -/
def State.forward (s : State) (n : Nat) (to_ : Nat) (mb : Mbox) (counted : Bool) (m : Msg) : State :=
  { s with net := s.net.eraseIdx n ++ [.msg (Fin.ofNat 1024 to_) mb true counted m] }
/-- MESSAGE_ARRIVAL: the travelling message number `n`, the first of its channel, is forwarded, refused, accepted, or
held where the mailbox is full (R267, R269, 08_slots R154). -/
def execMessageArrival (n : Nat) (s : State) : Out :=
  .next (match s.net[n]? with
    | some (.msg dst mb fwd counted m) =>
      let c := dst.val
      if m.kind = 1 ∨ (s.net.take n).any (sameChannel dst mb fwd m) then s
      else if (s.core c).fwdV then s.forward n (s.core c).fwdTo.toNat mb counted m
      else
        let r := if counted then s else s.countRcvd (dieOf c) m
        if s.refuses c mb.val m then (r.dropNet n).refuseMsg c mb.val m
        else if (s.box c mb.val).length < s.mbCap c mb.val then (r.dropNet n).acceptMsg dst mb.val m
        else { r with net := s.net.set n (.msg dst mb fwd true m) }
    | _ => s)

/-! ### Anti-messages -/

/-- An anti-message is dealt with: its write is acknowledged, or the sequence that sent it hears of it
(17_prog_pipeline R299). -/
def State.antiAccepted (s : State) (m : Msg) : State :=
  match m.ack with
  | .none => s.antiDone m.place m.pop
  | a => s.acknowledge a
/-- A core removes the unprocessed partner of an anti-message (R284). -/
def State.annihilate (s : State) (c mb : Nat) (a : Msg) : State :=
  (s.setBox c mb ((s.box c mb).eraseP fun m => m.done == none && a.partner m.msg)).modDie (dieOf c)
    fun d => { d with annih := d.annih + 1 }
/-- Whether the thread of an event can still be rolled back (R282, R284). -/
def State.canUndo (s : State) (c : CoreId) (e : Event) : Bool :=
  (s.core c.val).undo.any fun r => match r.2 with | .check e' .. => e' == e | .store .. => false
/-- An anti-message reaches its mailbox (R284). -/
def State.meet (s : State) (c : CoreId) (mb : Mbox) (a : Msg) : State :=
  match (s.box c.val mb.val).find? fun m => a.partner m.msg with
  | some { done := none, .. } => s.annihilate c.val mb.val a
  | some { done := some e, .. } =>
    if s.canUndo c e then (s.modCore c.val fun k => { k with antis := k.antis ++ [(mb, a)] }).markEvent c e a.vrt
    else s.modDie (dieOf c.val) fun d => { d with eanti := d.eanti + 1 }
  | none => s.modDie (dieOf c.val) fun d => { d with eanti := d.eanti + 1 }
/-- ANTI_MESSAGE_ARRIVAL: the travelling anti-message number `n`, which waits for no space, is refused as another message would be,
or meets its partner in the mailbox, or held before it (R267, R269, R284; notes/assumptions/22). -/
def execAntiMessageArrival (n : Nat) (s : State) : Out :=
  .next (match s.net[n]? with
    | some (.msg dst mb fwd counted a) =>
      let c := dst.val
      if a.kind ≠ 1 ∨ (s.net.take n).any (fun e => sameChannel dst mb fwd a e && !e.heldBack) then s
      else if (s.core c).fwdV then s.forward n (s.core c).fwdTo.toNat mb counted a
      else
        let t := s.countRcvd (dieOf c) a
        if s.refuses c mb.val a then (t.dropNet n).refuseMsg c mb.val a else
        match (s.net.take n).findIdx? fun e => sameChannel dst mb fwd a e && (match e with | .msg _ _ _ _ m => a.partner m | _ => false) with
        | some i =>
          let back := match s.net[i]? with | some (.msg _ _ _ _ m) => m.ack | _ => .none
          (((((t.dropNet n).dropNet i).modDie (dieOf c) fun d => { d with annih := d.annih + 1 }).acknowledge back).antiAccepted a)
        | none => ((t.dropNet n).meet dst mb a).antiAccepted a
    | _ => s)

/-! ### Receiving -/

/-- The mailboxes of a set, rising. -/
def mbSet (b : BitVec 16) : List Mbox := ((List.range 16).filter fun i => b.getLsbD i).map (Fin.ofNat 16)
/-- Whether a message of a mailbox is deliverable (R270). -/
def State.deliverable (s : State) (c mb : Nat) (m : MboxMsg) : Bool :=
  m.done == none &&
    (match s.mbMode c mb with | 0 => true | 1 => m.msg.kind == 0 | _ => decide (m.msg.vrt < (s.die (dieOf c)).gvt.toNat))
/-- The deliverable messages of a set that may be the selected one: the oldest of each FIFO mailbox, or every one of an
ordered mailbox; each with its mailbox and its place there (R270). -/
def State.candidates (s : State) (c : Nat) (set : List Mbox) : List (Mbox × Nat × Msg) :=
  set.flatMap fun mb =>
    let l := (s.box c mb.val).zipIdx.filterMap fun e => if s.deliverable c mb.val e.1 then some (mb, e.2, e.1.msg) else none
    if s.mbMode c mb.val = 0 then l.take 1 else l
/-- The message that `recv` takes from a set (R270). -/
def State.select (s : State) (c : Nat) (set : List Mbox) : Option (Mbox × Nat × Msg) :=
  let before (a b : Mbox × Nat × Msg) : Bool :=
    if s.mbMode c a.1.val = 0 then decide (s.mbPrio c b.1.val < s.mbPrio c a.1.val)
    else (a.2.2.key (s.mbPrio c a.1.val)).lt (b.2.2.key (s.mbPrio c b.1.val))
  (s.candidates c set).foldl (fun best e => match best with | none => some e | some b => if before e b then some e else best) none
/-- The checks of `recv` and `peek`: the mode of the set (R274, R275). -/
def State.recvCheck (s : State) (peek : Bool) (set : List Mbox) : Act Nat := do
  let c := s.myId
  set.forM fun m => check (s.mbValid c m.val && s.mbPart c m.val == s.me.part.val) .mbox (BitVec.ofNat 64 m.val)
  let lead := set.headD 0
  let low := BitVec.ofNat 64 lead.val
  let mode := s.mbMode c lead.val
  check (set.all fun m => s.mbMode c m.val == mode) .mbox low
  check (mode != 1 || ((s.me.opt || peek) && s.myDom.isSome)) .mbox low
  if mode = 1 then
    set.forM fun m => check (s.mbOwner c m.val == none || s.mbOwner c m.val == some s.cur.slot) .mbox (BitVec.ofNat 64 m.val)
  else .ok ()
  check (mode != 2 || s.myDom.isSome) .mbox low
  .ok mode
/-- Vector registers and masks of a thread as an event begins with them: undefined (04_registers R74; notes/assumptions/5). -/
def State.freeVectors (s : State) (t : Slot) : Slot :=
  { t with v := t.v.zipIdx.map fun e => Config.freeVec (s.choice (2 ^ 60 + e.2)),
           m := if t.v = [] then t.m else Vector.ofFn fun i => if i.val = 0 then t.m[0] else Config.freeMask (s.choice (2 ^ 60 + i.val)) }
/-- A slot that no longer owns mailbox `mb` of core `c`. -/
def Slot.disowns (t : Slot) (c : CoreId) (mb : Mbox) : Slot :=
  { t with owned := t.owned.filter fun o => !(o.1 == c && o.2.2 == mb) }
/-- The executing thread becomes the OWNER of mailbox `mb` of its core, and no other thread is (R268, R279). -/
def State.takeBox (s : State) (mb : Mbox) : State :=
  let c := s.cur.core
  let w := s.mboxWord s.myId mb.val 5
  let t : State := { s with
    cores := s.cores.map fun k => (k.1, { k.2 with slots := k.2.slots.map fun t => t.disowns c mb })
    pops := s.pops.map fun p => { p with away := p.away.map fun a => { a with slot := a.slot.disowns c mb } } }
  (t.commitWord (t.mboxAt s.myId mb.val 5) (BitVec.ofNat 64 (w - bits w 48 5 * 2 ^ 48 + 2 ^ 48 * s.cur.slot.val + 2 ^ 52))).modMe fun q =>
    { q with owned := (c, s.cur.slot, mb) :: q.owned }
/-- BeginEvent(g) for a message of mailbox `mb` of a set, the open event ended. DEDUCED: with no room for its checkpoint it traps
LOGFULL where the event would have LVT = GVT, so that no space can free, and waits elsewhere (R279, R286; notes/assumptions/23). -/
def State.beginEvent (s : State) (set : BitVec 16) (mb : Mbox) (g : Msg) : Act State := do
  let t := if s.me.evo then s.modMe fun q => { q with evo := false, range := none } else s
  if s.hasSpace s.myId .undo 11 then
    let q := t.me
    let e : Event := { slot := s.cur.slot, part := q.part, evid := q.evid + 1 }
    let vrt := BitVec.ofNat 48 g.vrt
    let u := t.addUndo (.check e vrt (g.key (s.mbPrio s.myId mb.val)) q.x q.pc q.lvt q.p mb)
    let u := u.modMe fun q => s.freeVectors { q with evid := e.evid, lvt := vrt, evo := true, range := some (q.evsb, q.evsl) }
    .ok (u.takeBox mb)
  else if g.vrt = s.myDie.gvt.toNat then trapSub .logfull 1 0
  else waitFor t (.checkpoint set)
/-- The message in a vector register, whose lanes 16-31 keep their values (R274). -/
def State.fill (s : State) (v : VReg) (g : Msg) : State := s.setV v (Vec.setBytes (s.v v) 0 64 g.lanes)
/-- `recv` from a set of mailboxes, after its checks of the set (R274). -/
def State.recvFrom (s : State) (a : XReg) (v : VReg) (set : List Mbox) (bitsOf : BitVec 16) : Act State := do
  let mode ← s.recvCheck false set
  let s ← if mode ≠ 1 then s.endEvent else .ok s
  match s.select s.myId set with
  | none => waitFor s (.message bitsOf)
  | some (mb, i, g) =>
    let t ← if mode = 1 then s.beginEvent bitsOf mb g else .ok s
    let t := (t.fill v g).setX a g.h0
    let l := t.box s.myId mb.val
    if mode = 1 then .ok (t.setBox s.myId mb.val (l.modify i fun m => { m with done := some t.myEvent }))
    else .ok (t.setBox s.myId mb.val (l.eraseIdx i))
/-- `peek` at a set of mailboxes (R275). -/
def State.peekFrom (s : State) (a : XReg) (v : VReg) (set : List Mbox) : Act State := do
  let _ ← s.recvCheck true set
  .ok (match s.select s.myId set with
    | none => s.setX a 0
    | some (_, _, g) => (s.fill v g).setX a g.h1)
/-- The set that X[xb] names (R274). -/
def State.namedSet (s : State) (b : XReg) : Act (BitVec 16) := do
  let w := (s.x b).toNat
  check (w % 2 ^ 16 ≠ 0 ∧ w < 2 ^ 16) .mbox 0
  .ok (BitVec.ofNat 16 w)
/-- `recv` from one mailbox (R274). -/
def execRecv (a : XReg) (v : VReg) (m : Mbox) (s : State) : Out :=
  seq s (do
    s.tenantOnly (wordRecv a v m)
    s.vregs [v]
    s.recvFrom a v [m] (BitVec.ofNat 16 (2 ^ m.val)))
/-- `recv` from a set (R274). -/
def execRecvSet (a b : XReg) (v : VReg) (s : State) : Out :=
  seq s (do
    s.tenantOnly (wordRecvSet a b v)
    s.vregs [v]
    let w ← s.namedSet b
    s.recvFrom a v (mbSet w) w)
/-- `peek` at one mailbox (R275). -/
def execPeek (a : XReg) (v : VReg) (m : Mbox) (s : State) : Out :=
  seq s (do
    s.tenantOnly (wordPeek a v m)
    s.vregs [v]
    s.peekFrom a v [m])
/-- `peek` at a set (R275). -/
def execPeekSet (a b : XReg) (v : VReg) (s : State) : Out :=
  seq s (do
    s.tenantOnly (wordPeekSet a b v)
    s.vregs [v]
    let w ← s.namedSet b
    s.peekFrom a v (mbSet w))

/-! ### The mailbox table -/

/-- Whether a Reserved bit of words 0-4 of an image is set, or MODE is 3 (R268, R276). -/
def mbxReserved (w : Nat → Nat) : Bool :=
  w 0 % 4 == 3 || bits (w 0) 20 44 != 0 || bits (w 1) 0 6 != 0 || bits (w 1) 24 40 != 0 || bits (w 2) 17 15 != 0 || bits (w 4) 26 37 != 0
/-- Whether `n` bytes of the vault of core `c` lie in the system area proper, or in banks of partition `p` (R276). -/
def State.boxRoom (s : State) (c p a n : Nat) : Bool :=
  inSystemArea a n ||
    (decide (0x10000 ≤ a ∧ a + n ≤ 2 ^ 24) &&
      (List.range ((a + n - 1) / 2 ^ 20 - a / 2 ^ 20 + 1)).all fun i => s.bankOf p (vaultBase c + (a / 2 ^ 20 + i) * 2 ^ 20))
/-- `mbxdef` (R276). -/
def execMbxdef (a : XReg) (m : Mbox) (s : State) : Out :=
  seq s (do
    check s.isSup .priv (BitVec.ofNat 64 (wordMbxdef a m))
    let va := s.x a
    check (va.toNat % 64 = 0 ∧ va.toNat < 2 ^ 24) .align va
    let da ← s.translate va .r 64
    s.touchable va da 40 true
    let bs := s.captured (da % 2 ^ 43) 40
    let w (i : Nat) : Nat := ofBytes ((bs.drop (8 * i)).take 8)
    let c := s.myId
    let mb := BitVec.ofNat 64 m.val
    check (!mbxReserved w) .mbox mb
    check (s.boxRoom c (bits (w 0) 4 3) (w 1) (64 * (bits (w 0) 8 12 + 1))) .mbox mb
    check (w 2 % 2 == 0 || (bits (w 2) 1 4 != 0 && w 3 % 4 == 0)) .mbox mb
    check (s.box c m.val == [] ||
      (bits (w 0) 7 1 == 1 && bits (w 0) 0 2 == s.mbMode c m.val && bits (w 0) 8 12 + 1 == s.mbCap c m.val && w 1 == s.mboxWord c m.val 1)) .mbox mb
    .ok ((s.keepCapture (da % 2 ^ 43) 40).commitAt (s.mboxAt c m.val 0) bs))
/-- `mbxq` (R277). -/
def execMbxq (a : XReg) (m : Mbox) (s : State) : Out :=
  seq s (do
    let c := s.myId
    let w0 := s.mboxWord c m.val 0
    let w5 := s.mboxWord c m.val 5
    if !s.mbValid c m.val then .ok (s.setX a 0)
    else
      check (s.isSup || s.mbPart c m.val == s.me.part.val) .mbox (BitVec.ofNat 64 m.val)
      .ok (s.setX a (BitVec.ofNat 64 (bits w5 0 13 + 2 ^ 16 * bits w5 16 13 + 2 ^ 32 * bits w5 32 4 + 2 ^ 40 * bits w0 0 4 + 2 ^ 44 +
        2 ^ 45 * (s.mboxWord c m.val 2 % 2)))))

end Sys2Proof.Machine
end

