-- ==== Sys2Proof/Machine/Task.lean ====
section
/-! DEFINITION. Tasks, stages and the thread instructions `spawn`, `migr` and `slotq` (15_messages R291-R297,
08_slots R133, R152). -/

namespace Sys2Proof.Machine

/-! ### Starting a thread -/

/-- The lowest slot of a core that is free for a population, none of them reserved: a FREE one of its partition, or, for a task, a
handler or an arriving thread, a DONE one of its own (08_slots R133, 21_prog_preempt R349). -/
def State.freeSlot (s : State) (c : Nat) (p : Pop) (done : Bool := true) : Option SlotId :=
  tenantSlots.find? fun i =>
    let t := (s.core c).slots[i.val]
    !t.reserved && ((t.state == .free && (s.core c).partOf i == some p.part) || (done && t.state == .done && t.popid == p.id))
/-- A task, a handler or a spawned thread starts in slot `i` of core `c`, in TRANSIT until its context is whole (R293-R295, 04_registers
R78, 08_slots R134). -/
def State.startThread (s : State) (c : CoreId) (i : SlotId) (p : Pop) (pc x0 x1 : Word) (stage : Option (CoreId × Mbox)) : State :=
  s.modSlot { core := c, slot := i } fun _ => { Slot.start p.part p.id (BitVec.allOnes 32) pc x0 x1 0 0 with stage }

/-! ### Task records -/

/-- The device address of a package offset, as a DEVICE-form address (09_memories R157). -/
def State.deviceForm (s : State) (q : Nat) : Word := BitVec.ofNat 64 (2 ^ 63 + s.pkg * 2 ^ 43 + q)
/-- A record joins the run list of its home core; past 256 records the last one links to it (R291, 14_queues R250;
notes/assumptions/24). -/
def State.enqueueTask (s : State) (q : Nat) : State :=
  let c := vaultCore q
  let l := (s.core c).runList
  let t := match l.getLast? with
    | some last => if 257 ≤ l.length then s.commitWord (last + 0x28) (s.deviceForm q) else s
    | none => s
  t.modCore c fun k => { k with runList := k.runList ++ [q] }
/-- STATE of a record (R291). -/
def State.taskState (s : State) (q : Nat) : Nat := bits (s.num (q + 0x18) 8) 32 2
/-- STATE of a record replaced. -/
def State.setTaskState (s : State) (q v : Nat) : State :=
  let w := s.num (q + 0x18) 8
  s.commitWord (q + 0x18) (BitVec.ofNat 64 (w - bits w 32 2 * 2 ^ 32 + v * 2 ^ 32))
/-- The word-3 write of `tasknew`, with POPID; a count of 0 queues the record (R292). The record's Reserved words read 0 from now
on, and a thread's store to a field that only the device changes is ignored until the task starts (R291; notes/assumptions/74). -/
def State.armTask (s : State) (q : Nat) (w3 : Word) (pop : BitVec 32) (queue : Bool) : State :=
  let t := ((s.commitWord (q + 0x18) w3).commitAt (q + 0x20) (toBytes 4 pop.toNat)).commitAt (q + 0x30) (List.replicate 16 0)
  let t : State := { t with tasks := if t.tasks.contains q then t.tasks else t.tasks ++ [q] }
  if queue then t.enqueueTask q else t
/-- A record whose task has started, or was discarded, is no live record any more (R291; notes/assumptions/74). -/
def State.dropTask (s : State) (q : Nat) : State := { s with tasks := s.tasks.filter (· != q) }
/-- `tasknew` (R292): the record must lie in a vault bank of the thread's partition (R291). -/
def execTasknew (d a : XReg) (b : OpB) (s : State) : Out :=
  seq s (do
    s.tenantOnly (wordTasknew d a b)
    let n := (← s.opB b).toNat % 2 ^ 32
    let r := s.x a
    let da ← s.translate r .rw 64
    let q := da % 2 ^ 43
    check (da / 2 ^ 43 = s.pkg ∧ inVault q ∧ 0x10000 ≤ q % 2 ^ 24) .prot r
    s.touchable r da 40 true
    let pc := s.num q 8
    check (s.taskState q ≠ 1 ∧ s.taskState q ≠ 2 ∧ pc % 4 = 0) .prot r
    let w3 := BitVec.ofNat 64 (n + 2 ^ 32 * (if n = 0 then 2 else 1) + 2 ^ 36 * s.me.part.val)
    let t := s.touch r
    if s.me.evo then do
      s.needSpace .escrow 1
      .ok ((t.addEscrow (.taskNew q w3 (n == 0))).setX d (s.deviceForm q))
    else .ok ((t.armTask q w3 s.me.popid (n == 0)).setX d (s.deviceForm q)))
/-- A decrement leaves for the record at device address `da` (R293; notes/assumptions/25). -/
def State.sendDec (s : State) (by_ : Issuer) (da : Nat) : State :=
  if da / 2 ^ 43 = s.pkg then { s with net := s.net ++ [.taskDec (da % 2 ^ 43) by_ []] }
  else s.sendFabric by_ da 1 31 [] false false false false
/-- `taskdec` (R293). -/
def execTaskdec (a : XReg) (s : State) : Out :=
  seq s (do
    s.tenantOnly (wordTaskdec a)
    let da ← s.translate (s.x a) .w 64
    let t := s.touch (s.x a)
    if s.me.evo then do
      s.needSpace .escrow 1
      .ok (t.addEscrow (.taskDec da))
    else .ok (t.sendDec s.issuer da))
/-- A decrement at a record's port: none where STATE is not 1, or where no core lies beneath the record (R293). -/
def State.decrement (s : State) (q : Nat) : Option State :=
  let w := s.num (q + 0x18) 8
  if !inVault q || s.taskState q != 1 then none
  else
    let n := w % 2 ^ 32
    let t := s.commitAt (q + 0x18) (toBytes 4 (n + 2 ^ 32 - 1))
    some (if n = 1 then (t.setTaskState q 2).enqueueTask q else t)
/-- A task error is counted on the die of the record (20_counters R329). -/
def State.taskError (s : State) (q : Nat) : State :=
  s.modDie (if inVault q then dieOf (vaultCore q) else 0) fun d => { d with etask := d.etask + 1 }
/-- TASK_DECREMENT: the travelling decrement number `n` acts at the record's port, or FABERR reports it (R293); while the record's bank is
locked it stalls (08_slots R140). -/
def execTaskDecrement (n : Nat) (s : State) : Out :=
  .next (match s.net[n]? with
    | some (.taskDec q by_ l) =>
      let locks := (s.lockedAt q).toList
      if locks.any fun e => !freedFrom l e then { s with net := s.net.set n (.taskDec q by_ (meets l locks)) } else
      let t := s.dropNet n
      (match t.decrement q with
       | some u => u
       | none => (t.taskError q).raiseEvent by_.place.core.val .faberr 0 (BitVec.ofNat 64 (s.pkg * 2 ^ 43 + q)))
    | _ => s)
/-- TASK_START: the first record of the run list starts, where a slot is free for its population; a task of a finished
population is discarded (R293). -/
def execTaskStart (c : CoreId) (s : State) : Out :=
  .next (match (s.core c.val).runList with
    | q :: rest =>
      let t := s.modCore c.val fun k => { k with runList := rest }
      (match s.pop? (BitVec.ofNat 32 (s.num (q + 0x20) 4)) with
       | none => (t.taskError q).dropTask q
       | some p =>
         (match s.freeSlot c.val p with
          | some i => ((t.startThread c i p (s.word q) (s.word (q + 8)) (s.word (q + 16)) none).setTaskState q 3).dropTask q
          | none => s))
    | [] => s)

/-! ### Stages -/

/-- OCC of a mailbox (R268). -/
def State.mbOcc (s : State) (c mb : Nat) : Nat := bits (s.mboxWord c mb 5) 0 13
/-- STAGE_HANDLER_START: a handler thread starts where the stage's conditions hold (R294). -/
def execStageHandlerStart (c : CoreId) (mb : Mbox) (s : State) : Out :=
  let w (i : Nat) := s.mboxWord c.val mb.val i
  let run := bits (w 5) 32 4
  let down := bits (w 4) 63 1 = 0 ∨ s.mbOcc (bits (w 4) 4 10) (bits (w 4) 0 4) ≤ bits (w 4) 14 12
  .next (
    if bits (w 2) 0 1 = 1 ∧ bits (w 2) 5 12 < s.mbOcc c.val mb.val ∧ run < bits (w 2) 1 4 ∧ down then
      match s.pop? (BitVec.ofNat 32 (w 2 / 2 ^ 32)) with
      | none => s
      | some p =>
        (match s.freeSlot c.val p with
         | some i =>
           (s.startThread c i p (BitVec.ofNat 64 (w 3)) (BitVec.ofNat 64 mb.val) (BitVec.ofNat 64 (s.mbOcc c.val mb.val)) (some (c, mb))).setMbox5
             c.val mb.val 32 4 (run + 1)
         | none => s)
    else s)

/-! ### Thread instructions -/

/-- `spawn` (R295). -/
def execSpawn (d a : XReg) (b : OpB) (s : State) : Out :=
  seq s (do
    s.tenantOnly (wordSpawn d a b)
    check ((s.x a).toNat % 4 = 0) .align (s.x a)
    check (!s.me.evo) .mbox 16
    let v ← s.opB b
    .ok (match s.myPop.bind fun p => (s.freeSlot s.myId p false).map fun i => (p, i) with
      | some (p, i) => (s.startThread s.cur.core i p (s.x a) v 0 none).setX d (BitVec.ofNat 64 i.val)
      | none => s.setX d (BitVec.allOnes 64)))
/-- `slotq` (R297). -/
def execSlotq (d a : XReg) (s : State) : Out :=
  let i : SlotId := Fin.ofNat 16 (s.x a).toNat
  let t := s.myCore.slots[i.val]
  let part := if i.val = 15 then none else s.myCore.partOf i
  let mine := !s.isSup && part == some s.me.part && t.state != .free
  seq s (.ok (s.setX d (BitVec.ofNat 64 (t.state.code + (match part with | some p => 16 * p.val + 128 | none => 0) +
    (if mine then 2 ^ 32 * t.popid.toNat else 0)))))
/-- Whether another thread of a population is resident on the core of a place (08_slots R134, R152). DESIGN CHOICE: a DONE slot holds no
such thread, and one that was taken out of a slot of the core counts (notes/assumptions/75). -/
def State.othersStay (s : State) (p : Place) (pop : BitVec 32) : Bool :=
  (tenantSlots.any fun i =>
    let t := (s.core p.core.val).slots[i.val]
    i != p.slot && t.popid == pop && t.state != .free && t.state != .done) ||
  s.pops.any fun q => q.id == pop && q.away.any fun a => a.place.core == p.core
/-- What names the thread of a population by its place follows it to another one: its outstanding writes, its Escrow entries, and its
arrival at a phase (10_access R181, R187, R290). -/
def State.movePlace (s : State) (pop : BitVec 32) (from_ to_ : Place) : State :=
  let mv (p : Place) : Place := if p == from_ then to_ else p
  let t : State := { s with
    out := s.out.map fun (o : Outstanding) => if o.pop == pop && !o.gone then { o with place := mv o.place } else o
    dies := s.dies.map fun d => (d.1, { d.2 with escrow := d.2.escrow.map fun (e : EscEntry) => if e.pop == pop then { e with owner := mv e.owner } else e }) }
  t.modPop pop fun p => { p with arrived := p.arrived.map mv }
/-- `migr`: the checks, and the thread packed into one message; its destination slot takes nothing else (R296, 08_slots
R152, 09_memories R364). -/
def execMigr (d a : XReg) (s : State) : Out :=
  finish s (do
    s.tenantOnly (wordMigr d a)
    let va := s.x a
    let da ← s.translate va .r 1
    let q := da % 2 ^ 43
    check (inVault q) .prot va
    check (s.me.vcnt = 0) .vreg (BitVec.ofNat 64 s.me.vcnt)
    check (!s.me.opt) .mbox 16
    check (!s.me.prot) .prot va
    let t := s.touch va
    let next := s.me.pc + 4
    let c := vaultCore q
    if c = s.myId then .ok ((t.setX d 1).retire next)
    else match s.myPop.bind fun p => (s.freeSlot c p).map fun i => (p, i) with
      | none => .ok ((t.setX d 0).retire next)
      | some (p, i) =>
        let dst : Place := { core := Fin.ofNat 1024 c, slot := i }
        let u := (t.advance next).retireEntries s.cur
        let gone : Slot := { u.me with monitor := none, seen := u.tscNow }
        let v := ((u.modMe fun q => { q with state := .transit, stage := none, owned := [] }).modSlot dst fun _ =>
          { Slot.empty with state := .transit, part := p.part, popid := p.id }).movePlace p.id s.cur dst
        .ok { v with net := v.net ++ [.migrate dst { from_ := s.cur, slot := gone, xd := d }] })
/-- MIGRATION_ARRIVAL: the travelling thread number `n` is written into its slot, with the flags and refusals that came for it meanwhile,
and the slot that it left is free; a boundary trap meant for it is taken (R296, 08_slots R134, R152, 10_access R183). No TSC that it
reads falls behind one that it has read (20_counters R332). -/
def execMigrationArrival (n : Nat) (s : State) : Out :=
  .next (match s.net[n]? with
    | some (.migrate dst c) =>
      if (s.die (dieOf dst.core.val)).tsc.ult c.slot.seen then s else
      let pop := c.slot.popid
      let t := s.dropNet n
      let t := t.modSlot c.from_ fun q =>
        if q.state != .transit || q.popid != pop then q
        else if s.othersStay c.from_ pop then { q with state := .done } else Slot.empty
      let u := t.modSlot dst fun q =>
        { (c.slot.setX c.xd 1) with state := .ready, fflags := c.slot.fflags ||| q.fflags, refused := c.slot.refused + q.refused }
      if c.slot.stopping then u.stopThread dst else u.takeIntr dst
    | _ => s)

end Sys2Proof.Machine
end

