-- ==== Sys2Proof/Machine/Inbound.lean ====
section
/-! DEFINITION. Writes and atomics that arrive from another package or from a front port, landing zones, the reduction
window's rounds, and the answers to this package's own writes (01_device R18, 09_memories R159, R164, R175, 10_access
R181, R188, R189, 13_graphs R248, R249, 05_numbers R98, R99). -/

namespace Sys2Proof.Machine

/-! ### Landing zones -/

/-- An armed zone that some of `n` bytes from an offset reach (13_graphs R248). -/
def State.zoneAt (s : State) (q n : Nat) : Option (Nat × ZoneId × Zone) :=
  s.cores.findSome? fun c => (List.range 8).findSome? fun i =>
    match c.2.zones[i]? with
    | some z => if z.v && decide (z.base < q + n ∧ q < z.base + z.size) then some (c.1, Fin.ofNat 8 i, z) else none
    | none => none
/-- Zone `z` of core `c` replaced. -/
def State.setZone (s : State) (c : Nat) (z : ZoneId) (v : Zone) : State :=
  s.modCore c fun k => { k with zones := k.zones.set z.val v }
/-- `gland` (13_graphs R248). -/
def execGland (r w d : XReg) (s : State) : Out :=
  seq s (do
    s.tenantOnly (wordGland r w d)
    let base := s.x w
    let v := (s.x r).toNat
    let size := v % 2 ^ 32
    let mb := bits v 32 4
    let zi : ZoneId := Fin.ofNat 8 (v / 2 ^ 36)
    check (base.toNat % 64 = 0) .align base
    let pages ← s.pages base .w size
    let da := pageAddr pages base.toNat
    let q := da % 2 ^ 43
    let straight := pages.all fun p => decide (p.2 + base.toNat = p.1 * 4096 + da)
    let laps := s.cores.any fun c => (List.range 8).any fun i => match c.2.zones[i]? with
      | some z => z.v && !(c.1 == s.myId && i == zi.val) && decide (z.base < q + size ∧ q < z.base + z.size)
      | none => false
    if size = 0 ∨ size % 64 ≠ 0 ∨ 2 ^ 39 ≤ v ∨ !straight ∨ da / 2 ^ 43 ≠ s.pkg ∨ !((inVault q && inVault (q + size - 1)) || (inHbm q && inHbm (q + size - 1))) ∨ laps
    then graphTrap 12 base.toNat
    else
      check (s.mbMode s.myId mb = 0) .mbox (BitVec.ofNat 64 mb)
      let old := s.myCore.zones[zi.val]
      if old.v && old.state == 2 then waitFor s (.zoneDone zi)
      else
        let new : Zone := { v := true, base := q, size, mbx := Fin.ofNat 16 mb, state := 0, src := 0, vbase := base, owner := s.me.popid,
                            part := s.me.part, endAt := 0 }
        .ok (((s.touchPages base size).setZone s.myId zi new).setX d (if old.v && old.state == 1 then 1 else 0)))
/-- An inbound write that reaches an armed zone: accepted and committed, or nothing (13_graphs R248). -/
def State.zoneWrite (s : State) (c : Nat) (i : ZoneId) (z : Zone) (w : InWrite) : Option State :=
  let q := w.addr % 2 ^ 43
  let n := w.data.length
  if 2 ≤ z.state.toNat ∨ (z.state = 1 ∧ z.src ≠ w.srcPkg) ∨ q < z.base ∨ z.base + z.size < q + n then none
  else some ((s.portWrite q w.data).setZone c i
    { z with state := if w.isEnd then 2 else 1, src := w.srcPkg, endAt := if w.isEnd then q - z.base else z.endAt })

/-- What the Mint finds in a zone: the failed check's zone offset, or the offsets of the objects and the pointer words
with the ordinal each names (13_graphs R249). -/
def State.zoneCheck (s : State) (z : Zone) : Except Nat (List Nat × List (Nat × Nat)) :=
  let b := z.base
  let e := z.endAt
  let w := s.num (b + e) 8
  let total := s.num (b + e + 8) 8
  let n := w / 2 ^ 32
  let sizes := (List.range n).map fun k => s.num (b + e + 16 + 4 * k) 4
  let offs := (sizes.foldl (fun (acc : List Nat × Nat) z => (acc.2 :: acc.1, acc.2 + 8 * z)) ([], 0)).1.reverse
  let objs := offs.zip sizes
  let layout (o : Nat) : Layout := layoutOf (ofBytes (s.bytes (s.layoutAt z.part.val (s.num (b + o) 8 % 2 ^ 20)) 32))
  let typed (o : Nat × Nat) : Bool :=
    let t := s.num (b + o.1) 8 % 2 ^ 20
    t != 0 && decide (t < 4096) && (layout o.1).v && decide ((layout o.1).fixed ≤ o.2 - 1)
  let words := objs.flatMap fun o => ((List.range (o.2 - 1)).filter fun i => (layout o.1).isPtr i).map fun i => o.1 + 8 + 8 * i
  let bad (a : Nat) : Bool := let v := s.num (b + a) 8; v != 0 && !decide (2 ^ 63 ≤ v ∧ v < 2 ^ 63 + n)
  if w % 2 ^ 32 ≠ 0x4B474E44 ∨ total ≠ e then .error e
  else if z.size < total + 16 + 4 * n then .error (e + 8)
  else if 8 * sizes.sum ≠ total then .error (e + 16)
  else match objs.find? fun o => bits (s.num (b + o.1) 8) 20 16 + 1 != o.2 with
    | some o => .error o.1
    | none => match objs.find? fun o => !typed o with
      | some o => .error o.1
      | none => match words.find? bad with
        | some a => .error a
        | none => .ok (offs, (words.filter fun a => s.num (b + a) 8 != 0).map fun a => (a, s.num (b + a) 8 - 2 ^ 63))
/-- ZONE_COMPLETE: the checks; the offsets and the rewritten words, committed before the completion message is posted; the
zone is DONE, and no longer armed where its owner has finished (13_graphs R248, R249). -/
def execZoneComplete (c : CoreId) (zi : ZoneId) (s : State) : Out :=
  let z := (s.core c.val).zones[zi.val]
  .next (
    if !z.v || z.state != 2 then s
    else
      let b := z.base
      let n := s.num (b + z.endAt) 8 / 2 ^ 32
      let total := s.num (b + z.endAt + 8) 8
      let res := s.zoneCheck z
      let t := match res with
        | .error _ => s
        | .ok (offs, ptrs) =>
          let t := offs.zipIdx.foldl (fun (t : State) (o : Nat × Nat) => t.commitAt (b + z.endAt + 16 + 4 * o.2) (toBytes 4 o.1)) s
          ptrs.foldl (fun (t : State) (p : Nat × Nat) => t.commitWord (b + p.1) (z.vbase + BitVec.ofNat 64 (offs.getD p.2 0))) t
      let (status, at_) := match res with | .error a => (1, a) | .ok _ => (0, 0)
      let body := z.vbase.toNat + 2 ^ 64 * (n % 2 ^ 32) + 2 ^ 96 * (total % 2 ^ 32) + 2 ^ 128 * status + 2 ^ 160 * z.src.toNat + 2 ^ 192 * zi.val + 2 ^ 224 * (at_ % 2 ^ 32)
      let m : Msg :=
        { h0 := BitVec.ofNat 64 (0xFFF0 * 2 ^ 48),
          h1 := BitVec.ofNat 64 ((s.core c.val).mid.toNat + 2 ^ 28 * 12 + 2 ^ 32 * c.val + 2 ^ 42 * s.pkg),
          body := BitVec.ofNat 384 body, part := z.part, dom := none, colour := false, pop := 0, place := { core := c, slot := 15 }, ack := .none }
      let t := (t.modCore c.val fun k => { k with mid := k.mid + 1 }).setZone c.val zi { z with state := 3, v := (s.pop? z.owner).isSome }
      ({ t with net := t.net ++ [Net.msg c z.mbx false false m] } : State))

/-! ### Inbound writes -/

/-- The pieces of `n` bytes from an offset, cut at 4 KiB. -/
def pageCuts : Nat → Nat → Nat → List (Nat × Nat)
  | 0, _, _ => []
  | fuel + 1, q, n => if n = 0 then [] else let m := min n (4096 - q % 4096); (q, m) :: pageCuts fuel (q + m) (n - m)
/-- Whether a partition of another agent may write `n` bytes at an offset: memory or the reduction window (09_memories
R159, R165). -/
def State.inboundOk (s : State) (p : Part) (q n : Nat) : Bool :=
  !(s.partition p.val).busy && (pageCuts (n / 4096 + 2) q n).all fun c => defined c.1 && defined (c.1 + c.2 - 1) && !inCtl c.1 && !inMbox c.1 && s.owns p.val .w c.1 c.2
/-- The running population in whose shared ranges a line lies (09_memories R175). DESIGN CHOICE: of several such populations the one
placed first (notes/assumptions/91). -/
def State.sharedBy (s : State) (line : Nat) : Option Pop :=
  s.pops.find? fun p => p.shared.any fun r => decide (r.1 ≤ line ∧ line < r.1 + r.2)
/-- The lines of a write to package `pkg`, each as an entry of no thread (09_memories R169, R170, R175). -/
def inboundLines (pkg q : Nat) (bs : List Byte) : List Entry :=
  let e (l : Nat) : Entry := { who := { pop := 0, thidx := 0, slot := 0 }, retired := false, form := .dev,
                               line := BitVec.ofNat 64 (2 ^ 63 + pkg * 2 ^ 43 + l), da := pkg * 2 ^ 43 + l,
                               mask := 0, data := 0, merged := false, inbound := true, left := none, at_ := [] }
  (List.range ((q + bs.length - 1) / 64 - q / 64 + 1)).map fun i =>
    let l := (q / 64 + i) * 64
    (e l).put (max q l % 64) ((bs.drop (max q l - q)).take (min (q + bs.length) (l + 64) - max q l))
/-- The bytes of an entry become committed as a store of them does, but for those of the words in `skip` (09_memories R166, 00_scope
R4). -/
def State.writeEntry (s : State) (e : Entry) (skip : Nat → Bool) : State :=
  let q := e.da % 2 ^ 43
  s.portCommit q ((maskCells q e.mask e.data).filter fun c => !skip (c.1 / 8 * 8))
/-- A line of an inbound write is committed, or held as a spill record for the population's next phase, its ticket words apart, which are
of the immediate class; none where no record is free (09_memories R167, R175; notes/assumptions/26). -/
def State.holdLine (s : State) (e : Entry) : Option State :=
  let q := e.da % 2 ^ 43
  match s.sharedBy q with
  | none => some (s.writeEntry e fun _ => false)
  | some p =>
    let now (i : Nat) : Bool := s.ticketWords.contains ((q + i) / 8 * 8)
    let mask := BitVec.ofNat 64 (((List.range 64).filter fun i => e.has i && !now i).map fun i => 2 ^ i).sum
    let c := if inVault q then vaultCore q else p.home.val
    if mask = 0 then some (s.writeEntry e fun _ => false)
    else (s.core c).spillFree.map fun n =>
      (s.writeEntry e fun w => !s.ticketWords.contains w).spillTo c n { e with who := { pop := p.id, thidx := 0, slot := 0 }, mask }
/-- A message that a mailbox window receives (09_memories R164, 20_counters R333). -/
def windowMsg (w : InWrite) (a : Ack) : Msg :=
  let v := ofBytes w.data
  { h0 := BitVec.ofNat 64 v, h1 := BitVec.ofNat 64 (v / 2 ^ 64), body := BitVec.ofNat 384 (bits v 128 (32 * bits v 92 4)), part := w.part,
    dom := if w.front then none else w.dom, colour := w.tag.getLsbD 63 && !w.front, pop := 0, place := { core := w.srcCore, slot := 0 }, ack := a }
/-- An inbound write is accepted or refused, and its sender hears of it; none where acceptance is withheld (09_memories R159,
R164, R175, 13_graphs R248, 20_counters R338). -/
def State.takeWrite (s : State) (w : InWrite) (a : Ack) : Option State :=
  let q := w.addr % 2 ^ 43
  let n := w.data.length
  if inMbox q then
    let o := q - Config.mboxBase
    if n = 64 ∧ q % 64 = 0 then
      some { s with net := s.net ++ [.msg (Fin.ofNat 1024 (o / 1024)) (Fin.ofNat 16 (o / 64)) false false (windowMsg w a)] }
    else some (s.refuse a)
  else if inCtl q then
    if q = Config.clockBase + 0x1000 ∧ n = 32 then some ((s.acknowledge a).controlWrite w.data) else some (s.refuse a)
  else if n = 0 then some (s.acknowledge a)
  else if !s.inboundOk w.part q n then some (s.refuse a)
  else match s.zoneAt q n with
    | some (c, i, z) =>
      (match s.zoneWrite c i z w with
       | some t => some (t.acknowledge a)
       | none => some (s.refuse a))
    | none =>
      if inRed q then some ((s.portWrite q w.data).acknowledge a)
      else ((inboundLines s.pkg q w.data).foldlM (fun (t : State) e => t.holdLine e) s).map fun t => t.acknowledge a
/-- An inbound write arrives: one whose acceptance is withheld waits, and so do later ones of its core; a front port's writes wait each
on its own. In recovery it reaches nothing of the package (09_memories R174, R175, 14_queues R263, 23_system R354). -/
def State.inbound (s : State) (w : InWrite) (a : Ack) : State :=
  let wait : State := { s with withheld := s.withheld ++ [(w, a)] }
  if s.boot.recovery then s
  else if !w.front && s.withheld.any fun e => e.1.srcPkg == w.srcPkg && e.1.srcCore == w.srcCore && !e.1.front then wait
  else (s.takeWrite w a).getD wait
/-- The withheld writes are offered again, in the order of their arrival (09_memories R175). -/
def State.retryWithheld (s : State) : State :=
  s.withheld.foldl (fun (t : State) e => t.inbound e.1 e.2) { s with withheld := [] }
/-- Who hears of an inbound write: of a fabric write's packet, as the marks in its tag say (19_prog_link R325, 14_queues R263;
notes/assumptions/25). -/
def writeAck (w : InWrite) : Ack :=
  if w.front then .kda w.part w.tag false else if w.tag.getLsbD 61 then .more w.srcPkg w.tag else .fabric w.srcPkg w.tag
/-- INBOUND_FABRIC_WRITE (09_memories R159, R175). -/
def execInboundFabricWrite (w : InWrite) (s : State) : Out := .next (s.inbound w (writeAck w))
/-- Whether an inbound write would be accepted by an armed zone (13_graphs R248). -/
def State.zoneTakes (s : State) (w : InWrite) : Bool :=
  match s.zoneAt (w.addr % 2 ^ 43) w.data.length with
  | some (c, i, z) => s.inboundOk w.part (w.addr % 2 ^ 43) w.data.length && (s.zoneWrite c i z w).isSome
  | none => false
/-- ZONE_WRITE_ACCEPT: an inbound write into an armed zone that accepts it (13_graphs R248). -/
def execZoneWriteAccept (w : InWrite) (s : State) : Out :=
  .next (if s.zoneTakes w && !w.isEnd then s.inbound w (writeAck w) else s)
/-- ZONE_END_WRITE: an accepted end write starts the zone's checks (13_graphs R249). -/
def execZoneEndWrite (w : InWrite) (s : State) : Out :=
  .next (if s.zoneTakes w && w.isEnd then s.inbound w (writeAck w) else s)

/-! ### The answers to this package's writes -/

/-- The outstanding write or atomic of a tag leaves the list. -/
def State.answered (s : State) (tag : Word) : Option (Outstanding × State) :=
  (s.out.find? fun o => bareTag o.tag == bareTag tag).map fun o =>
    (o, { s with out := s.out.eraseP fun o => bareTag o.tag == bareTag tag })
/-- The flags of an acknowledged float atomic reach its thread, which a boundary trap may have waited for (10_access R183, 07_vector R117). -/
def State.giveFlags (s : State) (o : Outstanding) (flags : BitVec 5) : State :=
  if !o.float || o.gone then s
  else
    let t := s.modThread o.place o.pop fun q => { q with fflags := q.fflags ||| flags }
    if (t.slotAt o.place).state == .ready && (t.slotAt o.place).popid == o.pop then t.takeIntr o.place else t
/-- An acknowledgement of a tag: the flags of a float atomic reach its thread; an acknowledgement is a pulse; an anti-message's is the end of
it (01_device R18, 10_access R183, 08_slots R155, 17_prog_pipeline R299). -/
def State.fabricAck (s : State) (tag : Word) (flags : BitVec 5) : State :=
  match s.answered tag with
  | some (o, t) =>
    let t := t.giveFlags o flags
    (if o.anti then t.antiDone o.place o.pop else t).pulse o.pop
  | none => s
/-- FABRIC_ACK (01_device R18). -/
def execFabricAck (tag : Word) (flags : BitVec 5) (s : State) : Out := .next (s.fabricAck tag flags)
/-- A refusal of a tag (09_memories R159). -/
def State.fabricRefusal (s : State) (tag : Word) : State :=
  match s.answered tag with
  | some (o, t) => t.refuseWrite o
  | none => s
/-- FABRIC_REFUSAL (09_memories R159). -/
def execFabricRefusal (tag : Word) (s : State) : Out := .next (s.fabricRefusal tag)

/-! ### Posted atomics -/

/-- The bytes of an atomic's target (10_access R180, R183). -/
def atomicSize (a : InAtomic) : Nat := if a.vec then 32 else if a.fn.toNat < 16 then 4 else 8
/-- Whether fn names an operation (10_access R180, R183). -/
def atomicKnown (a : InAtomic) : Bool := if a.vec then decide (a.fn.toNat < 12) else decide (a.fn.toNat % 16 < 9)
/-- The result of an atomic at a port, with its flags: one operation, or one for each element (10_access R180, R183). -/
def atomicResult (vec : Bool) (fn : Nat) (mode : Mode) (size old src : Nat) : Nat × Flags :=
  if vec then
    let o := VamoOp.ofCode fn
    let w := 8 * o.size
    (List.range (32 / o.size)).foldl (fun acc i =>
      let r := o.apply mode (bits old (w * i) w) (bits src (w * i) w)
      (acc.1 + r.1 % 2 ^ w * 2 ^ (w * i), acc.2 ||| r.2)) (0, 0)
  else ((AmoOp.ofCode (fn % 16)).apply (8 * size) old src, 0)
/-- Whether the target of `n` bytes holds a poisoned word or lies in a lost line (10_access R181). -/
def State.spoilt (s : State) (q n : Nat) : Bool := (s.poisonedAt q n).isSome || (s.lostAt q n).isSome
/-- Whether the port refuses a posted atomic (09_memories R159, 10_access R181). -/
def State.atomicRefused (s : State) (a : InAtomic) : Bool :=
  let q := a.addr % 2 ^ 43
  !atomicKnown a || decide (q % (atomicSize a) ≠ 0) || !s.inboundOk a.part q (atomicSize a) || s.spoilt q (atomicSize a) || redHeader q (atomicSize a)
/-- A posted atomic acts at the target port, or is refused (10_access R181, 05_numbers R98); fn 31 is a decrement of a task
record (15_messages R293; notes/assumptions/25). -/
def State.takeAtomic (s : State) (a : InAtomic) : State :=
  let q := a.addr % 2 ^ 43
  if !a.vec && a.fn == 31 then
    if q % 64 ≠ 0 ∨ !s.inboundOk a.part q 64 then s.answer a.srcPkg 3 a.tag
    else match s.decrement q with
      | some t => t.answer a.srcPkg 2 a.tag
      | none => (s.taskError q).answer a.srcPkg 3 a.tag
  else if s.atomicRefused a then s.answer a.srcPkg 3 a.tag
  else
    let r := atomicResult a.vec a.fn.toNat (Mode.ofFrm a.mode.toNat) (atomicSize a) (s.num q (atomicSize a)) (ofBytes a.data)
    (s.portWrite q (toBytes (atomicSize a) r.1)).answer a.srcPkg 2 a.tag
      (if a.vec && (VamoOp.ofCode a.fn.toNat).isFloat then [BitVec.ofNat 8 r.2.toNat] else [])

/-! ### Reduction rounds -/

/-- The committed header of the cell of a unit (10_access R188). -/
def State.cellHead (s : State) (q : Nat) : Word := s.word ((q - Config.redBase) / 128 * 128 + Config.redBase)
/-- Whether a contribution is refused under a header (10_access R189). -/
def contributionRefused (h : Word) (a : InAtomic) (q : Nat) : Bool :=
  let w := h.toNat
  bits w 63 1 == 0 || bits w 0 13 == 0 || decide (4608 < bits w 0 13) || decide (q % 128 < 32) || decide (q % (atomicSize a) ≠ 0) ||
  bits w 16 5 != a.fn.toNat || bits w 24 1 != a.vec.toNat || !atomicKnown a || (!a.vec && a.fn.toNat % 16 == 8)
/-- The bytes of a unit: the group of a `vamo` or the word of an `amo` (10_access R188). -/
def unitSize (vec : Bool) : Nat := if vec then 32 else 8
/-- A contribution reaches the root switch: refused, counted in the round of its unit, or held for the next (10_access
R189). -/
def State.contribute (s : State) (a : InAtomic) : State :=
  let q := a.addr % 2 ^ 43
  let off := q % unitSize a.vec
  let unit := q - off
  let k : Contribution := { pkg := a.srcPkg, tag := a.tag, core := a.srcCore, off, data := a.data }
  match s.rounds.find? fun r => r.unit == unit with
  | none =>
    if contributionRefused (s.cellHead q) a q then s.answer a.srcPkg 3 a.tag
    else { s with rounds := s.rounds ++ [{ unit, head := s.cellHead q, given := [k], held := [] }] }
  | some r =>
    if contributionRefused r.head a q then s.answer a.srcPkg 3 a.tag
    else
      let full := decide (bits r.head.toNat 0 13 ≤ r.given.length)
      let r' : Round := if full || r.given.any (fun g => g.pkg == a.srcPkg) then { r with held := r.held ++ [k] } else { r with given := r.given ++ [k] }
      { s with rounds := s.rounds.map fun e => if e.unit == unit then r' else e }
/-- REDUCTION_CONTRIBUTION (10_access R189, 23_system R354). -/
def execReductionContribution (a : InAtomic) (s : State) : Out :=
  .next (if inRed (a.addr % 2 ^ 43) && !s.boot.recovery then s.contribute a else s)
/-- POSTED_ATOMIC: at the target port, or in the switches for the reduction window; in recovery at neither (10_access R181,
R189, 23_system R354). -/
def execPostedAtomic (a : InAtomic) (s : State) : Out :=
  .next (if s.boot.recovery then s else if inRed (a.addr % 2 ^ 43) then s.contribute a else s.takeAtomic a)
/-- Whether a round's contributions are those of a `vamo` (10_access R188). -/
def Round.vec (r : Round) : Bool := r.head.getLsbD 24
/-- The bytes of a contribution's target (10_access R188). -/
def Round.size (r : Round) : Nat := if r.vec then 32 else if r.head.getLsbD 20 then 8 else 4
/-- The round's operation on two operands, rounded RNE (05_numbers R99). -/
def Round.op (r : Round) (a b : Nat) : Nat := (atomicResult r.vec (bits r.head.toNat 16 5) (Mode.ofFrm 0) r.size a b).1
/-- The contributions to byte `off` of the unit merged in ascending source-package id; none where there is none (05_numbers R99). -/
def Round.merged (r : Round) (off : Nat) : Option Nat :=
  match ((r.given.filter fun c => c.off == off).mergeSort fun a b => decide (a.pkg.toNat ≤ b.pkg.toNat)).map fun c => ofBytes c.data with
  | [] => none
  | v :: rest => some (rest.foldl r.op v)
/-- The bytes that the merged result leaves in the unit. DESIGN CHOICE: the contributions of a 4-byte operation merge each in its half of
the 8-byte unit, and both halves are applied as one atomic (10_access R189; notes/assumptions/87). -/
def State.roundCells (s : State) (r : Round) : List (Nat × Byte) :=
  (List.range (unitSize r.vec / r.size)).flatMap fun i =>
    let q := r.unit + r.size * i
    match r.merged (r.size * i) with
    | some v => cells q (toBytes r.size (r.op (s.num q r.size) v))
    | none => []
/-- REDUCTION_RESULT_APPLY: a complete round is applied at the home port as one atomic, DONE rises, and every contribution
is acknowledged; with a poisoned word in the unit every one is refused. The held contributions open the next round
(10_access R181, R189). -/
def execReductionResultApply (n : Nat) (s : State) : Out :=
  .next (match s.rounds[n]? with
    | none => s
    | some r =>
      if r.given.length < bits r.head.toNat 0 13 then s
      else
        let bad := (s.poisonedAt r.unit (unitSize r.vec)).isSome
        let cell := (r.unit - Config.redBase) / 128 * 128 + Config.redBase
        let t : State := { s with rounds := s.rounds.eraseIdx n }
        let t := if bad then t
          else (t.commit (s.roundCells r)).commitAt (cell + 4) (toBytes 2 (s.num (cell + 4) 2 + 1))
        let t := r.given.foldl (fun (t : State) g => t.answer g.pkg (if bad then 3 else 2) g.tag) t
        r.held.foldl (fun (t : State) g => t.contribute
          { addr := r.unit + g.off, vec := r.vec, fn := BitVec.ofNat 5 (bits r.head.toNat 16 5), data := g.data, srcPkg := g.pkg, srcCore := g.core, part := 0, mode := 0, tag := g.tag }) t)

end Sys2Proof.Machine
end

