-- ==== Sys2Proof/Machine/Kda.lean ====
section
/-! DEFINITION. KDA datagrams: what a front port does with each, and the device's transmit queues (14_queues R261-R264). -/

namespace Sys2Proof.Machine

/-- A field of a datagram's header: `n` bytes from byte `i` (R262). -/
def kdaField (g : Datagram) (i n : Nat) : Nat := ofBytes ((g.bytes.drop i).take n)
/-- OP (R262). -/
def kdaOp (g : Datagram) : Nat := kdaField g 1 1
/-- Whether the header keeps R262. -/
def kdaWhole (g : Datagram) : Bool :=
  let op := kdaOp g
  let len := kdaField g 24 4
  decide (32 ≤ g.bytes.length) && kdaField g 0 1 == 1 && decide (1 ≤ op ∧ op ≤ 5) &&
  (if 4 ≤ op then decide (kdaField g 2 2 < 2) else kdaField g 2 2 == 0) &&
  (if op = 1 then decide (8 ≤ len ∧ len ≤ 8192) && len % 8 == 0 else if op = 2 then len == 72 else len == 0) &&
  g.bytes.length == 32 + len &&
  (if op = 5 then decide (1 ≤ kdaField g 28 2 ∧ kdaField g 28 2 ≤ 4) else kdaField g 28 2 == 0) && kdaField g 30 2 == 0
/-- The partition whose enabled queue set a datagram reaches; none for one that is dropped, as every one in recovery (R261, 23_system
R354). -/
def State.kdaPart (s : State) (g : Datagram) : Option Part :=
  if g.clean && !s.boot.recovery then
    ((List.range 8).find? fun p => (s.partition p).en && (s.partition p).addr == g.dst && (s.partition p).uport == g.port).map (Fin.ofNat 8)
  else none
/-- The message id. -/
def kdaId (g : Datagram) : Word := BitVec.ofNat 64 (kdaField g 8 8)
/-- A request reaches a port: dropped, NAK FORMAT, NAK RESET, or `f` of its partition (R261, R263). -/
def State.kdaRequest (s : State) (g : Datagram) (op : Nat) (f : State → Part → State) : State :=
  match s.kdaPart g with
  | none => s
  | some p =>
    if kdaOp g ≠ op then s
    else if !kdaWhole g then s.kdaReply p 5 4 (kdaId g) g.ce
    else if kdaField g 4 4 ≠ (s.partition p.val).gen.toNat then s.kdaReply p 5 1 (kdaId g) g.ce
    else f s p
/-- KDA_WRITE (R263): a write of the queue set's partition; a header whose OP is none of R262 is answered here too. -/
def execKdaWrite (g : Datagram) (s : State) : Out :=
  .next (
    if kdaOp g = 0 ∨ 5 < kdaOp g then
      match s.kdaPart g with | some p => s.kdaReply p 5 4 (kdaId g) g.ce | none => s
    else s.kdaRequest g 1 fun s p =>
      let q := kdaField g 16 8
      if 2 ^ 43 ≤ q then s.kdaReply p 5 3 (kdaId g) g.ce
      else
        let w : InWrite := { addr := q, data := g.bytes.drop 32, srcPkg := BitVec.ofNat 13 s.pkg, srcCore := 0, part := p, dom := none,
                             tag := kdaId g, front := true, isEnd := false }
        s.inbound w (.kda p (kdaId g) g.ce))
/-- KDA_RINGPUT: a duplicate, whose index is below RD or whose TAG the slot's header carries, whatever its KIND, is acknowledged without
writing; a full ring answers NAK FULL (R263). -/
def execKdaRingput (g : Datagram) (s : State) : Out :=
  .next (s.kdaRequest g 2 fun s p =>
    let r : RingId := Fin.ofNat 1024 (kdaField g 16 8)
    let k := s.ring r.val
    let i := kdaField g 32 8
    let q := k.recordAt i
    let h := s.num q 8
    if k.part ≠ p ∨ !k.ext ∨ !k.v then s.kdaReply p 5 3 (kdaId g) g.ce
    else if i < k.rd.toNat ∨ bits h 16 48 = i % 2 ^ 48 then s.kdaReply p 4 0 (kdaId g) g.ce
    else if k.rd.toNat + 2 ^ k.log.toNat ≤ i then s.kdaReply p 5 2 (kdaId g) g.ce
    else ((((s.commitAt (q + 8) (g.bytes.drop 48)).commitAt q ((g.bytes.drop 40).take 8)).notify r).kdaReply p 4 0 (kdaId g) g.ce))
/-- KDA_NOTIFY (R263). -/
def execKdaNotify (g : Datagram) (s : State) : Out :=
  .next (s.kdaRequest g 3 fun s p =>
    let r : RingId := Fin.ofNat 1024 (kdaField g 16 8)
    if (s.ring r.val).part ≠ p then s.kdaReply p 5 3 (kdaId g) g.ce
    else (s.notify r).kdaReply p 4 0 (kdaId g) g.ce)
/-- The datagrams that wait join the transmit queue as far as it has room, each under the message id of its header (R262, R264, 14_queues
R250). -/
def Partition.admitGrams (k : Partition) : Partition :=
  let n := 256 - k.txq.length
  { k with
    txq := k.txq ++ (k.txwait.take n).map fun b => { id := BitVec.ofNat 64 (ofBytes ((b.drop 8).take 8)), bytes := b, sent := false }
    txwait := k.txwait.drop n }
/-- The oldest datagram that has not been sent is sent (R264). -/
def sendNext : List TxGram → List TxGram
  | [] => []
  | d :: t => if d.sent then d :: sendNext t else { d with sent := true } :: t
/-- A reply is heard: its datagram is sent no more, and an ECE echo halves RATE, at most once in 100 µs and not below 100 (R264); a header
that breaks R262 is answered NAK FORMAT (R263). DESIGN CHOICE: a reply's generation, which is its sender's, is not compared
(notes/assumptions/76). -/
def State.kdaHeard (s : State) (g : Datagram) (op : Nat) : State :=
  match s.kdaPart g with
  | none => s
  | some p =>
    if kdaOp g ≠ op then s
    else if !kdaWhole g then s.kdaReply p 5 4 (kdaId g) g.ce
    else
      let t := s.modPart p.val fun k => ({ k with txq := k.txq.filter fun d => d.id != kdaId g } : Partition).admitGrams
      if kdaField g 2 1 = 0 then t
      else t.modPart p.val fun k =>
        let due := k.halved == 0 || decide (100000 ≤ s.time.toNat - k.halved.toNat)
        { k with raised := s.time, halved := if due then s.time else k.halved, rate := if due then BitVec.ofNat 32 (max 100 (k.rate.toNat / 2)) else k.rate }
/-- KDA_ACK (R264). -/
def execKdaAck (g : Datagram) (s : State) : Out := .next (s.kdaHeard g 4)
/-- KDA_NAK (R264). -/
def execKdaNak (g : Datagram) (s : State) : Out := .next (s.kdaHeard g 5)
/-- A datagram joins the transmit queue of a partition, which holds 256, or waits for room in it: a full queue drops nothing (R264,
14_queues R250). -/
def State.queueGram (s : State) (p : Part) (bytes : List Byte) : State :=
  s.modPart p.val fun k => ({ k with txwait := k.txwait ++ [bytes] } : Partition).admitGrams
/-- KDA_RETRANSMIT: a datagram that was sent and has no answer is sent again (R264). -/
def execKdaRetransmit (p : Part) (id : Word) (s : State) : Out :=
  .next (match (s.partition p.val).txq.find? fun d => d.id == id && d.sent with
    | some d => { s with replies := d.bytes :: s.replies }
    | none => s)
/-- KDA_RATE_RAISE: 100 µs without an ECE echo add 400 to RATE, up to 1,600,000 (R264). -/
def execKdaRateRaise (p : Part) (s : State) : Out :=
  .next (s.modPart p.val fun k =>
    if 100000 ≤ s.time.toNat - k.raised.toNat then { k with rate := BitVec.ofNat 32 (min 1600000 (k.rate.toNat + 400)), raised := s.time } else k)
/-- KDA_TRANSMIT: the transmit queue sends its next datagram (R264). -/
def execKdaTransmit (p : Part) (s : State) : Out :=
  .next (match (s.partition p.val).txq.find? fun d => !d.sent with
    | some d =>
      let t := s.modPart p.val fun k => { k with txq := sendNext k.txq }
      { t with replies := d.bytes :: t.replies }
    | none => s)

end Sys2Proof.Machine
end

