-- ==== Sys2Proof/Machine/VTime.lean ====
section
/-! DEFINITION. Virtual time: ending events, the Escrow, rollback, the Clearing's rounds and what a new GVT frees
(15_messages R278-R290, 17_prog_pipeline R299, 20_counters R333, R334). -/

namespace Sys2Proof.Machine

/-! ### EVT instructions -/

/-- `evend` (R287). -/
def execEvend (s : State) : Out :=
  seq s (do
    s.tenantOnly wordEvend
    s.endEvent)
/-- `vtget` of LVT (R288). -/
def execVtgetLvt (d : XReg) (s : State) : Out := seq s (.ok (s.setX d (s.me.lvt.setWidth 64)))
/-- `vtget` of GVT (R288). -/
def execVtgetGvt (d : XReg) (s : State) : Out := seq s (.ok (s.setX d (s.myDie.gvt.setWidth 64)))
/-- `vtget` of EVID (R288). -/
def execVtgetEvid (d : XReg) (s : State) : Out := seq s (.ok (s.setX d (s.me.evid.setWidth 64)))
/-- `escst`: the treatment of R280 in an open event, an Escrow entry in a bound population, at once in another (R289). -/
def execEscst (d a : XReg) (s : State) : Out :=
  seq s (do
    s.tenantOnly (wordEscst d a)
    let va := s.x d
    let da ← s.translate va .w 8
    s.touchable va da 8 false
    let t := s.touch va
    let p : Piece := { va, da, bytes := toBytes 8 (s.x a).toNat }
    let q := da % 2 ^ 43
    if s.me.evo then t.eventStore [p]
    else if s.myDom.isSome then
      if da / 2 ^ 43 = s.pkg && inCtl q then
        match t.ctlStore s.cur va q 8 (s.x a).toNat with
        | .error (.trap c sub v) => .error (.trap c sub v)
        | _ => do s.needSpace .escrow 1; .ok (t.addEscrow (lineAct [p] (da / 64 * 64)))
      else do s.needSpace .escrow 1; .ok (t.addEscrow (lineAct [p] (da / 64 * 64)))
    else if da / 2 ^ 43 = s.pkg then waitClean s (t.immStore va q p.bytes)
    else .ok (t.sendFabric s.issuer da 0 0 p.bytes false false false false))
/-- The Escrow entries that the thread at a place owns (R290). -/
def State.ownsEscrow (s : State) (p : Place) (pop : BitVec 32) : Bool :=
  s.dies.any fun d => d.2.escrow.any fun e => e.owner == p && e.pop == pop
/-- `escwait` (R290). -/
def execEscwait (s : State) : Out :=
  seq s (do
    s.tenantOnly wordEscwait
    let t ← s.endEvent
    if t.ownsEscrow s.cur s.me.popid then waitFor t .escrowEmpty else .ok t)

/-! ### Rollback -/

/-- An anti-message for a sent-log entry, on its channel (R283). -/
def SentRec.anti (r : SentRec) (p : Place) (t : Slot) (dom : Option (BitVec 16)) : Msg :=
  { h0 := r.h0, h1 := BitVec.ofNat 64 (r.h1.toNat - bits r.h1.toNat 55 2 * 2 ^ 55 + 2 ^ 55), body := 0, part := t.part, dom, colour := false,
    pop := t.popid, place := p, ack := .none }
/-- The mailboxes of a core with each message changed by `f`. -/
def State.mapBoxes (s : State) (c : Nat) (f : MboxMsg → MboxMsg) : State :=
  (s.core c).mail.foldl (fun (t : State) e => if e.2.map f = e.2 then t else t.setBox c e.1 (e.2.map f)) s
/-- The anti-messages whose partners a rollback has returned meet them (R284). -/
def State.meetWaiting (s : State) (c : Nat) : State :=
  (s.core c).antis.foldl (fun (t : State) a =>
    if (t.box c a.1.val).any fun m => m.done == none && a.2.partner m.msg then
      (t.annihilate c a.1.val a.2).modCore c fun k => { k with antis := k.antis.filter fun b => b != a }
    else t) s
/-- The rollback sequence of the thread at `p`, whose pending rollback names the earliest event to undo: the state after it,
the slot in the state `go` where it waits for no anti-message, else in `hold` (R283, 17_prog_pipeline R299). -/
def State.undoTo (s : State) (p : Place) (hold : SlotState) : State :=
  let c := p.core.val
  let q := s.slotAt p
  match q.pending with
  | none => s
  | some r =>
    let mine (e : Event) : Bool := e.slot == p.slot && e.part == q.part && !e.evid.ult r.evid
    let recs := (s.core c).undo.filter fun u => mine u.2.event
    let sent := ((s.core c).sent.filter fun u => mine u.2.by_).map Prod.snd
    let evids := (recs.filterMap fun u => match u.2 with | .check e .. => some e.evid | .store .. => none).reverse
    let first := recs.findSome? fun u => match u.2 with | .check e _ _ x pc lvt pr _ => some (e.evid, x, pc, lvt, pr) | .store .. => none
    let drop (e : EscEntry) : Bool := e.owner == p && e.pop == q.popid && !e.evid.ult r.evid
    let t := recs.reverse.foldl (fun (t : State) u => match u.2 with | .store _ da old => t.commitWord (da % 2 ^ 43) old | .check .. => t) (s.abandon p)
    let t := t.mapBoxes c fun m => match m.done with | some e => if mine e then { m with done := none } else m | none => m
    let t := t.modDie (dieOf c) fun d =>
      { d with escrow := d.escrow.filter fun e => !drop e, escd := d.escd + BitVec.ofNat 64 (d.escrow.filter drop).length, rolls := d.rolls + 1 }
    let t := t.modCore c fun k => { k with undo := k.undo.filter fun u => !mine u.2.event, sent := k.sent.filter fun u => !mine u.2.by_ }
    let antis := evids.flatMap fun v => sent.filter fun e => e.by_.evid == v
    let t := t.modSlot p fun q =>
      let q := { q with pending := none, evo := false, range := none, monitor := none, antiOut := q.antiOut + antis.length, state := hold }
      match first with
      | some (evid, x, pc, lvt, pr) => { q with x, p := pr, pc, lvt, evid := evid - 1 }
      | none => q
    let dom := (s.pop? q.popid).bind Pop.dom
    let t := (antis.foldl (fun (t : State) e => t.inject { place := p, pop := q.popid, part := q.part } e.desc.toNat (e.anti p q dom)) t).meetWaiting c
    if (t.slotAt p).antiOut ≠ 0 ∨ antis ≠ [] then t
    else if q.stopping then t.stopThread p
    else t.modSlot p fun q => { q with state := .ready }
/-- Whether the thread of a slot stands where a rollback can begin: at a boundary or at a stop point, with no access to complete that
a bank's lock released (R283, 08_slots R140, R141). -/
def Slot.canRollBack (t : Slot) : Bool :=
  t.pending.isSome && !t.released &&
    (match t.state, t.wait with
     | .stalled, some (.bank ..) => false
     | .stalled, _ => true
     | .held, _ => true
     | .wait, _ => (match t.mint with | some m => m.stage == .walking || m.stage == .admitting | none => true)
     | _, _ => false)
/-- ROLLBACK: a pending rollback begins at the thread's boundary, for which a Mint run stops (R283, 08_slots R140). -/
def execRollback (c : CoreId) (sl : SlotId) (s : State) : Out :=
  let p : Place := { core := c, slot := sl }
  let q := s.slotAt p
  .next (if q.canRollBack && !s.stopLocked p then s.undoTo p (if q.state = .held ∨ q.state = .wait then q.state else .stalled) else s)

/-! ### The Clearing -/

/-- The terms that a die brings to a round at the cut (20_counters R334). -/
def State.clearingTerms (s : State) (d : Nat) : List Nat :=
  let slots (c : Nat) (k : Core) : List Slot :=
    k.slots.toList ++ s.pops.flatMap fun p => (p.away.filter fun a => a.place.core.val == c).map Away.slot
  let held := s.net.filterMap fun e => match e with
    | .msg dst _ _ counted m => if counted && dieOf dst.val == d && m.ord then some m.vrt else none
    | _ => none
  held ++ (s.cores.filter fun c => dieOf c.1 == d).flatMap fun c =>
    (c.2.mail.flatMap fun e => (e.2.filter fun m => m.done == none && m.msg.ord && m.msg.kind == 0).map fun m => m.msg.vrt) ++
    ((slots c.1 c.2).flatMap fun t => (if t.evo then [t.lvt.toNat] else []) ++
      (match t.pending with | some p => p.causes.map BitVec.toNat | none => []))
/-- The round of a domain as its first die of the package has it, or the I/O dies where the package has none, with the time there
(20_counters R333). -/
def State.leadRound (s : State) (dom : BitVec 16) : DomRound × Word :=
  match s.domDies dom with | d :: _ => ((s.die d).round, (s.die d).tsc) | [] => (s.domRound dom, s.time)
/-- CLEARING_CUT: at a TSC multiple of the round period after the last round closed, every die of the domain flips its colour
and takes its contribution; a package without a die of the domain keeps its colour and its round (20_counters R333). -/
def execClearingCut (r : ClearingStart) (s : State) : Out :=
  if s.still then .next s else
  let ds := s.domDies r.dom
  let period := ds.foldl (fun m d => min m (s.die d).gvtr.toNat) r.least.toNat
  let (lead, now) := s.leadRound r.dom
  .next (
    if lead.open_ || ds.any (fun d => (s.die d).open_) || now.toNat % period != 0 || decide (now.toNat ≤ lead.closedAt.toNat) then s
    else ds.foldl (fun (t : State) d => t.modDie d fun k =>
      { k with colour := !k.colour, open_ := true, low := (s.clearingTerms d).foldl min (2 ^ 48 - 1) })
      (s.modDom r.dom fun k => { k with colour := !lead.colour, open_ := true, low := 2 ^ 48 - 1 }))
/-- The counter of a colour. -/
def ofColour (v : Vector Nat 2) (colour : Bool) : Nat := if colour then v[1] else v[0]
/-- The round is over at a time, and what it counted is done with (20_counters R333, R334). -/
def DomRound.close (r : DomRound) (old : Bool) (now : Word) : DomRound :=
  { r with open_ := false, closedAt := now,
           sent := if old then r.sent.set 1 0 else r.sent.set 0 0, rcvd := if old then r.rcvd.set 1 0 else r.rcvd.set 0 0 }
/-- CLEARING_ROUND_CLOSE: old-colour sends equal old-colour receipts over the domain, whose other packages bring `ext`; G is
the least contribution (20_counters R334). -/
def execClearingRoundClose (dom : BitVec 16) (ext : ClearingSums) (s : State) : Out :=
  if s.still then .next s else
  let ds := s.domDies dom
  let kept := s.domRound dom
  let (lead, now) := s.leadRound dom
  let old := !lead.colour
  let sum (f : DomRound → Nat) : Nat := (ds.map fun d => f (s.die d).round).sum + f kept
  let g := ds.foldl (fun m d => min m (s.die d).low) (min (min ext.low (2 ^ 48 - 1)) kept.low)
  .next (
    if !lead.open_ || !(ds.all fun d => (s.die d).open_) ||
        sum (fun k => ofColour k.sent old) + ext.sent != sum (fun k => ofColour k.rcvd old) + ext.rcvd then s
    else ds.foldl (fun (t : State) d => t.modDie d fun k => { k.setRound (k.round.close old k.tsc) with toGvt := k.toGvt ++ [g] })
      (s.modDom dom fun k => { k.close old now with low := 2 ^ 48 - 1 }))

/-! ### A new GVT -/

/-- The runs of bytes that a mask selects of a line at `q`. -/
def maskRuns (q : Nat) (mask : BitVec 64) (data : BitVec 512) : List (Nat × List Byte) :=
  (List.range 64).foldr (fun i l =>
    if mask.getLsbD i then
      let b : Byte := data.extractLsb' (8 * i) 8
      match l with
      | (a, bs) :: t => if a = q + i + 1 then (q + i, b :: bs) :: t else (q + i, [b]) :: l
      | [] => [(q + i, [b])]
    else l) []
/-- The writes of a thread that has ended are no thread's any more (18_tables R316). -/
def State.markGone (s : State) (p : Place) (pop : BitVec 32) : State :=
  let q := s.slotAt p
  if (q.popid == pop && q.state != .free && q.state != .done) || (s.pops.any fun o => o.id == pop && o.away.any fun a => a.place == p) then s
  else { s with out := s.out.map fun (o : Outstanding) => if o.place == p && o.pop == pop then { o with gone := true } else o }
/-- A released Escrow entry's action (15_messages R285). -/
def State.performEscrow (s : State) (e : EscEntry) : State :=
  let by_ : Issuer := { place := e.owner, pop := e.pop, part := e.part }
  let t := match e.act with
    | .store da mask data =>
      (maskRuns da mask data).foldl (fun (t : State) (r : Nat × List Byte) =>
        let q := r.1 % 2 ^ 43
        if r.1 / 2 ^ 43 ≠ s.pkg then t.sendFabric by_ r.1 0 0 r.2 false false false false
        else if inCtl q then
          match t.ctlStore by_.place (BitVec.ofNat 64 r.1) q r.2.length (ofBytes r.2) with
          | .ok u => u
          | .error _ => t
        else t.portWrite q r.2) s
    | .send desc m => s.inject by_ desc.toNat m
    | .taskDec da => s.sendDec by_ da
    | .taskNew q w3 queue => s.armTask q w3 e.pop queue
  (t.markGone by_.place e.pop).pulse e.pop
/-- The order of release (15_messages R285). -/
def EscEntry.le (a b : EscEntry) : Bool :=
  decide (a.lvt.toNat < b.lvt.toNat) ||
    (a.lvt == b.lvt && (decide (a.score.val < b.score.val) || (a.score == b.score && decide (a.issue.toNat ≤ b.issue.toNat))))
/-- The Escrow of a die releases every entry below GVT (15_messages R285). -/
def State.releaseEscrow (s : State) (d : Nat) : State :=
  let k := s.die d
  let go := (k.escrow.filter fun e => e.lvt.ult k.gvt).mergeSort EscEntry.le
  go.foldl (fun (t : State) e => t.performEscrow e)
    (s.modDie d fun k => { k with escrow := k.escrow.filter fun e => !e.lvt.ult k.gvt, escr := k.escr + BitVec.ofNat 64 go.length })
/-- Whether an event of a core is final (15_messages R278, R285). -/
def Core.final (k : Core) (gvt : BitVec 48) (e : Event) : Bool :=
  k.undo.all fun u => match u.2 with | .check e' vrt .. => e' != e || vrt.ult gvt | .store .. => true
/-- What the final events of a core hold is freed, and a HELD thread whose last event is final is DONE (15_messages R285,
08_slots R134, R138). -/
def State.freeFinal (s : State) (c : Nat) : State :=
  let gvt := (s.die (dieOf c)).gvt
  let k := s.core c
  let t := k.mail.foldl (fun (t : State) e =>
    let l := e.2.filter fun m => m.done == none || decide (gvt.toNat ≤ m.msg.vrt)
    if l = e.2 then t else t.setBox c e.1 l) s
  let t := t.modCore c fun k =>
    { k with undo := k.undo.filter fun u => !k.final gvt u.2.event, sent := k.sent.filter fun u => !k.final gvt u.2.by_ }
  tenantSlots.foldl (fun (t : State) i =>
    let q := (t.core c).slots[i.val]
    if q.state == .held && q.pending.isNone && q.antiOut == 0 && q.lvt.ult gvt then t.becomeDone { core := Fin.ofNat 1024 c, slot := i } else t) t
/-- GVT_PUBLISH: GVT ← max(GVT, G) on the die, for the oldest round that it has still to publish; finality, log freeing and Escrow release follow (20_counters R334). -/
def execGvtPublish (d : DieId) (s : State) : Out :=
  if s.still then .next s else
  .next (match (s.die d.val).toGvt with
    | [] => s
    | g :: later =>
      let t := s.modDie d.val fun k =>
        { k with gvt := BitVec.ofNat 48 (max k.gvt.toNat g), gvtrn := k.gvtrn + 1, toGvt := later }
      let t := ((t.cores.map Prod.fst).filter fun c => dieOf c == d.val).foldl (fun (t : State) c => t.freeFinal c) t
      t.releaseEscrow d.val)

end Sys2Proof.Machine
end

