-- ==== Sys2Proof/Machine/Sync.lean ====
section
/-! DEFINITION. Barriers and tickets (18_tables R312-R317). -/

namespace Sys2Proof.Machine

/-! ### Barriers -/

/-- The package offset of barrier entry `i` of a partition (R312). -/
def State.barAt (s : State) (p i : Nat) : Nat := bits (s.partWord p 3) 12 44 * 2 ^ 12 % 2 ^ 43 + 16 * i
/-- Word `w` of a barrier entry, read at its port (R302). -/
def State.barWord (s : State) (p i w : Nat) : Nat := s.num (s.barAt p i + 8 * w) 8
/-- Whether a handle is valid in a partition (R312, R314). -/
def State.barValid (s : State) (p : Nat) (h : Word) : Bool :=
  let w := s.barWord p (h.toNat % 4096) 0
  decide (h.toNat < 2 ^ 32) && bits w 63 1 == 1 && bits w 0 20 == bits h.toNat 12 20
/-- ROUND of a handle's entry. -/
def State.barRound (s : State) (p : Nat) (h : Word) : BitVec 16 := BitVec.ofNat 16 (s.barWord p (h.toNat % 4096) 1 / 2 ^ 16)
/-- Valid(h) for the executing thread (R314). -/
def State.needBar (s : State) (h : Word) : Act Unit := check (s.barValid s.me.part.val h) .bargen h
/-- The checks that come before a barrier instruction other than `barwait` (R314, 08_slots R365). -/
def State.barOutside (s : State) (word : Nat) : Act Unit := do
  s.tenantOnly word
  check (!s.me.evo) .mbox 16
/-- An arrival, in one step with the completion of the round (R314). -/
def State.barArrive (s : State) (p : Nat) (h : Word) : State :=
  let i := h.toNat % 4096
  let w1 := s.barWord p i 1
  let arr := bits w1 0 16 + 1
  let q := s.barAt p i + 8
  if arr = bits (s.barWord p i 0) 32 16 then s.commitAt q (toBytes 4 ((bits w1 16 16 + 1) % 2 ^ 16 * 2 ^ 16))
  else s.commitAt q (toBytes 2 arr)
/-- `barnew` (R314). -/
def execBarnew (d a : XReg) (s : State) : Out :=
  seq s (do
    s.barOutside (wordBarnew d a)
    let n := (s.x a).toNat
    let p := s.me.part.val
    .ok (match (if 1 ≤ n ∧ n ≤ 15360 then (List.range 4096).find? fun i => bits (s.barWord p i 0) 63 1 == 0 else none) with
      | none => s.setX d 0
      | some i =>
        let old := bits (s.barWord p i 0) 0 20
        let gen := if old = 2 ^ 20 - 1 then 1 else old + 1
        let q := s.barAt p i
        ((s.commitWord q (BitVec.ofNat 64 (gen + n * 2 ^ 32 + 2 ^ 63))).commitWord (q + 8) (BitVec.ofNat 64 (s.me.popid.toNat * 2 ^ 32))).setX d
          (BitVec.ofNat 64 (gen * 4096 + i))))
/-- `bararr`: the fence, then the arrival (R314). -/
def execBararr (d a : XReg) (s : State) : Out :=
  seq s (do
    s.barOutside (wordBararr d a)
    s.needBar (s.x a)
    let t ← s.fence 2
    .ok ((t.barArrive s.me.part.val (s.x a)).setX d ((s.barRound s.me.part.val (s.x a)).setWidth 64)))
/-- `barwait` (R314). -/
def execBarwait (a : XReg) (b : OpB) (s : State) : Out :=
  seq s (do
    s.tenantOnly (wordBarwait a b)
    s.needBar (s.x a)
    let r := (← s.opB b).setWidth 16
    if s.barRound s.me.part.val (s.x a) = r then waitFor s (.barrier (s.x a) r) else .ok s)
/-- `bararw`: the arrival, once, and the wait for its round (R314, 08_slots R139). -/
def execBararw (d a : XReg) (s : State) : Out :=
  let h := s.x a
  let p := s.me.part.val
  let again (s : State) (r : BitVec 16) : Act State :=
    if s.barRound p h = r then waitFor (s.modMe fun t => { t with prog := .joined r }) (.barrier h r) else .ok (s.setX d (r.setWidth 64))
  seq s (do
    s.barOutside (wordBararw d a)
    s.needBar h
    match s.me.prog with
    | .joined r => again s r
    | _ =>
      let t ← s.fence 2
      again (t.barArrive p h) (s.barRound p h))
/-- An entry is freed, and keeps its other fields (R314). -/
def State.freeBar (s : State) (p i : Nat) : State :=
  s.commitWord (s.barAt p i) (BitVec.ofNat 64 (s.barWord p i 0 % 2 ^ 63))
/-- `barfree` (R314). -/
def execBarfree (a : XReg) (s : State) : Out :=
  seq s (do
    s.barOutside (wordBarfree a)
    s.needBar (s.x a)
    .ok (s.freeBar s.me.part.val ((s.x a).toNat % 4096)))

/-! ### Tickets -/

/-- The package offset of ticket entry `i` of a partition; none beyond the table (R303, R315). -/
def State.ticketAt (s : State) (p i : Nat) : Option Nat :=
  let w := s.partWord p 4
  if i < 2 ^ min 12 (w % 16) then some (bits w 12 44 * 2 ^ 12 % 2 ^ 43 + 32 * i) else none
/-- A write of the device to a word at a device address: here, or to another package without an acknowledgement that an
agent waits for (R315, 09_memories R175). -/
def State.deviceWrite (s : State) (part : Part) (da : Nat) (v : Nat) : State :=
  if da / 2 ^ 43 = s.pkg then s.portWrite (da % 2 ^ 43) (toBytes 8 v)
  else match s.route (da / 2 ^ 43) with
    | none => s
    | some n =>
      let p : Packet := { target := BitVec.ofNat 56 da, kind := 0, core := 0, part, dom := none, fn := 0,
                          tag := BitVec.ofNat 64 (s.nextTag.toNat % 2 ^ 61), data := toBytes 8 v, isEnd := false, more := false }
      { s.modPort n (fun k => { k with txq := k.txq ++ [p] }) with nextTag := s.nextTag + 1 }
/-- Where entry `i` of the return ring of a ticket entry lies: its device address (R315). -/
def returnAt (w1 i : Nat) : Nat := bits w1 12 44 * 2 ^ 12 + 8 * (i % 2 ^ min 16 (bits w1 0 5))
/-- The word of a return ring at a device address. DESIGN CHOICE: no load reaches another package, so what the port finds in a ring there
is free (notes/assumptions/77). -/
def State.returnWord (s : State) (da : Nat) : Nat :=
  if da / 2 ^ 43 = s.pkg then s.num (da % 2 ^ 43) 8 else (Config.freeWord (s.choice (2 ^ 62 + da))).toNat % 2 ^ 56
/-- What becomes of a request at a ticket entry's port. -/
inductive TicketFate where
  | taken (s : State)
  | refused (at_ : Nat)
  | withheld
/-- A `tkget` at the entry's port (R317). -/
def State.takeTicket (s : State) (r : TicketIn) : TicketFate :=
  match s.ticketAt r.part.val r.idx.toNat with
  | none => .refused r.idx.toNat
  | some q =>
    let w0 := s.num q 8
    let w1 := s.num (q + 8) 8
    let next := w0 % 2 ^ 32
    let call := w0 / 2 ^ 32
    let log := min 16 (bits w1 0 5)
    if bits w1 63 1 = 0 then .refused q
    else if (next + 2 ^ 32 - call) % 2 ^ 32 = 2 ^ log then .withheld
    else
      let t := s.commitAt q (toBytes 4 (next + 1))
      if next < call then .taken (t.deviceWrite r.part r.word (next + 2 ^ 62 + 2 ^ 63))
      else .taken ((t.deviceWrite r.part (returnAt w1 next) r.word).deviceWrite r.part r.word (next + 2 ^ 62))
/-- Who hears that a request was accepted, and who that it was refused (10_access R181). -/
def State.ticketAck (s : State) (t : Ticket) : State :=
  match t.by_ with
  | some b => s.pulse b.pop
  | none => s.answer t.req.pkg 2 t.req.tag
/-- A request is refused: FABERR at the thread's core, or the answer to its package (R317, 10_access R181). -/
def State.ticketRefuse (s : State) (t : Ticket) (q : Nat) : State :=
  match t.by_ with
  | some b => (s.faberr b.place.core.val b.pop (BitVec.ofNat 64 (s.pkg * 2 ^ 43 + q))).modThread b.place b.pop fun t => { t with refused := t.refused + 1 }
  | none => s.answer t.req.pkg 3 t.req.tag
/-- A request reaches the port; one that finds no place waits for it, behind earlier ones of its entry (R317). -/
def State.ticketRequest (s : State) (t : Ticket) : State :=
  let wait : State := { s with tickets := s.tickets ++ [t] }
  if s.tickets.any fun e => e.req.part == t.req.part && e.req.idx == t.req.idx then wait
  else match s.takeTicket t.req with
    | .taken u => u.ticketAck t
    | .refused q => s.ticketRefuse t q
    | .withheld => wait
/-- The withheld requests are offered again, in order (R317). -/
def State.retryTickets (s : State) : State :=
  s.tickets.foldl (fun (t : State) e => t.ticketRequest e) { s with tickets := [] }
/-- A `tkdone` at the entry's port: CALL rises, each newly called number's word is written in rising order, and withheld
requests may find a place (R317). -/
def State.ticketAdvance (s : State) (t : Ticket) : State :=
  match s.ticketAt t.req.part.val t.req.idx.toNat with
  | none => s.ticketRefuse t t.req.idx.toNat
  | some q =>
    let w0 := s.num q 8
    let w1 := s.num (q + 8) 8
    let next := w0 % 2 ^ 32
    let call := w0 / 2 ^ 32
    let call' := (call + t.req.adv.toNat) % 2 ^ 32
    if bits w1 63 1 = 0 then s.ticketRefuse t q
    else
      let u := (s.commitAt (q + 4) (toBytes 4 call')).ticketAck t
      ((List.range (min call' next - call)).foldl (fun (u : State) i =>
        let n := call + i
        u.deviceWrite t.req.part (u.returnWord (returnAt w1 n)) (n + 2 ^ 62 + 2 ^ 63)) u).retryTickets
/-- TICKET_REQUEST: a request of another package at the port (R317, 23_system R354). -/
def execTicketRequest (r : TicketIn) (s : State) : Out := .next (if s.boot.recovery then s else s.ticketRequest { req := r, by_ := none })
/-- TICKET_ADVANCE: an advance of another package at the port (R317, 23_system R354). -/
def execTicketAdvance (r : TicketIn) (s : State) : Out := .next (if s.boot.recovery then s else s.ticketAdvance { req := r, by_ := none })
/-- The descriptor's check, and that no event is open (R316). -/
def State.ticketCheck (s : State) (d : Word) : Act Unit := checkValue (d.toNat < 2 ^ 29 ∧ bits d.toNat 12 4 = 0) .prot d
/-- A request of the executing thread, to this package's port or to another's (R316; notes/assumptions/25). -/
def State.sendTicket (s : State) (d : Word) (fn word : Nat) (adv : BitVec 16) (f : State → Ticket → State) : State :=
  let idx := d.toNat % 4096
  let pkg := bits d.toNat 16 13
  if pkg = s.pkg then
    f s { req := { pkg := BitVec.ofNat 13 pkg, core := s.cur.core, part := s.me.part, idx := BitVec.ofNat 12 idx, word, adv, tag := 0 },
          by_ := some s.issuer }
  else s.sendFabric s.issuer (pkg * 2 ^ 43 + idx) 1 fn (toBytes 8 (if fn = 29 then word else adv.toNat)) false false false false
/-- `tkget` (R316). -/
def execTkget (a b : XReg) (s : State) : Out :=
  seq s (do
    s.tenantOnly (wordTkget a b)
    s.ticketCheck (s.x a)
    let w := s.x b
    let da ← s.translate w .w 8
    check (da / 2 ^ 43 = s.pkg) .prot w
    check (!s.me.evo) .mbox 16
    let q := da % 2 ^ 43
    let t : State := { s.touch w with ticketWords := if s.ticketWords.contains q then s.ticketWords else s.ticketWords ++ [q] }
    .ok (t.sendTicket (s.x a) 29 da 0 State.ticketRequest))
/-- `tkdone` (R316). -/
def execTkdone (a : XReg) (b : OpB) (s : State) : Out :=
  seq s (do
    s.tenantOnly (wordTkdone a b)
    s.ticketCheck (s.x a)
    check (!s.me.evo) .mbox 16
    let v ← s.opB b
    checkValue (1 ≤ v.toNat ∧ v.toNat ≤ 65535) .prot v
    .ok (s.sendTicket (s.x a) 30 0 (v.setWidth 16) State.ticketAdvance))
/-- `tkwait` (R316). -/
def execTkwait (d a : XReg) (s : State) : Out :=
  seq s (do
    let da ← s.translate (s.x a) .r 8
    s.touchable (s.x a) da 8 true
    let q := da % 2 ^ 43
    let v := BitVec.ofNat 64 (ofBytes (s.portBytes q 8))
    let t := s.touch (s.x a)
    if v.getLsbD 63 then
      .ok (({ t with ticketWords := t.ticketWords.filter (· != q) } : State).setX d v)
    else waitFor t (.ticket q))
/-- `fdrain` (R316). -/
def execFdrain (d : XReg) (s : State) : Out :=
  seq s (if s.outstandingAt s.cur then waitFor s .acked
         else .ok ((s.modMe fun t => { t with refused := 0 }).setX d (BitVec.ofNat 64 s.me.refused)))

end Sys2Proof.Machine
end

