-- ==== Sys2Proof/Machine/Slots.lean ====
section
/-! DEFINITION. Slots between instructions: the end of a trap record, waking, trap delivery, bank locks, rotation and
relocation (08_slots R134-R154). -/

namespace Sys2Proof.Machine

/-! ### The end of a trap record -/

/-- CAUSE, SUB, SLOT and ASYNC of a TCAUSE word (04_registers R78). -/
abbrev causeOf (w : Word) : Nat := w.toNat % 256
/-- SLOT. -/
abbrev slotOf (w : Word) : SlotId := Fin.ofNat 16 (w.toNat / 65536)
/-- ASYNC. -/
abbrev asyncOf (w : Word) : Bool := w.getLsbD 20
/-- The status that a completion record will carry, the first that applies of RESET 3, FAULT 2, HALTED 1 and DONE 0, with
CAUSE and TVAL of the record that decides it (14_queues R258). -/
def State.decide_ (s : State) (pop : BitVec 32) (status cause : Nat) (tval : Word) : State :=
  s.modPop pop fun p =>
    if p.status.toNat < status then { p with status := BitVec.ofNat 8 status, cause := BitVec.ofNat 8 cause, tval } else p
/-- Whether a thread stands at a boundary or at a stop point, with no rollback to come and no access that a bank released to complete
(08_slots R140, R141, R149, R153). -/
def Slot.atBoundary (t : Slot) : Bool :=
  t.pending.isNone && t.antiOut == 0 && !t.released &&
    (match t.state with
     | .free | .done | .held | .ready => true
     | .wait => (match t.mint with | some m => m.stage == .walking || m.stage == .admitting | none => true)
     | _ => false)
/-- A thread that is to stop: at once where it stands at a boundary or is parked, whose record is then dropped; else at its
next boundary, which for one in TRANSIT is the one at which its context is whole (08_slots R146). -/
def State.stopSoon (s : State) (p : Place) : State :=
  let t := s.slotAt p
  if t.state == .free || t.state == .done || (t.state == .transit && t.into.isNone) then s
  else if (t.atBoundary && !s.stopLocked p) || (t.state == .parked && t.pending.isNone) then
    (s.modCore p.core.val fun k => { k with records := k.records.filter fun r => r.slot != p.slot || r.async && p.slot.val == 15 }).stopThread p
  else s.modSlot p fun t => { t with stopping := true }
/-- Every thread of a population stops at its next boundary, those out of their slots and those that migrate with them, but for what
the slot at `but` holds (08_slots R146, 21_prog_preempt R349). -/
def State.stopPop (s : State) (pop : BitVec 32) (but : Option Place := none) : State :=
  let here := (s.cores.flatMap fun c => (tenantSlots.filter fun i => c.2.slots[i.val].popid == pop).map fun i =>
    ({ core := Fin.ofNat 1024 c.1, slot := i } : Place)).filter fun p => some p != but
  let t := here.foldl (fun (t : State) p => t.stopSoon p) s
  let t := t.modPop pop fun p => { p with away := p.away.map fun a => { a with slot := { a.slot with stopping := true } } }
  { t with net := t.net.map fun e => match e with
      | .migrate d c => if c.slot.popid == pop then .migrate d { c with slot := { c.slot with stopping := true } } else e
      | e => e }
/-- Whether the record of the thread in the slot at `p` waits in the core's queue (08_slots R144). -/
def State.queued (s : State) (p : Place) : Bool := (s.core p.core.val).records.any fun e => e.slot == p.slot && !(e.async && p.slot.val == 15)
/-- What `sret` with `cr` does with a record of a thread of population `pop` in the slot that the record names: the thread is there
where the slot is PARKED with that record delivered; elsewhere nothing changes in the slot, which is reserved no longer
(R146, R134, 21_prog_preempt R349; notes/assumptions/27). -/
def State.endRecord (s : State) (p : Place) (cr : Nat) (r : TrapRegs) (pop : BitVec 32) : State :=
  let q := s.slotAt p
  let c := causeOf r.tcause
  if q.reserved || q.state != .parked || s.queued p then
    let s := s.modSlot p fun t => { t with reserved := false }
    match cr with
    | 0 => s
    | 1 => s.decide_ pop 1 c r.tval
    | _ => (s.decide_ pop 2 c r.tval).stopPop pop (some p)
  else
    let s := s.modSlot p fun t => { t with evicting := false, trapped := none }
    match cr with
    | 0 =>
      if q.pending.isSome then s.undoTo p .stalled
      else s.modSlot p fun t =>
        let t := { t with pc := r.tpc, opt := r.tts.getLsbD 0, state := .ready }
        if c = Cause.syscall.code.toNat then t.setX 0 r.tval else t
    | 1 => (s.decide_ q.popid 1 c r.tval).haltThread p
    | _ => (((s.decide_ q.popid 2 c r.tval).modSlot p fun t => { t with pending := none }).stopThread p).stopPop q.popid
/-- The population of the record that the core is handling, where it is one of slot `i` (R144). -/
def Core.handled (k : Core) (i : SlotId) : BitVec 32 := match k.current with | some r => if r.slot == i then r.pop else 0 | none => 0
/-- `sret` in its three forms (R146). -/
def sretMeaning (word cr : Nat) (s : State) : Out :=
  finish s (do
    s.supOnly word
    let r := s.myCore.trap
    let c := causeOf r.tcause
    if c ≠ 0 ∧ (slotOf r.tcause).val = 15 ∧ !asyncOf r.tcause then
      let saved := s.myCore.hidden.getD { tcause := 0, tval := 0, tpc := 0, tts := 0 }
      .ok ((s.advance r.tpc).modMyCore fun k => { k with trap := saved, hidden := none })
    else
      let t := if c ≠ 0 ∧ (slotOf r.tcause).val ≠ 15 then s.endRecord { core := s.cur.core, slot := slotOf r.tcause } cr r (s.myCore.handled (slotOf r.tcause)) else s
      let entry := s.me.pc + 4
      .ok ((t.modMyCore fun k => { k with trap := { k.trap with tcause := 0 }, entry, current := none }).modMe fun q =>
        { q with pc := entry, state := .wait, wait := some .trapRecord, prog := .none }))
/-- `sret` (R146). -/
def execSret (s : State) : Out := sretMeaning wordSret 0 s
/-- `sret.halt` (R146). -/
def execSretHalt (s : State) : Out := sretMeaning wordSretHalt 1 s
/-- `sret.abort` (R146). -/
def execSretAbort (s : State) : Out := sretMeaning wordSretAbort 2 s

/-! ### Waking and trap delivery -/

/-- Whether the wait of the slot at `p` can end (R139). -/
def State.holds (s : State) (p : Place) (w : Cond) : Bool :=
  let c := p.core.val
  let k := s.core c
  let t := s.slotAt p
  let d := s.die (dieOf c)
  match w with
  | .regs n => k.granted p.slot n
  | .phaseOver pop gen => (match s.pop? pop with | some q => q.phase != gen | none => true)
  | .word q old => t.waitrEnds q (BitVec.ofNat 64 (ofBytes (s.portBytes q 8))) old
  | .tile h want => s.tileWant c h.val want || !(s.tile c h.val).v
  | .queue q => k.queueRoom q
  | .weights ws => s.weightsFree p.core t.popid ws
  | .allowance => t.prog == .granted
  | .message set => s.candidates c (mbSet set) != []
  | .gvtAbove v => v.ult d.gvt
  | .escrowEmpty => !s.ownsEscrow p t.popid
  | .logSpace l n => s.hasSpace c l n || (t.evo && t.lvt == d.gvt)
  | .checkpoint set => s.hasSpace c .undo 11 || (s.select c (mbSet set)).any fun g => g.2.2.vrt == d.gvt.toNat
  | .barrier h r => !s.barValid t.part.val h || s.barRound t.part.val h != r
  | .ticket q => ((s.portBytes q 8).getD 7 0).getLsbD 7
  | .acked => !s.outstandingAt p
  | .sent scope => !s.travelling p scope
  | .undoEmpty => k.undo == []
  | .sentEmpty => k.sent == []
  | .spillEmpty => k.spill == []
  | .xinvIdle => !d.xbusy
  | .rotIdle => k.rotLeft == 0
  | .relocIdle => !k.relocBusy
  | .mintFree => decide (s.mintRuns (dieOf c) < 16)
  | .zoneDone z => k.zones[z.val].state != 2 || !k.zones[z.val].v
  | .flags q => !s.flagsOut q
  | .stored => !s.storing p
  | .replayRoom q => decide ((s.port q.val).replay.length < 512)
  | .mintRun | .trapRecord | .bank _ _ => false
/-- A slot whose context is whole leaves TRANSIT, no sooner than its die's TSC allows: for READY, where a thread that is to stop stops, a
boundary trap that waits is taken and a rollback that is pending holds it, or for HELD, where a thread whose events are final is DONE
(R134, R138, R141, R146, 15_messages R283, 20_counters R332). -/
def State.leaveTransit (s : State) (p : Place) (st : SlotState) : State :=
  let t := s.slotAt p
  let d := s.die (dieOf p.core.val)
  if d.tsc.ult t.seen || (s.core p.core.val).relocIn then s
  else
    let u := s.modSlot p fun t => { t with state := st, into := none }
    if t.stopping && t.pending.isNone then u.stopThread p
    else if st == .ready then (u.takeIntr p).modSlot p Slot.holdBack
    else if st == .held && t.pending.isNone && t.antiOut == 0 && t.lvt.ult d.gvt then u.becomeDone p
    else u
/-- WAIT_WAKE: a waiting slot whose condition holds becomes READY at its waiting instruction, and so does one STALLED on what an earlier
instruction has still to bring; a slot in TRANSIT whose context is whole leaves it (R134, R139, 02_encoding R47). -/
def execWaitWake (c : CoreId) (sl : SlotId) (s : State) : Out :=
  let p : Place := { core := c, slot := sl }
  let t := s.slotAt p
  let wake (w : Cond) : State :=
    if t.pending.isNone && t.antiOut == 0 && s.holds p w then s.modSlot p fun t => { t with state := .ready, wait := none } else s
  .next (match t.state, t.wait with
    | .wait, some w => wake w
    | .stalled, some (.flags q) => wake (.flags q)
    | .stalled, some (.replayRoom q) => wake (.replayRoom q)
    | .transit, _ => (match t.into with | some st => s.leaveTransit p st | none => s)
    | _, _ => s)
/-- TRAP_DELIVERY: slot 15, which waits for one, takes the oldest record (R144). -/
def execTrapDelivery (c : CoreId) (s : State) : Out :=
  let k := s.core c.val
  .next (match k.records with
    | r :: rest =>
      if k.slots[15].state == .wait && k.slots[15].wait == some .trapRecord then
        s.modCore c.val fun k =>
          { k.modSlot 15 (fun t => { t with state := .ready, wait := none, pc := k.entry }) with
            trap := r.regs, current := some r, records := rest }
      else s
    | [] => s)

/-! ### Bank locks -/

/-- BANK_LOCK_STORE: a supervisor's store to BLOCK (R140). -/
def execBankLockStore (c : CoreId) (mask : BitVec 16) (s : State) : Out := .next (s.storeLock c.val mask)
/-- BANK_LOCK_TIMEOUT: the locks whose stores are 256 cycles old are released, and LOCKTIME names their banks (R140). -/
def execBankLockTimeout (c : CoreId) (s : State) : Out :=
  let k := s.core c.val
  let m := (List.range 16).foldl (fun (m : Nat) b =>
    if k.lock.getLsbD b && decide (SMap.get k.cycle k.lockAt b + 256 ≤ k.cycle) then m + 2 ^ b else m) 0
  .next (if m = 0 then s else (s.release c.val (BitVec.ofNat 16 m)).raiseEvent c.val .locktime 0 (BitVec.ofNat 64 m))

/-! ### Save frames -/

/-- The first 256 bytes of a save frame, with the state at save (R150). -/
def Slot.frame (t : Slot) (code : Nat) : List Byte :=
  (t.x.toList.flatMap fun v => toBytes 8 v.toNat) ++
  ([t.pc.toNat, t.ts.toNat, t.lvt.toNat, t.evid.toNat, t.frm.toNat, t.fflags.toNat, t.prvb.toNat, t.prvl.toNat, t.evsb.toNat, t.evsl.toNat,
    t.p.toNat + 2 ^ 8 * t.vcnt + 2 ^ 16 * code + 2 ^ 63, t.popid.toNat + 2 ^ 32 * t.thidx.toNat].flatMap (toBytes 8)) ++
  (t.m.toList.tail.flatMap fun v => toBytes 4 v.toNat) ++ toBytes 4 0
/-- The vector registers of a save frame (R150). -/
def Slot.vectorBytes (t : Slot) : List Byte := t.v.flatMap fun v => toBytes 128 v.toNat
/-- Bytes `o` to `o + n − 1` of a list, as a number. -/
def at_ (bs : List Byte) (o n : Nat) : Nat := ofBytes ((bs.drop o).take n)
/-- VCNT of a save frame (R150). -/
def frameVcnt (bs : List Byte) : Nat := bits (at_ bs 0xD0 8) 8 7
/-- The context that a save frame and its vector registers hold, in the slot `t`, whose other fields stay, with the flags that came for
the thread meanwhile; it is in TRANSIT until it is whole (R134, R150, 10_access R183). -/
def Slot.restore (t : Slot) (bs vs : List Byte) : Slot :=
  let w (o : Nat) : Nat := at_ bs o 8
  let d := w 0xD0
  { t with
    state := .transit, into := some (if bits d 16 3 = SlotState.held.code then .held else .ready)
    x := Vector.ofFn fun i => BitVec.ofNat 64 (w (8 * i.val))
    p := BitVec.ofNat 8 (d / 2 * 2 + 1)
    m := Vector.ofFn fun i => if i.val = 0 then 0 else BitVec.ofNat 32 (at_ bs (0xDC + 4 * i.val) 4)
    v := (List.range (frameVcnt bs)).map fun i => BitVec.ofNat 1024 (at_ vs (128 * i) 128)
    pc := BitVec.ofNat 64 (w 0x80 / 4 * 4)
    opt := (w 0x88).testBit 0, evo := (w 0x88).testBit 1, prot := (w 0x88).testBit 2, part := Fin.ofNat 8 (w 0x88 / 16)
    lvt := BitVec.ofNat 48 (w 0x90), evid := BitVec.ofNat 32 (w 0x98), frm := BitVec.ofNat 3 (w 0xA0), fflags := t.fflags ||| BitVec.ofNat 5 (w 0xA8)
    prvb := BitVec.ofNat 64 (w 0xB0), prvl := BitVec.ofNat 64 (w 0xB8), evsb := BitVec.ofNat 64 (w 0xC0), evsl := BitVec.ofNat 64 (w 0xC8)
    popid := BitVec.ofNat 32 (w 0xD8), thidx := BitVec.ofNat 32 (w 0xD8 / 2 ^ 32) }
/-- What a thread keeps that no frame or image holds, as it leaves its slot at a time: no wait, no monitor, no allowance, no vector
registers (R139, R149, 20_counters R337), and no flags yet of those that are still to come (10_access R183). -/
def Slot.leave (t : Slot) (now : Word) : Slot :=
  { t.abandon with v := [], fflags := 0, monitor := none, res := 0, evicting := false, reserved := false, trapped := none, seen := now }
/-- The slot that a context is written into: what `old` kept of the thread, and its place's reservation (R149; 21_prog_preempt R349). -/
def State.arriveAt (s : State) (p : Place) (old : Slot) (bs vs : List Byte) : State :=
  s.modSlot p fun t => { (old.restore bs vs) with reserved := t.reserved }

/-! ### Rotation -/

/-- ROT_STORE: a supervisor's store to ROT, which waits while BUSY = 1; a core that exists no longer has no supervisor (R140, R149,
23_system R361). -/
def execRotStore (c : CoreId) (v : Word) (s : State) : Out :=
  .next (if (s.core c.val).absent || (s.core c.val).rotLeft != 0 then s else s.modCore c.val fun k => k.storeRot v)
/-- The frame of slot `i` of core `c` for a partition (R149, 18_tables R303). -/
def State.frameAt (s : State) (p : Part) (q : Place) : Nat :=
  (bits (s.partWord p.val 5) 12 44 * 2 ^ 12 + q.core.val * 0x21000 + q.slot.val * 0x2100) % 2 ^ 43
/-- The slot with no thread, which keeps its reservation (21_prog_preempt R349). -/
def Slot.freed (t : Slot) : Slot := { Slot.empty with reserved := t.reserved }
/-- Steps 3 and 4 of a rotation: the nibble, and the incoming frame (R149). -/
def State.rotateIn (s : State) (p : Place) : State :=
  let k := s.core p.core.val
  let s := s.modCore p.core.val fun k =>
    { (k.setPartOf p.slot (some k.rotPart)).modSlot p.slot Slot.freed with rotLeft := k.rotLeft &&& ~~~(BitVec.ofNat 15 (2 ^ p.slot.val)) }
  let f := s.frameAt k.rotPart p
  let bs := s.bytes f 0x100
  if !(at_ bs 0xD0 8).testBit 63 then s
  else
    let pop := BitVec.ofNat 32 (at_ bs 0xD8 8)
    let mine (a : Away) : Bool := a.place == p && a.slot.binding.isNone
    let old := (((s.pop? pop).bind fun q => q.away.find? mine).map Away.slot).getD Slot.empty
    (s.modPop pop fun q => { q with away := q.away.filter fun a => !mine a }).arriveAt p old bs (s.bytes (f + 0x100) (128 * frameVcnt bs))
/-- Steps 1 and 2 of a rotation: the outgoing context goes to its frame, or VALID = 0 where there is none, and the slot is in TRANSIT
(R149, R150). -/
def State.rotateOut (s : State) (p : Place) : State :=
  let q : Slot := s.slotAt p
  let t : State := match (s.core p.core.val).partOf p.slot with
    | none => s
    | some out =>
      let f := s.frameAt out p
      if q.state == .free || q.state == .done then
        s.commitWord (f + 0xD0) (BitVec.ofNat 64 (s.num (f + 0xD0) 8 % 2 ^ 63))
      else
        let t := (s.commitAt f (q.frame q.state.code)).commitAt (f + 0x100) q.vectorBytes
        let t := (t.returnRes p).abandon p
        t.modPop q.popid fun o => { o with away := o.away ++ [{ place := p, slot := q.leave (s.die (dieOf p.core.val)).tsc }] }
  t.modSlot p fun t => { t.freed with state := .transit, evicting := true }
/-- The first cycle that slot `i` owns after the store to ROT (R149). -/
def Core.rotFrom (k : Core) (i : SlotId) : Nat := k.rotAt + (i.val + 16 - k.rotAt % 16) % 16
/-- The vector registers that the incoming frame of a slot needs (R149; notes/assumptions/28). -/
def State.rotationNeed (s : State) (p : Place) : Nat :=
  let bs := s.bytes (s.frameAt (s.core p.core.val).rotPart p) 0x100
  if (at_ bs 0xD0 8).testBit 63 then frameVcnt bs else 0
/-- SLOT_ROTATION: a slot that is to rotate does so at its boundary, once the first cycle that it owns after the store has passed: the
outgoing context leaves, and then, in a later event, the incoming one is loaded. A protected context is parked for `ctxsave.evict`,
after which the rotation goes on (R149, R151). A slot that is reserved waits for its `sret` (21_prog_preempt R349). DESIGN CHOICE: a HELD
protected thread is parked too, with the instruction after its `halt` as TPC (notes/assumptions/78). -/
def execSlotRotation (c : CoreId) (sl : SlotId) (s : State) : Out :=
  let p : Place := { core := c, slot := sl }
  let k := s.core c.val
  let q := s.slotAt p
  .next (
    if k.absent || !k.rotLeft.getLsbD sl.val then s
    else if q.state == .transit && q.evicting then
      (if s.rotationNeed p ≤ k.freeVectors && !q.reserved then s.rotateIn p else s)
    else if k.cycle ≤ k.rotFrom sl || !q.atBoundary || q.intr.isSome || s.stopLocked p then s
    else if q.state == .free || q.state == .done || !q.prot then (if q.reserved then s else s.rotateOut p)
    else if s.flagsOut p then s
    else (s.modSlot p fun t => { t with evicting := true }).park p .intr 1 true 0 q.pc)

/-! ### Relocation -/

/-- RELOC_STORE: a supervisor's store to RELOC (R140, R153). DESIGN CHOICE: it waits while BUSY = 1, as a store to ROT does, which R140 says of
ROT alone (notes/assumptions/79). -/
def execRelocStore (c : CoreId) (v : Word) (s : State) : Out :=
  .next (if (s.core c.val).absent || (s.core c.val).relocBusy then s else s.storeReloc c.val v)
/-- A package offset in the vault of core `c`, in that of core `t`. -/
def moveVault (c t q : Nat) : Nat := if inVault q ∧ vaultCore q = c then vaultBase t + q % 2 ^ 24 else q
/-- The constant windows of a vault: the supervisor's, and one for each partition (09_memories R162). -/
def windowsOf (c : Nat) : List Nat := vaultBase c :: (List.range 8).map fun p => vaultBase c + 0xC000 + 0x800 * p
/-- The vault of core `c`, in that of core `t`, with k248, k250 and k254 of its nine windows rewritten; every line of it is written
(R153, 09_memories R162, 10_access R185). -/
def State.copyVault (s : State) (c t : Nat) : State :=
  let there (a : Nat) : Bool := decide (vaultBase t ≤ a ∧ a < vaultBase t + 2 ^ 24)
  let here (a : Nat) : Bool := decide (vaultBase c ≤ a ∧ a < vaultBase c + 2 ^ 24)
  let clear := (s.mem.filter fun e => there e.1).map fun e => (e.1, (0 : Byte))
  let copy := (s.mem.filter fun e => here e.1).map fun e => (moveVault c t e.1, e.2)
  let u := ((s.commit clear).commit copy).fireLines there
  let u : State := { u with poison := (u.poison.filter fun w => !there (8 * w)) ++ (s.poison.filter fun w => here (8 * w)).map fun w => moveVault c t (8 * w) / 8 }
  (windowsOf t).foldl (fun (u : State) q =>
    ((u.commitWord (q + 8 * 248) (BitVec.ofNat 64 t)).commitWord (q + 8 * 250) (BitVec.ofNat 64 (dieOf t))).commitWord (q + 8 * 254)
      (BitVec.ofNat 64 (s.pkg * 2 ^ 43 + vaultBase t))) u
/-- A thread of a core that moves, in TRANSIT from the boundary that it stands at, its monitor disarmed (R139, R153, 10_access R185). -/
def Slot.settle (t : Slot) : Slot :=
  { t.abandon with state := .transit, into := some (if t.state == .wait then .ready else t.state), monitor := none }
/-- A slot of TARGET after the move: without a thread that runs there is nothing left to write, and a reservation stays with the core
whose record made it (R153, 21_prog_preempt R349). -/
def Slot.landed (t : Slot) : Slot :=
  let t := { t with reserved := false }
  match t.into with
  | some SlotState.free => { t with state := .free, into := none }
  | some SlotState.done => { t with state := .done, into := none }
  | _ => t
/-- A thread's mailbox, as a stage's handler and as its OWNER, is one of core `t` where it was one of core `c` (R153, 15_messages R268,
R294). -/
def Slot.rehome (c t : CoreId) (q : Slot) : Slot :=
  { q with stage := q.stage.map fun e => if e.1 = c then (t, e.2) else e
           owned := q.owned.map fun e => if e.1 = c then (t, e.2) else e }
/-- Step 1 of a relocation: the tenant slots of core `c` enter TRANSIT, and those of TARGET take nothing else (R153). -/
def State.departCore (s : State) (c t : CoreId) : State :=
  let u := tenantSlots.foldl (fun (u : State) i => u.abandon { core := c, slot := i }) s
  let u := u.modCore c.val fun k => { tenantSlots.foldl (fun (k : Core) i => k.modSlot i Slot.settle) k with relocIn := true }
  u.modCore t.val fun k => tenantSlots.foldl (fun (k : Core) i => k.modSlot i fun q => { q with state := .transit, into := none }) k
/-- The places of a core's threads that relocate: those of a thread that is in its slot now, told by its population (R153). -/
def Core.moves (k : Core) (c t : CoreId) (pop : BitVec 32) (p : Place) : Place :=
  if p.core = c ∧ p.slot.val < 15 ∧ (k.slots[p.slot.val].into.all (· != .free)) ∧ k.slots[p.slot.val].popid = pop then { p with core := t } else p
/-- A buffered store or spill record that lies on core `on` after the threads `whos` have gone from core `c` to `t` (09_memories R364;
notes/assumptions/29). -/
def Entry.leave (whos : List Ident) (on c t : CoreId) (e : Entry) : Entry :=
  if e.inbound || !whos.contains e.who then e
  else if e.left = (if on = c then none else some c) then { e with left := if on = t then none else some t }
  else e
/-- What a core keeps for its threads goes with them; buffered stores and spill records stay on the core that made them, as TARGET's
held writes stay there (R153, 04_registers R79, 09_memories R169; notes/assumptions/29). -/
def State.moveCore (s : State) (c t : CoreId) : State :=
  let k := s.core c.val
  let arrived := (s.core t.val).mail
  let s := s.modCore t.val fun j =>
    { tenantSlots.foldl (fun (j : Core) i => j.modSlot i fun _ => k.slots[i.val].landed) j with
      partmap := k.partmap, ttb := k.ttb, mbt := k.mbt, ulogb := k.ulogb, ulogl := k.ulogl, slogb := k.slogb, slogl := k.slogl,
      undo := k.undo, undoAt := k.undoAt, sent := k.sent, sentAt := k.sentAt, antis := k.antis ++ j.antis,
      runList := k.runList.map (moveVault c.val t.val) ++ j.runList, captured := j.captured.filter fun e => !(inVault e.at_ && vaultCore e.at_ == t.val) }
  let s := (List.range 16).foldl (fun (s : State) mb =>
    let l := SMap.get [] k.mail mb ++ SMap.get [] arrived mb
    if l = [] then s else s.setBox t.val mb l) s
  let s := s.modCore c.val fun j =>
    { tenantSlots.foldl (fun (j : Core) i => j.modSlot i Slot.freed) j with
      partmap := 0, undo := [], sent := [], antis := [], runList := [], mail := [], grants := [] }
  let mv := k.moves c t
  let whos := (tenantSlots.filter fun i => k.slots[i.val].into.all (· != .free)).map fun i =>
    ({ pop := k.slots[i.val].popid, thidx := k.slots[i.val].thidx, slot := i } : Ident)
  let net : List Net := s.net.map fun e => match e with
    | .msg d m f n g => .msg d m f n (if g.ack == .none then { g with place := mv g.pop g.place } else g)
    | .taskDec q b l => .taskDec q { b with place := mv b.pop b.place } l
    | .migrate d g => .migrate d { g with slot := g.slot.rehome c t }
  { s with
    net, out := s.out.map fun (o : Outstanding) => { o with place := mv o.pop o.place, mint := o.mint.map (moveVault c.val t.val) }
    cores := s.cores.map fun e =>
      let left := Entry.leave whos (Fin.ofNat 1024 e.1) c t
      (e.1, { e.2 with slots := e.2.slots.map (Slot.rehome c t), buffer := e.2.buffer.map left, spill := e.2.spill.map fun b => (b.1, left b.2) })
    tasks := s.tasks.map (moveVault c.val t.val), works := s.works.map fun w => (moveVault c.val t.val w.1, w.2)
    tickets := s.tickets.map fun (o : Ticket) => { o with by_ := o.by_.map fun b => { b with place := mv b.pop b.place } }
    pops := s.pops.map fun (p : Pop) =>
      { p with arrived := p.arrived.map (mv p.id), cores := p.cores.map fun x => if x = c then t else x
               away := p.away.map fun a => { a with slot := a.slot.rehome c t } }
    dies := s.dies.map fun d => (d.1, { d.2 with escrow := d.2.escrow.map fun e => { e with owner := mv e.pop e.owner } }) }
/-- The tiles and the mailboxes of the vacated core hold nothing (R153). -/
def State.clearTables (s : State) (c : Nat) : State :=
  let u := (List.range 64).foldl (fun (u : State) h => if (u.tile c h).v then u.modTile c h fun e => { e with v := false } else u) s
  (List.range 16).foldl (fun (u : State) m => if u.mbValid c m then u.commitAt (u.mboxAt c m 0) [Memory.get u.mem (u.mboxAt c m 0) &&& 0x7F] else u) u
/-- The held writes of a core whose vault was written lie in its spill area as before (09_memories R170, R175). -/
def State.rewriteSpill (s : State) (c : Nat) : State :=
  (s.core c).spill.foldl (fun (u : State) e => u.commitAt (u.spillAt c e.1) e.2.record) s
/-- A weight slot that core `c` holds passes to core `t` of the same cluster; a core of another cluster leaves it (11_matrix R201;
notes/assumptions/29). -/
def State.moveWeights (s : State) (c t : CoreId) : State :=
  let d := dieOf c.val
  s.modCluster d (clusterOf c.val) fun cl => { cl with ws := cl.ws.map fun w =>
    match w.holder with
    | some (x, pop) => if x ≠ c then w else if clusterOf c.val = clusterOf t.val then { w with holder := some (t, pop) } else { w with holder := none }
    | none => w }
/-- Whether the tenant slots of a core can enter TRANSIT: each stands at a boundary, none is PARKED, no engine works for the core, no
bank that a stop needs is locked, and TARGET's slots are FREE and not reserved (R140, R153, 21_prog_preempt R349;
notes/assumptions/29). -/
def State.canDepart (s : State) (c t : CoreId) : Bool :=
  let k := s.core c.val
  (tenantSlots.all fun i => k.slots[i.val].atBoundary && !s.stopLocked { core := c, slot := i }) && k.rotLeft == 0 &&
  k.matrixQ == [] && k.copyQ == [] && k.decQ == [] && tenantSlots.all fun i => (s.core t.val).slots[i.val].state == .free && !(s.core t.val).slots[i.val].reserved
/-- RELOCATION_COMPLETE: the tenant slots of a core enter TRANSIT together, and then, in a later event, its threads, tables, messages and
vault are on TARGET; a TARGET that exists no longer refuses the relocation, and the threads go on where they are (R153, 23_system R361;
notes/assumptions/29). -/
def execRelocationComplete (c : CoreId) (s : State) : Out :=
  let k := s.core c.val
  let t : CoreId := Fin.ofNat 1024 k.relocTo.toNat
  .next (
    if !k.relocBusy then s
    else if (s.core t.val).absent then s.modCore c.val fun k => { k with relocErr := true, relocBusy := false, relocIn := false }
    else if !k.relocIn then (if s.canDepart c t then s.departCore c t else s)
    else
      let u := ((((s.copyVault c.val t.val).moveCore c t).moveWeights c t).clearTables c.val).rewriteSpill t.val
      u.modCore c.val fun k =>
        { k with fwdTo := k.relocTo, fwdV := true, fwdAt := (s.die (dieOf c.val)).tsc, relocBusy := false, relocIn := false })
/-- FWD_EXPIRY: 1 ms after the relocation (R154). -/
def execFwdExpiry (c : CoreId) (s : State) : Out :=
  let k := s.core c.val
  .next (if k.fwdV && decide (k.fwdAt.toNat + 1000000 ≤ (s.die (dieOf c.val)).tsc.toNat) then s.modCore c.val fun k => { k with fwdV := false } else s)

end Sys2Proof.Machine
end

