-- ==== Sys2Proof/Machine/Population.lean ====
section
/-! DEFINITION. A population as a whole: the end of a phase, and its finish (01_device R18, R19, 09_memories R172). -/

namespace Sys2Proof.Machine

/-! ### Phases -/

/-- The entries and records of a population on a core, in the order of their creation (09_memories R172). -/
def Core.entriesOf (k : Core) (pop : BitVec 32) : List Entry :=
  (k.spill.map Prod.snd ++ k.buffer).filter fun e => e.who.pop == pop
/-- An entry is applied to committed memory (09_memories R172). -/
def State.applyEntry (s : State) (e : Entry) : State := s.writeEntry e fun _ => false
/-- Every entry and record of a population is applied, by rising core and in the order of their creation, inbound writes last,
and is free (09_memories R172, R175). -/
def State.applyPhase (s : State) (pop : BitVec 32) : State :=
  let all := s.cores.flatMap fun c => c.2.entriesOf pop
  let t := ((all.filter fun e => !e.inbound) ++ all.filter Entry.inbound).foldl (fun (t : State) e => t.applyEntry e) s
  { t with cores := t.cores.map fun c => (c.1, { c.2 with
    buffer := c.2.buffer.filter fun e => e.who.pop != pop, spill := c.2.spill.filter fun e => e.2.who.pop != pop }) }
/-- The unhalted threads of a population, each with its place (01_device R18). -/
def State.threads (s : State) (p : Pop) : List (Place × Slot) :=
  (s.cores.flatMap fun c => (tenantSlots.filter fun i =>
      let t := c.2.slots[i.val]
      t.popid == p.id && t.state != .free && t.state != .done).map fun i =>
        (({ core := Fin.ofNat 1024 c.1, slot := i } : Place), c.2.slots[i.val])) ++
  p.away.map fun a => (a.place, a.slot)
/-- Whether a thread counts as arrived at the phase in progress (08_slots R138, R148, 10_access R187). -/
def Pop.has (p : Pop) (e : Place × Slot) : Bool := p.arrived.contains e.1 || e.2.state == .held || e.2.opt
/-- PHASE_COMPLETE: every member has arrived, one of them by `phase`; the stores are applied and the phase is over, and withheld writes
may find a record, for the phase that follows (R172, R175, 10_access R187). -/
def execPhaseComplete (pop : BitVec 32) (s : State) : Out :=
  .next (match s.pop? pop with
    | none => s
    | some p =>
      let ts := s.threads p
      if !(ts.all p.has) || !(ts.any fun e => p.arrived.contains e.1) then s
      else ((s.applyPhase pop).modPop pop fun q => { q with phase := q.phase + 1, arrived := [] }).retryWithheld)

/-! ### Finish -/

/-- Whether something that a population issued has still to be acknowledged or taken (01_device R18, 22_prog_exchange R352,
11_matrix R194). -/
def State.unsettled (s : State) (pop : BitVec 32) : Bool :=
  (s.out.any fun o => o.pop == pop) ||
  (s.tickets.any fun t => match t.by_ with | some b => b.pop == pop | none => false) ||
  (s.net.any fun e => match e with
    | .msg _ _ _ _ m => m.ack == .none && m.pop == pop
    | .taskDec _ b _ => b.pop == pop
    | .migrate _ c => c.slot.popid == pop) ||
  (s.dies.any fun d => d.2.escrow.any fun e => e.pop == pop) ||
  (s.cores.any fun c => c.2.copyQ.any fun q => q.by_.pop == pop &&
    (match q.work with | .copyOut _ pages _ _ => pages.any fun g => g.2 / 2 ^ 43 != s.pkg | _ => false))
/-- The slots of a population, each DONE, are FREE, with what their events had in the logs of the core (08_slots R134). -/
def Core.freeSlots (k : Core) (pop : BitVec 32) : Core :=
  let mine (e : Event) : Bool := e.slot.val < 15 && k.slots[e.slot.val].popid == pop && k.slots[e.slot.val].part == e.part
  { k with
    slots := k.slots.map fun t => if t.popid == pop && t.state == .done then t.freed else t
    undo := k.undo.filter fun u => !mine u.2.event, sent := k.sent.filter fun u => !mine u.2.by_ }
/-- The landing zones of a finished population are no longer armed; one in REWRITING ends first (13_graphs R248). -/
def Core.freeZones (k : Core) (pop : BitVec 32) : Core :=
  { k with zones := k.zones.map fun z => if z.owner == pop && z.state != 2 then { z with v := false } else z }
/-- The stages of a finished population start no more handlers (15_messages R294). -/
def State.endStages (s : State) (c : Nat) (pop : BitVec 32) : State :=
  (List.range 16).foldl (fun (t : State) m =>
    let w := t.mboxWord c m 2
    if bits w 0 1 = 1 ∧ w / 2 ^ 32 = pop.toNat then t.commitWord (t.mboxAt c m 2) (BitVec.ofNat 64 (w - 1)) else t) s
/-- The barriers that a finished population owns are freed (18_tables R314). -/
def State.endBarriers (s : State) (p : Part) (pop : BitVec 32) : State :=
  (List.range 4096).foldl (fun (t : State) i =>
    if (Memory.get t.mem (t.barAt p.val i + 7)).getLsbD 7 && t.barWord p.val i 1 / 2 ^ 32 == pop.toNat then t.freeBar p.val i else t) s
/-- The counts of messages and the contribution that a die brings to its domain's rounds go to another of its dies, or to what the I/O
dies keep of it, so that no sum changes (20_counters R333, R334; notes/assumptions/80). -/
def DomRound.takeCounts (k old : DomRound) : DomRound :=
  { k with sent := Vector.zipWith (· + ·) k.sent old.sent, rcvd := Vector.zipWith (· + ·) k.rcvd old.rcvd, low := min k.low old.low }
/-- The domain of a die is unassigned where no bound population is left on it, and the die takes part in no round of it
(04_registers R80, 20_counters R333). -/
def State.endDomain (s : State) (d : Nat) : State :=
  if s.pops.any fun p => p.dom.isSome && p.cores.any fun c => dieOf c.val == d then s
  else
    let old := s.die d
    let t := s.modDie d fun k => { k.setRound k.round.blank with domV := false, open_ := false }
    if !old.domV then t
    else match t.domDies old.dom with
      | i :: _ => t.modDie i fun k => k.setRound (k.round.takeCounts old.round)
      | [] => t.modDom old.dom fun r => r.takeCounts old.round
/-- What a population holds is given back, and it is gone (01_device R18, 20_counters R330, 11_matrix R194, R201). -/
def State.endPop (s : State) (p : Pop) : State :=
  let t : State := { s with
    pops := s.pops.filter fun q => q.id != p.id
    running := s.running.map fun e => (e.1, e.2.filter fun h => h.pop != some p.id)
    works := s.works.filter fun w => w.2 != p.id
    cores := s.cores.map fun c => (c.1, (c.2.freeSlots p.id).freeZones p.id) }
  let t := p.away.foldl (fun (t : State) a => t.letGo a.slot) t
  let t := t.modCore p.home.val fun k => { k with watch := k.watch.map fun e => if e.pop == p.id then { e with v := false } else e }
  let t := (t.cores.map Prod.fst).foldl (fun (t : State) c => (t.endStages c p.id).reap c) t
  let t := if p.dom.isSome then (p.cores.map fun c => dieOf c.val).foldl (fun (t : State) d => t.endDomain d) t else t
  (t.endBarriers p.part p.id).retryWithheld
/-- The completion record of a population, and its journal entry CLOSED (14_queues R258, R259). -/
def State.report (s : State) (p : Pop) : State :=
  (s.complete p.compl (p.status.toNat + 2 ^ 8 * p.cause.toNat + 2 ^ 16 * p.faberr.toNat) p.id.toNat p.tval.toNat p.failAt.toNat
    p.fails.toNat p.placed.toNat p.tag.toNat).journal p.journal.toNat p.ring.val 3 1 p.status.toNat 0 none
/-- POPULATION_FINISH: every thread has halted, every write is acknowledged, and no Escrow entry is left (01_device R18). -/
def execPopulationFinish (pop : BitVec 32) (s : State) : Out :=
  .next (match s.pop? pop with
    | none => s
    | some p => if s.threads p != [] || s.unsettled pop then s else ((s.applyPhase pop).report p).endPop p)

end Sys2Proof.Machine
end

