-- ==== Sys2Proof/Machine/Context.lean ====
section
/-! DEFINITION. Protected contexts: context keys, sealed images, saving and loading (20_counters R343-R347, 21_prog_preempt
R348-R350, 18_tables R322). -/

namespace Sys2Proof.Machine

/-! ### Context keys -/

/-- Context key entry `i` (18_tables R322). -/
def State.keyEntry (s : State) (i : Nat) : KeyEntry := SMap.get KeyEntry.reset s.keys i
/-- The state with entry `i` changed by `f`. -/
def State.modKey (s : State) (i : Nat) (f : KeyEntry → KeyEntry) : State :=
  { s with keys := SMap.set s.keys i (f (s.keyEntry i)) }
/-- The entry that CTXSC shows (04_registers R82). -/
def State.selectKey (s : State) (i : Nat) : State := s.modMyCore fun k => { k with keySel := BitVec.ofNat 10 i }
/-- The key index that X[xa] names: in range, and V = 1; else PROT, whose TVAL the spec does not state (R345;
notes/assumptions/30). -/
def State.keyIndex (s : State) (a : XReg) : Act Nat := do
  let i := (s.x a).toNat
  checkValue (i < 1024 ∧ (s.keyEntry i).v) .prot (Config.freeWord (s.choice 9))
  .ok i
/-- `ctxkey.new`: the lowest entry with V = 0, with a key that the root of trust draws (R345; notes/assumptions/5). -/
def execCtxkeyNew (d a : XReg) (s : State) : Out :=
  seq s (do
    s.supOnly (wordCtxkeyNew d a)
    let p := (s.x a).toNat
    checkValue (p < 8) .prot (Config.freeWord (s.choice 9))
    .ok (match (List.range 1024).find? fun i => !(s.keyEntry i).v with
      | none => s.setX d (BitVec.allOnes 64)
      | some i =>
        ((s.modKey i fun e => { e with key := Config.freeKey (s.choice 10), part := Fin.ofNat 8 p, v := true, live := false }).selectKey i).setX d
          (BitVec.ofNat 64 i)))
/-- `ctxkey.sel` (R345). -/
def execCtxkeySel (a : XReg) (s : State) : Out :=
  seq s (do
    s.supOnly (wordCtxkeySel a)
    let i ← s.keyIndex a
    .ok (s.selectKey i))
/-- `ctxkey.free` (R345). -/
def execCtxkeyFree (a : XReg) (s : State) : Out :=
  seq s (do
    s.supOnly (wordCtxkeyFree a)
    let i ← s.keyIndex a
    checkValue (!(s.keyEntry i).live) .prot (Config.freeWord (s.choice 9))
    .ok ((s.modKey i fun e => { e with v := false, key := 0 }).selectKey i))
/-- Whether a region length and base meet R343 (R345, R347). -/
def regionOk (base len : Nat) : Bool := len % 64 == 0 && decide (len ≤ 16384) && base % 64 == 0 && decide (0x10000 ≤ base)
/-- Whether a local-alias region lies in the banks of a partition (R345, 18_tables R304). -/
def State.regionIn (s : State) (c p base len : Nat) : Bool :=
  decide (base + len ≤ 2 ^ 24) &&
    (List.range ((base + len - 1) / 2 ^ 20 - base / 2 ^ 20 + 1)).all fun i => s.bankOf p (vaultBase c + (base / 2 ^ 20 + i) * 2 ^ 20)
/-- `ctxkey.bind` (R345). -/
def execCtxkeyBind (d a : XReg) (s : State) : Out :=
  seq s (do
    s.supOnly (wordCtxkeyBind d a)
    let sl : SlotId := Fin.ofNat 16 (s.x d).toNat
    let p : Place := { core := s.cur.core, slot := sl }
    let va := s.x a
    let da0 ← s.translate va .r 8
    let w0 ← s.load va da0 8 0
    let da1 ← s.translate (va + 8) .r 8
    let base ← s.load (va + 8) da1 8 1
    let i := bits w0 0 10
    let len := bits w0 32 16
    let e := s.keyEntry i
    let q := s.slotAt p
    check (w0 / 2 ^ 48 = 0 ∧ bits w0 10 22 = 0 ∧ regionOk base len ∧ base < 2 ^ 24 ∧ e.v ∧ sl.val ≠ 15 ∧ q.state = .parked ∧ !q.prot ∧ e.part = q.part ∧
      !e.live ∧ s.regionIn s.myId q.part.val base len) .prot (BitVec.ofNat 64 sl.val)
    let t := (s.touch va).modSlot p fun t => { t with prot := true, binding := some { key := BitVec.ofNat 10 i, base := BitVec.ofNat 64 base, len } }
    .ok ((t.modKey i fun e => { e with live := true }).selectKey i))

/-! ### Images -/

/-- The plaintext header of an image (R343). -/
def imageHeader (key part slot : Nat) (sc vcnt len base total : Nat) : List Byte :=
  toBytes 4 0x4B435458 ++ [1, 0, 0, 0] ++ toBytes 8 (key + 2 ^ 16 * part + 2 ^ 24 * slot) ++ toBytes 8 sc ++
  toBytes 8 (vcnt + 2 ^ 32 * len) ++ toBytes 8 base ++ toBytes 8 total ++ List.replicate 16 0
/-- The length of an image (R343). -/
def imageLen (vcnt len : Nat) : Nat := 64 + 256 + 128 * vcnt + len + 16
/-- The IV of an image, as a 96-bit number (R343). -/
def imageIv (key sc : Nat) : Nat := key * 2 ^ 64 + sc
/-- The record that `sret` would end for a parked slot: its own while that waits in the queue, else the one in the trap registers or in
the hidden save (21_prog_preempt R348). -/
def State.recordOf (s : State) (p : Place) : TrapRegs :=
  let k := s.core p.core.val
  let names (r : TrapRegs) : Bool := !(s.slotAt p).reserved && !s.queued p && causeOf r.tcause != 0 && slotOf r.tcause == p.slot
  if names k.trap then k.trap
  else match k.hidden with
    | some h => if names h then h else ((s.slotAt p).trapped.map TrapRec.regs).getD k.trap
    | none => ((s.slotAt p).trapped.map TrapRec.regs).getD k.trap
/-- The context that `sret` with `cr` = 0 would resume, with TS.PROT = 1 (21_prog_preempt R348). -/
def State.resumed (s : State) (p : Place) : Slot :=
  let r := s.recordOf p
  let t := s.slotAt p
  let t := { t with pc := r.tpc, opt := r.tts.getLsbD 0, evo := r.tts.getLsbD 1, part := Fin.ofNat 8 (r.tts.toNat / 16), prot := true }
  if causeOf r.tcause = Cause.syscall.code.toNat then t.setX 0 r.tval else t
/-- Bytes written over translated pages: of this package, committed; of another, as fabric writes of the executing thread (R346,
10_access R181). -/
def State.putPages (s : State) (pages : Pages) (va : Word) (bs : List Byte) : State :=
  (rangePieces pages va bs.length).foldl (fun (r : State × List Byte) p =>
    (if p.1 / 2 ^ 43 = s.pkg then r.1.portWrite (p.1 % 2 ^ 43) (r.2.take p.2)
     else r.1.sendFabric s.issuer p.1 0 0 (r.2.take p.2) false false false false, r.2.drop p.2)) (s, bs) |>.1
/-- The bytes of translated pages of this package, in words as a load reads them. -/
def State.getPages (s : State) (pages : Pages) (va : Word) (n : Nat) : List Byte :=
  (rangePieces pages va n).flatMap fun p => (List.range (p.2 / 8)).flatMap fun i => s.portBytes (p.1 % 2 ^ 43 + 8 * i) 8
/-- The checks of every page of an image (R346, R347, 10_access R177). DESIGN CHOICE: `ctxsave` into control space, whose blocks take
words and no image, traps PROT (notes/assumptions/81). -/
def State.touchImage (s : State) (pages : Pages) (va : Word) (n : Nat) (reads : Bool) : Act Unit :=
  (rangePieces pages va n).forM fun p => do
    check (reads || p.1 / 2 ^ 43 != s.pkg || !inCtl (p.1 % 2 ^ 43)) .prot va
    s.touchable va p.1 p.2 reads
/-- Entries and records of the thread at `p` whose lines lie in a region are applied, and their freed records may let a withheld write
in (21_prog_preempt R350, 09_memories R175). -/
def State.publishFor (s : State) (p : Place) (q n : Nat) : State := { ({ s with cur := p } : State).publish q n with cur := s.cur }
/-- The sealed image of the context of the slot at `p`, bound by `b`: header, ciphertext and tag (R343, R346, 21_prog_preempt R348). -/
def State.sealedImage (s : State) (p : Place) (b : Binding) : List Byte :=
  let e := s.keyEntry b.key.toNat
  let c := s.resumed p
  let head := imageHeader b.key.toNat e.part.val p.slot.val (e.sc + 1).toNat c.vcnt b.len b.base.toNat (imageLen c.vcnt b.len)
  let sealed_ := gcmSeal (keyNumber e.key) (imageIv b.key.toNat (e.sc + 1).toNat) head
    (c.frame SlotState.ready.code ++ c.vectorBytes ++ s.bytes (vaultBase p.core.val + b.base.toNat) b.len)
  head ++ sealed_.1 ++ sealed_.2
/-- The thread at `p`, whose image is whole, leaves its slot: the region is zero, LIVE is clear, and the slot is FREE and reserved, or,
in rotation, goes on with it (R346, 08_slots R134, R151, 21_prog_preempt R349, R350, 09_memories R364). -/
def State.evict (s : State) (p : Place) (b : Binding) : State :=
  let q := s.slotAt p
  let t := ((s.retireEntries p).commitAt (vaultBase p.core.val + b.base.toNat) (List.replicate b.len 0)).returnRes p
  let t := t.modKey b.key.toNat fun e => { e with live := false }
  let t := t.modPop q.popid fun o =>
    { o with away := o.away ++ [{ place := p, slot := { q.leave (s.die (dieOf p.core.val)).tsc with binding := some b } }] }
  t.modSlot p fun _ =>
    { Slot.empty with reserved := !q.evicting, evicting := q.evicting, state := if q.evicting then .transit else .free }
/-- `ctxsave` and `ctxsave.evict` (R346, 21_prog_preempt R348-R350); an image on another package is committed once its writes are
acknowledged, and only then does the instruction complete. The flags of the thread's earlier atomics are waited for (07_vector R117). -/
def saveContext (word : Nat) (evict : Bool) (d a : XReg) (s : State) : Out :=
  seq s (do
    s.supOnly word
    let sl : SlotId := Fin.ofNat 16 (s.x d).toNat
    let p : Place := { core := s.cur.core, slot := sl }
    let va := s.x a
    let q := s.slotAt p
    match q.binding with
    | none => trap .prot (BitVec.ofNat 64 sl.val)
    | some b => do
      check (sl.val ≠ 15 ∧ q.state = .parked ∧ q.prot) .prot (BitVec.ofNat 64 sl.val)
      let done (t : State) : State := if evict then (t.evict p b).retryWithheld else t.retryWithheld
      if s.me.prog = .sealed then .ok (done s) else
      check (va.toNat % 64 = 0) .align va
      needFlags s (s.flagsOut p) p
      let n := imageLen q.vcnt b.len
      let pages ← s.pages va .w n
      s.touchImage pages va n false
      let t := s.publishFor p (vaultBase s.myId + b.base.toNat) b.len
      t.touchable b.base (s.pkg * 2 ^ 43 + vaultBase s.myId + b.base.toNat) b.len true
      let t := t.modSlot p fun q => { q with monitor := none }
      let u := (t.putPages pages va (t.sealedImage p b)).modKey b.key.toNat fun e => { e with sc := e.sc + 1 }
      let u := u.touchPages va n
      if pages.all fun g => g.2 / 2 ^ 43 == s.pkg then .ok (done u)
      else waitFor (u.modMe fun q => { q with prog := .sealed }) .acked)
/-- `ctxsave` (R346). -/
def execCtxsave (d a : XReg) (s : State) : Out := saveContext (wordCtxsave d a) false d a s
/-- `ctxsave.evict` (R346, 08_slots R151). -/
def execCtxsaveEvict (d a : XReg) (s : State) : Out := saveContext (wordCtxsaveEvict d a) true d a s

/-- What the header of an image says (R343). -/
structure ImageHead where
  key  : Nat
  part : Nat
  sc   : Nat
  vcnt : Nat
  len  : Nat
  base : Nat
  deriving DecidableEq, Repr

/-- The header of an image, where it meets R343 (R347). -/
def imageHead (h : List Byte) : Option ImageHead :=
  let w (i : Nat) : Nat := at_ h (8 * i) 8
  let e : ImageHead := { key := bits (w 1) 0 10, part := bits (w 1) 16 3, sc := w 2, vcnt := bits (w 3) 0 7, len := bits (w 3) 32 16, base := w 4 }
  if w 0 = 0x4B435458 + 2 ^ 32 ∧ bits (w 1) 10 6 = 0 ∧ bits (w 1) 19 5 = 0 ∧ w 1 / 2 ^ 28 = 0 ∧ bits (w 3) 7 25 = 0 ∧ w 3 / 2 ^ 48 = 0 ∧
     e.vcnt % 16 = 0 ∧ e.vcnt ≤ 64 ∧ regionOk e.base e.len ∧ w 5 = imageLen e.vcnt e.len ∧ w 6 = 0 ∧ w 7 = 0
  then some e else none
/-- A loaded context in its slot, in TRANSIT until it is whole: what the thread kept while it was out goes with it (R347, 08_slots R134,
21_prog_preempt R349). -/
def State.placeImage (s : State) (p : Place) (e : ImageHead) (frame vs : List Byte) : State :=
  let pop := BitVec.ofNat 32 (at_ frame 0xD8 8)
  let mine (a : Away) : Bool := match a.slot.binding with | some b => b.key.toNat == e.key | none => false
  let away := (s.pop? pop).bind fun q => q.away.find? mine
  let b : Binding := { key := BitVec.ofNat 10 e.key, base := BitVec.ofNat 64 e.base, len := e.len }
  let t := s.modPop pop fun q => { q with away := q.away.filter fun a => !mine a }
  let t := match away with
    | some a => if a.place = p then t else t.movePlace pop a.place p
    | none => t
  let old := (away.map Away.slot).getD Slot.empty
  let t := t.modKey e.key fun k => { k with live := true }
  t.modSlot p fun q => { (old.restore frame vs) with prot := true, binding := some b, reserved := q.reserved }
/-- `ctxload` (R347). -/
def execCtxload (d a : XReg) (s : State) : Out :=
  seq s (do
    s.supOnly (wordCtxload d a)
    let sl : SlotId := Fin.ofNat 16 (s.x d).toNat
    let p : Place := { core := s.cur.core, slot := sl }
    let va := s.x a
    let da ← s.translate va .r 64
    s.touchable va da 64 true
    let h := (List.range 8).flatMap fun i => s.portBytes (da % 2 ^ 43 + 8 * i) 8
    check (sl.val ≠ 15 ∧ (s.slotAt p).state = .free ∧ s.myCore.partOf sl = some (Fin.ofNat 8 (bits (at_ h 8 8) 16 3))) .prot (BitVec.ofNat 64 sl.val)
    match imageHead h with
    | none => trap .tagfail va
    | some e => do
      let k := s.keyEntry e.key
      check (k.v ∧ k.part.val = e.part ∧ !k.live) .tagfail va
      check (k.sc.toNat = e.sc) .stale (BitVec.ofNat 64 e.sc)
      let n := imageLen e.vcnt e.len
      let pages ← s.pages va .r n
      s.touchImage pages va n true
      let body := (s.getPages pages va n).drop 64
      match gcmOpen (keyNumber k.key) (imageIv e.key e.sc) h (body.take (n - 80)) (body.drop (n - 80)) with
      | none => trap .tagfail va
      | some text => do
        let t := (s.touchPages va n).modMyCore fun c => c.request s.cur.slot e.vcnt
        if !t.myCore.granted s.cur.slot e.vcnt then waitFor t (.regs e.vcnt)
        else
          let u := t.modMyCore fun c => c.unrequest s.cur.slot
          let u := u.commitAt (vaultBase s.myId + e.base) (text.drop (256 + 128 * e.vcnt))
          .ok (u.placeImage p e (text.take 256) ((text.drop 256).take (128 * e.vcnt))))

end Sys2Proof.Machine
end

