-- ==== Sys2Proof/Machine/Reset.lean ====
section
/-! DEFINITION. Partition reset, the restart of a supervisor, and the forward ring (23_system R357-R359, 14_queues R265,
18_tables R322, R323). -/

namespace Sys2Proof.Machine

/-! ### The forward ring -/

/-- Where record `i` of the forward ring lies (R358). -/
def State.fwdRecord (s : State) (i : Nat) : Nat := bits s.fwrb.toNat 12 31 * 2 ^ 12 + 64 * (i % 2 ^ s.fwrlog.toNat)
/-- The valid records that the service OS has not finished with, and whose STATUS is 0 (R358). -/
def State.fwdPending (s : State) : List Nat :=
  ((List.range (min (s.fwrrsv - s.fwrdone).toNat (2 ^ s.fwrlog.toNat))).map fun i => s.fwrdone.toNat + i).filter fun i =>
    let q := s.fwdRecord i
    bits (s.num q 8) 63 1 == 1 && s.num (q + 0x30) 8 == 0
/-- The reply INTR for a record, at the supervisor of its core (R358, 08_slots R143). -/
def State.replyIntr (s : State) (i : Nat) : State :=
  s.raiseEvent (bits (s.num (s.fwdRecord i) 8) 0 10) .intr 2 (BitVec.ofNat 64 i)
/-- SYSCALL_DOORBELL: a supervisor's store of an index to the doorbell (R358). -/
def execSyscallDoorbell (v : Word) (s : State) : Out := .next (s.storeDoorbell v)
/-- A service core's store of an index to the reply word; a reply for a record of a reset partition is ignored (R358). -/
def State.storeReply (s : State) (v : Word) : State :=
  if s.num (s.fwdRecord v.toNat + 0x30) 8 = 2 then s else s.replyIntr v.toNat
/-- SYSCALL_REPLY (R358). -/
def execSyscallReply (v : Word) (s : State) : Out := .next (s.storeReply v)

/-! ### Partition reset -/

/-- The queue side of a reset: the queue set, the rings, and the journal entries of accepted records (14_queues R265). -/
def State.resetQueues (s : State) (p : Part) : State :=
  let rs := (s.rings.filter fun e => e.2.part == p).map fun e => (Fin.ofNat 1024 e.1 : RingId)
  let t := rs.foldl (fun (t : State) r =>
    let k := t.ring r.val
    let t := match (if k.mapped then (t.active k.slot.toNat).head else none) with
      | some h => t.journal h.journal.toNat r.val 3 h.kind.toNat 3 0 none
      | none => t
    (t.unmap r).modRing r.val fun k => { k with v := false, pend := false }) s
  let t : State := { t with pendingRings := t.pendingRings.filter fun r => !rs.contains r }
  t.modPart p.val fun k => { k with en := false, gen := k.gen + 1, txq := [], txwait := [], rate := 1600000 }
/-- A slot of a reset partition: its wait and its record are gone, and it is FREE (R359, 08_slots R148). -/
def State.freeThread (s : State) (p : Place) : State :=
  let t := (((((s.abandon p).returnRes p).endHandler p).disown p).unbind p)
  t.modCore p.core.val fun k =>
    { k.modSlot p.slot Slot.freed with records := k.records.filter fun r => r.slot != p.slot }
/-- V is cleared in the entry of a mailbox (15_messages R268). -/
def State.dropBox (s : State) (c m : Nat) : State :=
  let q := s.mboxAt c m 0
  (if s.box c m = [] then s else s.setBox c m []).commitAt q [Memory.get s.mem q &&& 0x7F]
/-- The populations whose matrix commands a reset of a partition discards, beside those that run (11_matrix R201, R359). -/
def State.commandPops (s : State) (p : Part) : List (BitVec 32) :=
  s.cores.flatMap fun c => (c.2.matrixQ.filter fun q => q.by_.part == p).map fun q => q.by_.pop
/-- The weight slots that populations hold are released (11_matrix R201, R359). -/
def State.releaseWeights (s : State) (pops : List (BitVec 32)) : State :=
  { s with dies := s.dies.map fun d => (d.1, { d.2 with clusters := d.2.clusters.map fun k => { k with ws := k.ws.map fun w =>
      match w.holder with
      | some (_, pop) => if pops.contains pop then { w with holder := none } else w
      | none => w } }) }
/-- The PARTMAP nibbles of a partition's slots are cleared. DEDUCED: R79 lists partition reset among what changes V`i` and PART`i`
(04_registers R79; notes/assumptions/82). -/
def Core.dropPart (k : Core) (p : Part) : Core :=
  tenantSlots.foldl (fun (k : Core) i => if k.partOf i == some p then k.setPartOf i none else k) k
/-- What a core holds for the threads of a partition is discarded (R359, 14_queues R265). -/
def State.resetCore (s : State) (c : Nat) (p : Part) (pops : List (BitVec 32)) : State :=
  let boxes := (List.range 16).filter fun m => s.mbPart c m == p.val
  let tiles := (List.range 64).filter fun h => (s.tile c h).v && (s.tile c h).part == p.val
  let t := tiles.foldl (fun (t : State) h => (t.modTile c h fun e => { e with v := false }).modCore c fun k => { k with shadow := SMap.del k.shadow h }) s
  let t := boxes.foldl (fun (t : State) m => t.dropBox c m) t
  let mine (q : Cmd) : Bool := q.by_.part == p
  let heads (k : Core) : List QueueKind := ([(.matrix, k.matrixQ), (.copy, k.copyQ), (.dec, k.decQ)] : List (QueueKind × List Cmd)).filterMap
    fun q => if q.2.head?.any mine then some q.1 else none
  let t := t.modCore c fun k =>
    { k with
      stalls := k.stalls.filter fun a => !(heads k).contains a.1
      matrixQ := k.matrixQ.filter fun q => !mine q, copyQ := k.copyQ.filter fun q => !mine q, decQ := k.decQ.filter fun q => !mine q
      runList := k.runList.filter fun q => bits (s.num (q + 0x18) 8) 36 3 != p.val
      antis := k.antis.filter fun a => !boxes.contains a.1.val
      undo := k.undo.filter fun u => u.2.event.part != p, sent := k.sent.filter fun u => u.2.by_.part != p
      buffer := k.buffer.filter fun e => !pops.contains e.who.pop, spill := k.spill.filter fun e => !pops.contains e.2.who.pop
      zones := k.zones.map fun z => if z.part == p then { z with v := false } else z }
  let t := t.modCore c fun k => k.dropPart p
  t.release c (SMap.get (0 : BitVec 16) (s.partition p.val).banks c)
/-- V is cleared in every entry of a table of HBM, whose entries are `stride` bytes apart and hold V in bit 7 of byte `at_`
(18_tables R323). -/
def State.clearTable (s : State) (base n stride at_ : Nat) : State :=
  if !inHbm base then s
  else s.commit ((s.mem.filter fun e => decide (base ≤ e.1 ∧ e.1 < base + n * stride) && (e.1 - base) % stride == at_).map fun e => (e.1, e.2 &&& 0x7F))
/-- The tables and keys of a partition (18_tables R322, R323). -/
def State.resetTables (s : State) (p : Part) : State :=
  let base (w : Nat) : Nat := bits (s.partWord p.val w) 12 44 * 2 ^ 12 % 2 ^ 43
  let t := s.clearTable (base 1) (s.partWord p.val 6) 32 7
  let t := t.clearTable (base 2) 4096 32 15
  let t := t.clearTable (base 3) 4096 16 7
  let t := t.clearTable (base 4) (2 ^ min 12 (s.partWord p.val 4 % 16)) 32 15
  let t := t.modPart p.val fun k => { k with ranges := k.ranges.map fun e => (e.1, e.2.set 0 (e.2[0] &&& ~~~8)) }
  { t with
    keys := t.keys.map fun e => (e.1, if e.2.part == p && e.2.v then { e.2 with v := false, key := 0, live := false } else e.2)
    dies := t.dies.map fun d => (d.1, { d.2 with cache := d.2.cache.filter fun c => c.part != p }) }
/-- Whether step 5 of a reset scrubs an offset: a bank of the partition, bank 0 without its first 64 KiB, or its constant
window of a core (R359). -/
def State.scrubbed (s : State) (p : Part) (q : Nat) : Bool :=
  inVault q &&
    (let o := q % 2 ^ 24
     (s.bankOf p.val q && decide (0x10000 ≤ o)) || decide (0xC000 + 0x800 * p.val ≤ o ∧ o < 0xC800 + 0x800 * p.val))
/-- The scrub of a reset, which writes every line of what it scrubs (R359, 10_access R185). -/
def State.scrub (s : State) (p : Part) : State :=
  let t := (s.commit ((s.mem.filter fun e => s.scrubbed p e.1).map fun e => (e.1, 0))).fireLines (s.scrubbed p)
  { t with poison := t.poison.filter fun w => !s.scrubbed p (8 * w) }
/-- Steps 1 to 5 of a partition reset (R359, 14_queues R265). -/
def State.beginReset (s : State) (p : Part) : State :=
  let pops := s.pops.filter fun q => q.part == p
  let ids := pops.map Pop.id
  let holders := ids ++ s.commandPops p
  let t := (s.modPart p.val fun k => { k with busy := true }).resetQueues p
  let places := t.cores.flatMap fun c => (tenantSlots.filter fun i =>
      c.2.slots[i.val].state != .free && c.2.partOf i == some p).map fun i => ({ core := Fin.ofNat 1024 c.1, slot := i } : Place)
  let t := places.foldl (fun (t : State) q => t.freeThread q) t
  let t := t.net.foldl (fun (t : State) e => match e with | .migrate _ c => if ids.contains c.slot.popid then t.letGo c.slot else t | _ => t) t
  let t : State := { t with
    net := t.net.filter fun e => match e with | .migrate _ c => !ids.contains c.slot.popid | _ => true
    out := t.out.filter fun o => !ids.contains o.pop
    tickets := t.tickets.filter fun o => o.req.part != p
    tasks := t.tasks.filter fun q => bits (t.num (q + 0x18) 8) 36 3 != p.val
    dies := t.dies.map fun d => (d.1, { d.2 with
      escrow := d.2.escrow.filter fun e => e.part != p,
      escd := d.2.escd + BitVec.ofNat 64 (d.2.escrow.filter fun e => e.part == p).length }) }
  let t := (t.cores.map Prod.fst).foldl (fun (t : State) c => t.resetCore c p ids) t
  let t := t.fwdPending.foldl (fun (t : State) i =>
    if bits (t.num (t.fwdRecord i) 8) 16 3 = p.val then t.commitWord (t.fwdRecord i + 0x30) 2 else t) t
  let t := pops.foldl (fun (t : State) q => (t.report { q with status := 3, cause := 0, tval := 0 }).endPop q) t
  ((t.releaseWeights holders).resetTables p).scrub p
/-- A store of GO that waited begins its reset, where nothing makes it wait any more (R359, R360). -/
def State.performGo (s : State) (p : Part) : State :=
  let k := s.partition p.val
  if k.go && !k.busy && s.boot.quiet.isNone then (s.modPart p.val fun k => { k with go := false }).beginReset p else s
/-- Step 6 of a partition reset (R359). -/
def State.endReset (s : State) (p : Part) : State :=
  (((s.modPart p.val fun k => { k with busy := false }).post 0 p.val).retryWithheld).performGo p
/-- A partition is reset (R359). -/
def State.resetPart (s : State) (p : Part) : State := (s.beginReset p).endReset p
/-- A store of GO begins a reset; it waits while BUSY = 1 and while the partitions are quiesced (R359, R360). -/
def State.storeGo (s : State) (p : Part) (v : Word) : State :=
  if !v.getLsbD 0 then s else (s.modPart p.val fun k => { k with go := true }).performGo p
/-- PARTITION_RESET: a reset that a store of GO began ends; another one runs whole (R359). -/
def execPartitionReset (p : Part) (s : State) : Out :=
  .next (
    if (s.partition p.val).busy then s.endReset p
    else if s.boot.quiet.isSome then s
    else s.resetPart p)
/-- The partitions that hold a slot of a core (R357, R361). -/
def Core.partitions (k : Core) : List Part := [0, 1, 2, 3, 4, 5, 6, 7].filter fun p => tenantSlots.any fun i => k.partOf i == some p

/-! ### The supervisor's restart -/

/-- SUPERVISOR_RESTART: a stopped slot 15 starts at the firmware entry; the record that was being handled is delivered again
where its slot is still PARKED, and a slot that it reserved, which no `sret` of it will free any more, is reserved no longer
(21_prog_preempt R349); after a second stop within 1 s every partition with a slot on the core is reset (R357). -/
def execSupervisorRestart (c : CoreId) (s : State) : Out :=
  let k := s.core c.val
  .next (
    if k.slots[15].state != .stopped then s
    else
      let back := match k.current with
        | some r => if r.slot.val != 15 && k.slots[r.slot.val].state == .parked && !k.slots[r.slot.val].reserved then [r] else []
        | none => []
      let t := (s.modCore c.val fun k =>
        { (tenantSlots.foldl (fun (k : Core) i => k.modSlot i fun t => { t with reserved := false }) k).modSlot 15
            (fun t => { t.abandon with state := .ready, pc := Config.firmwareEntry }) with
          trap := { k.trap with tcause := 0 }, hidden := none, current := none, records := back ++ k.records }).post 2 c.val
      if k.restop then k.partitions.foldl (fun (t : State) p => t.resetPart p) t else t)

end Sys2Proof.Machine
end

