-- ==== Sys2Proof/Machine/Boot.lean ====
section
/-! DEFINITION. Boot, the event block, errors in service data, retirement and cooling (23_system R353-R363). -/

namespace Sys2Proof.Machine

/-! ### Boot -/

/-- What the signatures of a firmware slot cover: the image and its configuration record (R353, R355; notes/assumptions/7). -/
def slotBytes (f : Firmware) : List Byte :=
  f.bytes ++ toBytes 4 f.record.pkg.toNat ++ toBytes 4 f.record.trbud.toNat ++ toBytes 8 f.record.uncLim ++ toBytes 8 f.record.corLim
/-- Whether the root of trust accepts the image of a firmware slot (R353; notes/assumptions/7). -/
def accepts (f : Option Firmware) : Bool := match f with | some i => Config.signed (slotBytes i) | none => false
/-- The package after its reset: the first of slots A and B that is accepted runs, or the package is in recovery; the dies'
Treasury starts at the budget of the configuration record (R353, R355, 20_counters R335). -/
def State.bootFrom (s : State) (a b : Option Firmware) : State :=
  let pick := if accepts a then a else if accepts b then b else none
  let record := (pick.map Firmware.record).getD Config.defaultRecord
  { State.reset with
    schedule := s.schedule, fresh := s.fresh
    dies := (List.range 8).map fun d => (d, { Die.reset with trsy := record.trbud, trbud := record.trbud })
    boot := { Boot.reset with slotA := a, slotB := b, accepted := pick, record, recovery := pick.isNone } }
/-- PACKAGE_RESET (R353). -/
def execPackageReset (s : State) : Out := .next (s.bootFrom s.boot.slotA s.boot.slotB)
/-- RECOVERY_IMAGE: in recovery, an image of at most 64 MiB that passes goes into both slots, and the package resets (R354). -/
def execRecoveryImage (fw : Firmware) (s : State) : Out :=
  .next (if s.boot.recovery && decide (fw.bytes.length ≤ 2 ^ 26) && accepts (some fw) then s.bootFrom (some fw) (some fw) else s)
/-- SPDM_MEASUREMENT_REQUEST: the digest of the accepted slot (R353; notes/assumptions/7). -/
def execSpdmMeasurementRequest (s : State) : Out :=
  .next { s with boot := { s.boot with measured := s.boot.accepted.map fun f => Config.digest (slotBytes f) } }

/-! ### The event block -/

/-- A service core's write to an event word: 1 clears OVR or PEND (R356). -/
def State.clearEvent (s : State) (e : Fin 7) (v : Word) : State :=
  { s with events := s.events.set e.val (s.events[e.val] &&& ~~~(v &&& 0xC000000000000000)) }
/-- EVENT_BLOCK_CLEAR (R356). -/
def execEventBlockClear (e : Fin 7) (v : Word) (s : State) : Out := .next (s.clearEvent e v)

/-! ### Errors -/

/-- VAULT_SOFT_ERROR: a corrected error is counted; an uncorrectable one poisons its word and is counted, for the core's
retirement too (R360, R361, 20_counters R329). -/
def execVaultSoftError (c : CoreId) (word : BitVec 21) (fatal : Bool) (s : State) : Out :=
  let w := (vaultBase c.val + 8 * word.toNat) / 8
  .next (
    if fatal then
      let t : State := { s with poison := if s.poison.contains w then s.poison else s.poison ++ [w] }
      (t.modDie (dieOf c.val) fun d => { d with seuc := d.seuc + 1 }).modCore c.val fun k =>
        { k with vaultErrs := k.vaultErrs ++ [(word.toNat / 2 ^ 17, (s.die (dieOf c.val)).tsc)] }
    else s.modDie (dieOf c.val) fun d => { d with secc := d.secc + 1 })
/-- Compute issue is held from now on (R360, R363). -/
def State.hold (s : State) : State := { s with boot := { s.boot with still := some (s.boot.still.getD s.time) } }
/-- Issue goes on once neither a quiescence nor a thermal hold is left; the time of a hold does not count for the watchdog windows
(R360, R363, `State.passIdle`). -/
def State.unhold (s : State) : State :=
  if s.boot.quiet.isSome || s.boot.hot then s else { s with boot := { s.boot with still := none } }
/-- SERVICE_DATA_ERROR: the partition that the page belongs to is reset; in a page of the system every partition is quiesced
(R360). -/
def execServiceDataError (p : Option Part) (s : State) : Out :=
  .next (match p with
    | some q => s.resetPart q
    | none =>
      if s.boot.quiet.isSome then s
      else ({ s with boot := { s.boot with quiet := some s.time, lapsed := false } } : State).hold)
/-- WARM_RESTART_COMPLETE: the partitions resume, a GO that was stored meanwhile begins its reset, and every interrupted SYSCALL ends
ABORTED (R358, R360). -/
def execWarmRestartComplete (s : State) : Out :=
  .next (
    if s.boot.quiet.isNone then s
    else
      let t := ({ s with boot := { s.boot with quiet := none } } : State).unhold
      let t := ([0, 1, 2, 3, 4, 5, 6, 7] : List Part).foldl (fun (t : State) p => t.performGo p) t
      s.fwdPending.foldl (fun (t : State) i =>
        ((t.commitWord (t.fwdRecord i + 0x38) 0xFFFFFFFFFFFFFFFE).commitWord (t.fwdRecord i + 0x30) 3).replyIntr i) t)
/-- RESTART_TIMEOUT: 2 s after the error every partition is reset (R360). -/
def execRestartTimeout (s : State) : Out :=
  .next (match s.boot.quiet with
    | some since =>
      if s.boot.lapsed || decide (s.time.toNat < since.toNat + 2000000000) then s
      else
        let live := ([0, 1, 2, 3, 4, 5, 6, 7] : List Part).filter fun p => bits (s.partWord p.val 0) 63 1 == 1
        live.foldl (fun (t : State) p => t.resetPart p) { s with boot := { s.boot with lapsed := true } }
    | none => s)

/-! ### Retirement -/

/-- Whether the firmware retires a core: a bank took more uncorrectable errors in 24 hours than the configuration record
admits, or the core, which has done nothing since boot, fails its self-test (R361). -/
def State.failing (s : State) (c : Nat) : Bool :=
  let now := (s.die (dieOf c)).tsc.toNat
  (s.cores.all fun e => e.1 != c) ||
  (List.range 16).any fun b => decide (s.boot.record.uncLim <
    (((s.core c).vaultErrs.filter fun e => e.1 == b && decide (now ≤ e.2.toNat + 86400000000000)).length))
/-- CORE_RETIREMENT: the core goes on as a spare, its contents as they were, and waits are abandoned; with no spare its
partitions are reset, a rotation that it has begun ends, and it exists no longer (R361, 18_tables R311). DESIGN CHOICE: of the free
spares of its die the lowest-numbered one takes its logical number (notes/assumptions/62). -/
def execCoreRetirement (c : CoreId) (s : State) : Out :=
  let k := s.core c.val
  let d := s.die (dieOf c.val)
  let ready := tenantSlots.all fun i => (k.slots[i.val].atBoundary && !s.stopLocked { core := c, slot := i }) || k.slots[i.val].state == .parked
  .next (
    if k.absent || !s.failing c.val || !ready then s
    else match (List.range 8).find? fun i => d.spares.getLsbD i with
      | some i =>
        let t := tenantSlots.foldl (fun (t : State) j =>
          if k.slots[j.val].state == .wait then
            (t.abandon { core := c, slot := j }).modSlot { core := c, slot := j } fun q => { q with state := .ready }
          else t) s
        ((t.modDie (dieOf c.val) fun d =>
          { d with phys := SMap.set d.phys (c.val % 128) (BitVec.ofNat 8 (128 + i)), spares := d.spares &&& ~~~(BitVec.ofNat 8 (2 ^ i)) }).modCore
            c.val fun k => { k with vaultErrs := [] }).post 3 c.val
      | none =>
        ((k.partitions.foldl (fun (t : State) p => t.resetPart p) s).modCore c.val fun k =>
          { k with partmap := 0, rotLeft := 0, relocBusy := false, absent := true }).post 3
          (c.val + 2 ^ 16))
/-- The HBM page `page` is retired: to a spare page of its stack, without the lines of the failed words, or in place, with those words
poisoned, where the stack has none left (R362, 09_memories R163). -/
def State.retirePage (s : State) (page : Nat) (failed : BitVec 512) (spare : Bool) : State :=
  let ws := ((List.range 512).filter fun i => failed.getLsbD i).map fun i => (Config.hbmBase + 4096 * page) / 8 + i
  let t : State := { s with hbmErrs := s.hbmErrs.filter fun e => e.1 != page }
  if spare then
    let ls := (ws.map fun w => w / 32).eraseDups
    ({ t with lost := t.lost ++ ls.filter fun l => !t.lost.contains l } : State).post 4 (4096 * page)
  else
    ({ t with poison := t.poison ++ ws.filter fun w => !t.poison.contains w } : State).post 4 (4096 * page + 2 ^ 55)
/-- PAGE_RETIREMENT: an error of an HBM page, uncorrectable in the words `failed`, or corrected where there is none. The page is retired
for the first, and for more of the second in 1 s than the configuration record admits (R355, R362; notes/assumptions/62). -/
def execPageRetirement (page : BitVec 28) (failed : BitVec 512) (spare : Bool) (s : State) : Out :=
  let now := s.time
  let errs := (s.hbmErrs.filter fun e => decide (now.toNat ≤ e.2.toNat + 1000000000)) ++ [(page.toNat, now)]
  .next (
    if failed ≠ 0 ∨ s.boot.record.corLim < (errs.filter fun e => e.1 == page.toNat).length then s.retirePage page.toNat failed spare
    else { s with hbmErrs := errs })

/-! ### Cooling -/

/-- THERMAL_HOLD (R363). -/
def execThermalHold (s : State) : Out :=
  .next (if s.boot.hot then s else ({ s with boot := { s.boot with hot := true } } : State).hold.post 5 1)
/-- THERMAL_RESUME: the limit falls to 1,200 MHz, and issue goes on (R363). -/
def execThermalResume (s : State) : Out :=
  .next (if s.boot.hot then (({ s with boot := { s.boot with hot := false } } : State).setOwn 1200).unhold.post 5 0 else s)

end Sys2Proof.Machine
end

