-- ==== Sys2Proof/Machine/Service.lean ====
section
/-! DEFINITION. The stores of the service cores: memory, and every SRW field of control space (23_system R356, 14_queues
R251, 18_tables R303-R310, 20_counters R338). -/

namespace Sys2Proof.Machine

/-- A field of a word: `n` bits from bit `lo`. -/
def field (v : Word) (lo n : Nat) : Word := BitVec.ofNat 64 (bits v.toNat lo n * 2 ^ lo)
/-- The journal block (14_queues R259). -/
def State.serveJournal (s : State) (w : Nat) (v : Word) : State :=
  match w with
  | 0 => { s with jbase := field v 12 44 }
  | 1 => { s with jlog := v.setWidth 5 }
  | 3 => { s with jcons := v }
  | _ => s
/-- A store of the low `n` bytes of `raw` to byte `o` of word 0 of a ring table entry: a store of V where it reaches V's byte, else of
BASE alone. A store that follows one of V that waits changes what that one stores (14_queues R252). -/
def State.serveRingBase (s : State) (r : RingId) (o n raw : Nat) : State :=
  let k := s.ring r.val
  match k.held.getLast? with
  | some h =>
    let v := BitVec.ofNat 64 (mergeWord h.toNat o n raw)
    if o + n = 8 then s.defineRing r v else s.modRing r.val fun k => { k with held := k.held.dropLast ++ [v] }
  | none =>
    let v := BitVec.ofNat 64 (mergeWord (k.entry 0) o n raw)
    if o + n = 8 then s.defineRing r v else s.modRing r.val fun k => { k with base := field v 12 44 }
/-- The other words of a ring table entry (14_queues R252). -/
def State.serveRing (s : State) (r : RingId) (w : Nat) (v : Word) : State :=
  match w with
  | 1 => s.modRing r.val fun k => { k with log := v.setWidth 5, part := Fin.ofNat 8 (v.toNat / 2 ^ 8), ext := v.getLsbD 12 }
  | 2 => s.modRing r.val fun k => { k with cb := field v 6 50 }
  | _ => s
/-- A KDA queue set (14_queues R261). -/
def State.serveKda (s : State) (p w : Nat) (v : Word) : State :=
  s.modPart p fun k =>
    match w with
    | 0 => { k with addr := BitVec.ofNat 128 (v.toNat * 2 ^ 64 + k.addr.toNat % 2 ^ 64) }
    | 1 => { k with addr := BitVec.ofNat 128 (k.addr.toNat / 2 ^ 64 * 2 ^ 64 + v.toNat) }
    | 2 => { k with uport := v.setWidth 16 }
    | 3 => { k with en := v.getLsbD 63 }
    | 4 => { k with maxs := v.setWidth 6 }
    | _ => k
/-- The fields of word `w` of a partition table entry (18_tables R303). -/
def partField (w : Nat) (v : Word) : Word :=
  match w with
  | 0 => field v 12 44 + field v 63 1
  | 1 | 2 | 3 | 5 => field v 12 44
  | 4 => field v 12 44 + field v 0 4
  | 6 => field v 0 17
  | _ => 0
/-- The partition table (18_tables R303). -/
def State.servePart (s : State) (p w : Nat) (v : Word) : State :=
  s.modPart p fun k => { k with words := k.words.setIfInBounds w (partField w v) }
/-- Four words of a bank map, from that of core `c` (18_tables R304). -/
def State.serveBanks (s : State) (p c : Nat) (v : Word) : State :=
  s.modPart p fun k =>
    { k with banks := (List.range 4).foldl (fun m i => SMap.set m (c + i) (BitVec.ofNat 16 (v.toNat / 2 ^ (16 * i)))) k.banks }
/-- The forward block (23_system R358). -/
def State.serveForward (s : State) (w : Nat) (v : Word) : State :=
  match w with
  | 0 => { s with fwrb := field v 12 44 }
  | 1 => { s with fwrlog := v.setWidth 5 }
  | 3 => { s with fwrdone := v }
  | 5 => s.storeReply v
  | _ => s
/-- A store of a service core of `n` bytes from byte `o` of a word of control space: `v` is the word with the stored bytes in it, `raw`
the stored bytes alone. A store to a field that it may not write is ignored. -/
def State.serveCtl (s : State) (q o n : Nat) (v raw : Word) : State :=
  if q < Config.queueBase + 0x2000 then s
  else if q < Config.queueBase + 0x2020 then s.serveJournal (q % 32 / 8) v
  else if q < Config.queueBase + 0x10000 then s
  else if Config.queueBase + 0x10000 ≤ q ∧ q < Config.queueBase + 0x20000 ∧ q % 64 = 0 then
    s.serveRingBase (Fin.ofNat 1024 ((q - Config.queueBase - 0x10000) / 64)) o n (raw.toNat / 2 ^ (8 * o))
  else if q < Config.queueBase + 0x20000 then s.serveRing (Fin.ofNat 1024 ((q - Config.queueBase - 0x10000) / 64)) (q % 64 / 8) v
  else if q < Config.partBase then s.serveKda ((q - Config.queueBase - 0x20000) / 64) (q % 64 / 8) v
  else if q < Config.bankBase then s.servePart ((q - Config.partBase) / 256) (q % 256 / 8) v
  else if q < Config.rangeBase then s.serveBanks ((q - Config.bankBase) / 2048) (q % 2048 / 2) v
  else if q < Config.potBase then s.storeRange ((q - Config.rangeBase) / 2048) (q % 2048 / 32) (q % 32 / 8) v
  else if q < Config.mapBase then { s with potb := v }
  else if q < Config.clockBase then s
  else if q < Config.eventBase then (if q = Config.clockBase then s.storeReq v else s)
  else if q < Config.resetBase then s.clearEvent (Fin.ofNat 7 ((q - Config.eventBase) / 8)) raw
  else if q < Config.fwdBase then s.storeGo (Fin.ofNat 8 ((q - Config.resetBase) / 8)) raw
  else s.serveForward ((q - Config.fwdBase) / 8) v
/-- A store of the low `n` bytes of `v` by a service core at a package offset; monitors of the line fire, and in recovery, where no
service core runs, there is none (R354, 10_access R185). -/
def State.serviceStore (s : State) (q n : Nat) (v : Word) : State :=
  if s.boot.recovery || !(n == 1 || n == 2 || n == 4 || n == 8) || q % n != 0 || !defined q || inMbox q then s
  else if !inCtl q then s.portWrite q (toBytes n v.toNat)
  else
    let w := q / 8 * 8
    (s.serveCtl w (q % 8) n (BitVec.ofNat 64 (mergeWord (s.ctlWord w) (q % 8) n v.toNat)) (BitVec.ofNat 64 (mergeWord 0 (q % 8) n v.toNat))).fireAt q

end Sys2Proof.Machine
end

