-- ==== Sys2Proof/Machine/Issue.lean ====
section
/-! DEFINITION. Which slot of a core issues next (08_slots R135), and the fetch of its instruction (02_encoding R28-R31). -/

namespace Sys2Proof.Machine

/-- Whether a slot can issue: READY, and not held by a pending rollback (08_slots R133, 15_messages R283). -/
def Slot.canIssue (t : Slot) : Bool := t.state == .ready && (t.pending.isNone || t.released)
/-- Whether slot `i` can issue in cycle `n`: one that is to rotate issues no more, but for an access that a bank released, after the first
cycle that it owns since the store (08_slots R149). -/
def Core.canIssue (k : Core) (n : Nat) (i : SlotId) : Bool :=
  k.slots[i.val].canIssue && (!k.rotLeft.getLsbD i.val || decide (n ≤ k.rotFrom i) || k.slots[i.val].released)
/-- The partition of a slot for the issue choice: the incoming one in TRANSIT for rotation (R135). -/
def Core.issuePart (k : Core) (i : SlotId) : Option Part :=
  if k.slots[i.val].state == .transit && k.slots[i.val].evicting then some k.rotPart else k.partOf i
/-- The lowest-numbered slot of a partition that can issue in cycle `n`. -/
def Core.readyOf (k : Core) (n : Nat) (p : Part) : Option SlotId :=
  tenantSlots.find? fun i => k.issuePart i == some p && k.canIssue n i
/-- A phase of the supervisor or of an unassigned slot goes to the next partition with a READY tenant slot (R135). -/
def Core.lend (k : Core) (n : Nat) : Option (SlotId × Part) :=
  (List.range 8).findSome? fun j =>
    let p : Part := Fin.ofNat 8 (k.served.val + 1 + j)
    (k.readyOf n p).map fun i => (i, p)
/-- The slot that issues in cycle `n`, and the core after the choice: a `yield` is spent in the next cycle that its slot
owns (R135). -/
def Core.choose (k : Core) (n : Nat) : Option SlotId × Core :=
  let o : SlotId := Fin.ofNat 16 n
  let t := k.slots[o.val]
  if k.canIssue n o && !t.yielded then (some o, k)
  else
    let k := k.modSlot o fun t => { t with yielded := false }
    match k.issuePart o with
    | some p =>
      if o.val = 15 then ((k.lend n).map Prod.fst, match k.lend n with | some (_, q) => { k with served := q } | none => k)
      else
        (((List.range 14).map fun i => (Fin.ofNat 16 ((o.val + 1 + i) % 15) : SlotId)).find? fun i =>
          k.issuePart i == some p && k.canIssue n i, k)
    | none => ((k.lend n).map Prod.fst, match k.lend n with | some (_, q) => { k with served := q } | none => k)
/-- The first slot to issue within `fuel` cycles, and the core after the cycle in which it issues (R135). -/
def Core.search : Nat → Core → Option SlotId × Core
  | 0, k => (none, k)
  | fuel + 1, k =>
    match k.choose k.cycle with
    | (some i, k') => (some i, { k' with cycle := k.cycle + 1 })
    | (none, k') => Core.search fuel { k' with cycle := k.cycle + 1 }
/-- Whether core `c` issues at all: the package is not in recovery or held, and the core is there (23_system R353, R360,
R361, R363). -/
def State.issues (s : State) (c : CoreId) : Bool := !s.still && !s.boot.recovery && !(s.core c.val).absent
/-- The state in which the next instruction of core `c` is about to be fetched, where a slot issues within 16 cycles. -/
def State.choose (s : State) (c : CoreId) : Option State × State :=
  if s.issues c then
    match (s.core c.val).search 16 with
    | (some i, k) => (some { s.setCore c.val k with cur := { core := c, slot := i } }, s)
    | (none, k) => (none, s.setCore c.val k)
  else (none, s.modCore c.val fun k => { k with cycle := k.cycle + 16 })

/-- The words that the executing thread may be given for the instruction at an offset: the committed one, and those
it has fetched there since its last `fence.cb` (02_encoding R31). -/
def State.fetchable (s : State) (q : Nat) : List (BitVec 32) :=
  let now := BitVec.ofNat 32 (ofBytes (s.portBytes q 4))
  now :: (SMap.get [] s.me.ibuf q).filter (· != now)
/-- One of several words, a free choice (02_encoding R31; notes/assumptions/5). -/
def State.oneOf (s : State) : List (BitVec 32) → BitVec 32
  | [] => 0
  | [w] => w
  | w :: u :: t => (w :: u :: t).getD ((Config.freeWord (s.choice 4)).toNat % (t.length + 2)) w
/-- The fetch of the next instruction word: the state, with the word kept for the instruction buffer (02_encoding R28-R31). -/
def State.fetch (s : State) : Act (State × BitVec 32) := do
  let q ← s.fetchAt
  let ws := s.fetchable q
  .ok ((s.touch s.me.pc).modMe fun t => { t with ibuf := SMap.set t.ibuf q ws }, s.oneOf ws)

/-- Whether the package takes what the schedule holds next: in recovery, where the dies are in reset, only what the two recovery paths and
the management sideband bring (23_system R353, R354); a core in reset only lets its cycles pass. -/
def State.admits (s : State) (t : Turn) : Bool :=
  !s.boot.recovery ||
  match t with
  | .core _ => true
  | .event (.recoveryImage _) | .event .packageReset | .event .spdmMeasurementRequest => true
  | .event _ | .service _ _ _ | .datagram _ _ => false

/-- The state whose next step runs an instruction: nothing scheduled before it, and a slot that issues. -/
def State.poised (s : State) : State :=
  let t : State := { s with schedule := [], boot := { s.boot with still := none, recovery := false } }
  let t := t.modCore t.cur.core.val fun k => { k with absent := false }
  match (t.core t.cur.core.val).search 16 with
  | (some _, _) => t
  | (none, _) => t.modSlot { core := t.cur.core, slot := 15 } fun q => { q with state := .ready, pending := none, yielded := false }
/-- The instruction word `w` stands where the next step fetches; it is the only word the fetch may give. -/
def State.plant (s : State) (w : Nat) : State :=
  let s := s.poised
  match s.choose s.cur.core with
  | (none, _) => s
  | (some t, _) =>
    match t.fetchAt with
    | .error _ => s
    | .ok q =>
      let u : State := { s with mem := Memory.write s.mem (cells q (toBytes 4 w)) }
      u.modSlot t.cur fun t => { t with ibuf := [] }

/-- A step of the device that the schedule may hold: not an instruction, and not an issue that only a fetch makes. -/
def deviceStep : Instr → Bool
  | .illegalInstruction _ => false
  | .instructionFetchFault => false
  | i => (encode i).isNone

end Sys2Proof.Machine
end

