-- ==== Sys2Proof/Machine/Alu.lean ====
section
/-! DEFINITION. The scalar, predicate and selection instructions: ALU, ALU2, CMP, ADDI-XORI, SHI, LUI, LDK,
CMPI, PRED and SEL (06_scalar R100-R111, 05_numbers R84). -/

namespace Sys2Proof.Machine

/-! ### Shared operations -/

/-- An instruction whose effect is X[xd] ← r (06_scalar R100). -/
def writeX (s : State) (d : XReg) (r : Act Word) : Out := seq s (r.map fun v => s.setX d v)
/-- An instruction whose effect is P[pd] ← r (06_scalar R100, R108). -/
def writeP (s : State) (p : PReg) (r : Act Bool) : Out := seq s (r.map fun b => s.setP p b)
/-- X[xd] ← f a b, with operand b of format A (06_scalar R103). -/
def alu (s : State) (d a : XReg) (b : OpB) (f : Word → Word → Word) : Out :=
  writeX s d ((s.opB b).map fun v => f (s.x a) v)
/-- X[xd] ← f a (06_scalar R106). -/
def unary (s : State) (d a : XReg) (f : Word → Word) : Out := writeX s d (.ok (f (s.x a)))
/-- P[pd] ← test a b (06_scalar R108). -/
def test (s : State) (p : PReg) (a : XReg) (b : OpB) (f : Word → Word → Bool) : Out :=
  writeP s p ((s.opB b).map fun v => f (s.x a) v)

/-- The shift or rotate amount, modulo 64 (05_numbers R84). -/
def amount (b : Word) : Nat := b.toNat % 64
/-- The quotient of a signed division (05_numbers R84). -/
def quotS (a b : Word) : Word := if b = 0 then BitVec.allOnes 64 else a.sdiv b
/-- The remainder of a signed division (05_numbers R84). -/
def remS (a b : Word) : Word := if b = 0 then a else a.srem b
/-- The quotient of an unsigned division (05_numbers R84). -/
def quotN (a b : Word) : Word := if b = 0 then BitVec.allOnes 64 else a / b
/-- The remainder of an unsigned division (05_numbers R84). -/
def remN (a b : Word) : Word := if b = 0 then a else a % b
/-- Bits 127-64 of the signed product. -/
def mulHighS (a b : Word) : Word := (a.signExtend 128 * b.signExtend 128).extractLsb' 64 64
/-- Bits 127-64 of the unsigned product. -/
def mulHighN (a b : Word) : Word := (a.setWidth 128 * b.setWidth 128).extractLsb' 64 64
/-- Zero bits below the lowest set bit, of the low `n` bits counted from bit `i` up. -/
def ctzFrom (a : Word) : Nat → Nat → Nat
  | 0, i => i
  | n + 1, i => if a.getLsbD i then i else ctzFrom a n (i + 1)
/-- Zero bits above the highest set bit among the low `n` bits (06_scalar R106). -/
def clzFrom (a : Word) : Nat → Nat
  | 0 => 64
  | n + 1 => if a.getLsbD n then 63 - n else clzFrom a n
/-- The number of set bits among the low `n` (06_scalar R106). -/
def popFrom (a : Word) : Nat → Nat
  | 0 => 0
  | n + 1 => (a.getLsbD n).toNat + popFrom a n
/-- The mask of a field descriptor (06_scalar R107). -/
def fieldMask (b : Word) : Word := BitVec.ofNat 64 ((2 ^ (bits b.toNat 8 6 + 1) - 1) * 2 ^ (b.toNat % 64))
/-- The field of `a` that a descriptor names (06_scalar R107). -/
def fieldOf (a b : Word) : Word := (a &&& fieldMask b) >>> amount b
/-- `old` with the field that a descriptor names replaced by `a` (06_scalar R107). -/
def fieldInto (old a b : Word) : Word := (old &&& ~~~fieldMask b) ||| ((a <<< amount b) &&& fieldMask b)

/-! ### ALU -/

/-- `add`: a + b (R103). -/
def execAdd (d a : XReg) (b : OpB) (s : State) : Out := alu s d a b fun a b => a + b
/-- `sub`: a − b (R103). -/
def execSub (d a : XReg) (b : OpB) (s : State) : Out := alu s d a b fun a b => a - b
/-- `mul`: bits 63-0 of a × b (R103). -/
def execMul (d a : XReg) (b : OpB) (s : State) : Out := alu s d a b fun a b => a * b
/-- `mulh`: bits 127-64 of the signed product (R103). -/
def execMulh (d a : XReg) (b : OpB) (s : State) : Out := alu s d a b fun a b => mulHighS a b
/-- `mulhn`: bits 127-64 of the unsigned product (R103). -/
def execMulhn (d a : XReg) (b : OpB) (s : State) : Out := alu s d a b fun a b => mulHighN a b
/-- `div`: signed quotient (R84, R103). -/
def execDiv (d a : XReg) (b : OpB) (s : State) : Out := alu s d a b fun a b => quotS a b
/-- `divn`: unsigned quotient (R84, R103). -/
def execDivn (d a : XReg) (b : OpB) (s : State) : Out := alu s d a b fun a b => quotN a b
/-- `rem`: signed remainder (R84, R103). -/
def execRem (d a : XReg) (b : OpB) (s : State) : Out := alu s d a b fun a b => remS a b
/-- `remn`: unsigned remainder (R84, R103). -/
def execRemn (d a : XReg) (b : OpB) (s : State) : Out := alu s d a b fun a b => remN a b
/-- `and`: a AND b (R103). -/
def execAnd (d a : XReg) (b : OpB) (s : State) : Out := alu s d a b fun a b => a &&& b
/-- `or`: a OR b (R103). -/
def execOr (d a : XReg) (b : OpB) (s : State) : Out := alu s d a b fun a b => a ||| b
/-- `xor`: a XOR b (R103). -/
def execXor (d a : XReg) (b : OpB) (s : State) : Out := alu s d a b fun a b => a ^^^ b
/-- `andn`: a AND NOT b (R103). -/
def execAndn (d a : XReg) (b : OpB) (s : State) : Out := alu s d a b fun a b => a &&& ~~~b
/-- `shl`: a shifted left (R84, R103). -/
def execShl (d a : XReg) (b : OpB) (s : State) : Out := alu s d a b fun a b => a <<< amount b
/-- `shr`: a shifted right, zeros in (R84, R103). -/
def execShr (d a : XReg) (b : OpB) (s : State) : Out := alu s d a b fun a b => a >>> amount b
/-- `sar`: a shifted right, copies of bit 63 in (R84, R103). -/
def execSar (d a : XReg) (b : OpB) (s : State) : Out := alu s d a b fun a b => a.sshiftRight (amount b)
/-- `rol`: a rotated left (R84, R103). -/
def execRol (d a : XReg) (b : OpB) (s : State) : Out := alu s d a b fun a b => a.rotateLeft (amount b)
/-- `min`: the lesser as i64 (R103). -/
def execMin (d a : XReg) (b : OpB) (s : State) : Out := alu s d a b fun a b => if a.slt b then a else b
/-- `max`: the greater as i64 (R103). -/
def execMax (d a : XReg) (b : OpB) (s : State) : Out := alu s d a b fun a b => if a.slt b then b else a
/-- `minn`: the lesser as n64 (R103). -/
def execMinn (d a : XReg) (b : OpB) (s : State) : Out := alu s d a b fun a b => if a.ult b then a else b
/-- `maxn`: the greater as n64 (R103). -/
def execMaxn (d a : XReg) (b : OpB) (s : State) : Out := alu s d a b fun a b => if a.ult b then b else a
/-- `lea2`: a + 2b (R103). -/
def execLea2 (d a : XReg) (b : OpB) (s : State) : Out := alu s d a b fun a b => a + (b <<< 1)
/-- `lea4`: a + 4b (R103). -/
def execLea4 (d a : XReg) (b : OpB) (s : State) : Out := alu s d a b fun a b => a + (b <<< 2)
/-- `lea8`: a + 8b (R103). -/
def execLea8 (d a : XReg) (b : OpB) (s : State) : Out := alu s d a b fun a b => a + (b <<< 3)
/-- `addw`: the low 32 bits of a + b, sign-extended (R103). -/
def execAddw (d a : XReg) (b : OpB) (s : State) : Out := alu s d a b fun a b => ((a + b).setWidth 32).signExtend 64

/-! ### ALU2 -/

/-- `clz`: zero bits above the highest set bit (R106). -/
def execClz (d a : XReg) (s : State) : Out := unary s d a fun a => BitVec.ofNat 64 (clzFrom a 64)
/-- `ctz`: zero bits below the lowest set bit (R106). -/
def execCtz (d a : XReg) (s : State) : Out := unary s d a fun a => BitVec.ofNat 64 (ctzFrom a 64 0)
/-- `pop`: the number of set bits (R106). -/
def execPop (d a : XReg) (s : State) : Out := unary s d a fun a => BitVec.ofNat 64 (popFrom a 64)
/-- `bswap`: the bytes in reverse order (R106). -/
def execBswap (d a : XReg) (s : State) : Out := unary s d a fun a => BitVec.ofNat 64 (ofBytes (toBytes 8 a.toNat).reverse)
/-- `sext.b`: SignExtend(a, 8) (R106). -/
def execSextB (d a : XReg) (s : State) : Out := unary s d a fun a => (a.setWidth 8).signExtend 64
/-- `sext.h`: SignExtend(a, 16) (R106). -/
def execSextH (d a : XReg) (s : State) : Out := unary s d a fun a => (a.setWidth 16).signExtend 64
/-- `sext.w`: SignExtend(a, 32) (R106). -/
def execSextW (d a : XReg) (s : State) : Out := unary s d a fun a => (a.setWidth 32).signExtend 64
/-- `zext.b`: ZeroExtend(a, 8) (R106). -/
def execZextB (d a : XReg) (s : State) : Out := unary s d a fun a => (a.setWidth 8).setWidth 64
/-- `zext.h`: ZeroExtend(a, 16) (R106). -/
def execZextH (d a : XReg) (s : State) : Out := unary s d a fun a => (a.setWidth 16).setWidth 64
/-- `zext.w`: ZeroExtend(a, 32) (R106). -/
def execZextW (d a : XReg) (s : State) : Out := unary s d a fun a => (a.setWidth 32).setWidth 64
/-- `mov`: a (R106). -/
def execMov (d a : XReg) (s : State) : Out := unary s d a fun a => a

/-- `bfx`: the field of a that b names (R107). -/
def execBfx (d a : XReg) (b : OpB) (s : State) : Out := alu s d a b fieldOf
/-- `bfi`: xd with the field that b names replaced by a (R107). -/
def execBfi (d a : XReg) (b : OpB) (s : State) : Out := alu s d a b (fieldInto (s.x d))

/-! ### CMP -/

/-- `cmp.eq`: a = b (R108). -/
def execCmpEq (p : PReg) (a : XReg) (b : OpB) (s : State) : Out := test s p a b fun a b => IntCond.eq.holds a b
/-- `cmp.ne`: a ≠ b (R108). -/
def execCmpNe (p : PReg) (a : XReg) (b : OpB) (s : State) : Out := test s p a b fun a b => IntCond.ne.holds a b
/-- `cmp.lt`: a < b as i64 (R108). -/
def execCmpLt (p : PReg) (a : XReg) (b : OpB) (s : State) : Out := test s p a b fun a b => IntCond.lt.holds a b
/-- `cmp.ge`: a ≥ b as i64 (R108). -/
def execCmpGe (p : PReg) (a : XReg) (b : OpB) (s : State) : Out := test s p a b fun a b => IntCond.ge.holds a b
/-- `cmp.ltn`: a < b as n64 (R108). -/
def execCmpLtn (p : PReg) (a : XReg) (b : OpB) (s : State) : Out := test s p a b fun a b => IntCond.ltn.holds a b
/-- `cmp.gen`: a ≥ b as n64 (R108). -/
def execCmpGen (p : PReg) (a : XReg) (b : OpB) (s : State) : Out := test s p a b fun a b => IntCond.gen.holds a b
/-- `tst.z`: (a AND b) = 0 (R108). -/
def execTstZ (p : PReg) (a : XReg) (b : OpB) (s : State) : Out := test s p a b fun a b => a &&& b == 0
/-- `tst.nz`: (a AND b) ≠ 0 (R108). -/
def execTstNz (p : PReg) (a : XReg) (b : OpB) (s : State) : Out := test s p a b fun a b => a &&& b != 0

/-! ### CMPI -/

/-- `cmpi.eq`: a = b, with b the sign-extended immediate (R109). -/
def execCmpiEq (p : PReg) (a : XReg) (i : BitVec 16) (s : State) : Out := writeP s p (.ok (IntCond.eq.holds (s.x a) (i.signExtend 64)))
/-- `cmpi.ne`: a ≠ b, with b the sign-extended immediate (R109). -/
def execCmpiNe (p : PReg) (a : XReg) (i : BitVec 16) (s : State) : Out := writeP s p (.ok (IntCond.ne.holds (s.x a) (i.signExtend 64)))
/-- `cmpi.lt`: a < b as i64, with b the sign-extended immediate (R109). -/
def execCmpiLt (p : PReg) (a : XReg) (i : BitVec 16) (s : State) : Out := writeP s p (.ok (IntCond.lt.holds (s.x a) (i.signExtend 64)))
/-- `cmpi.ge`: a ≥ b as i64, with b the sign-extended immediate (R109). -/
def execCmpiGe (p : PReg) (a : XReg) (i : BitVec 16) (s : State) : Out := writeP s p (.ok (IntCond.ge.holds (s.x a) (i.signExtend 64)))
/-- `cmpi.ltn`: a < b as n64, with b the sign-extended immediate (R109). -/
def execCmpiLtn (p : PReg) (a : XReg) (i : BitVec 16) (s : State) : Out := writeP s p (.ok (IntCond.ltn.holds (s.x a) (i.signExtend 64)))
/-- `cmpi.gen`: a ≥ b as n64, with b the sign-extended immediate (R109). -/
def execCmpiGen (p : PReg) (a : XReg) (i : BitVec 16) (s : State) : Out := writeP s p (.ok (IntCond.gen.holds (s.x a) (i.signExtend 64)))

/-! ### Immediates and constants -/

/-- `addi`: a + SignExtend(imm18) (R104). -/
def execAddi (d a : XReg) (i : BitVec 18) (s : State) : Out :=
  unary s d a fun a => let i := i.signExtend 64; a + i
/-- `andi`: a AND SignExtend(imm18) (R104). -/
def execAndi (d a : XReg) (i : BitVec 18) (s : State) : Out :=
  unary s d a fun a => let i := i.signExtend 64; a &&& i
/-- `ori`: a OR SignExtend(imm18) (R104). -/
def execOri (d a : XReg) (i : BitVec 18) (s : State) : Out :=
  unary s d a fun a => let i := i.signExtend 64; a ||| i
/-- `xori`: a XOR SignExtend(imm18) (R104). -/
def execXori (d a : XReg) (i : BitVec 18) (s : State) : Out :=
  unary s d a fun a => let i := i.signExtend 64; a ^^^ i

/-! ### Shifts by a constant -/

/-- `shli`: a shifted left by n (R104). -/
def execShli (d a : XReg) (n : Fin 64) (s : State) : Out := unary s d a fun a => a <<< n.val
/-- `shri`: a shifted right by n, zeros in (R104). -/
def execShri (d a : XReg) (n : Fin 64) (s : State) : Out := unary s d a fun a => a >>> n.val
/-- `sari`: a shifted right by n, copies of bit 63 in (R104). -/
def execSari (d a : XReg) (n : Fin 64) (s : State) : Out := unary s d a fun a => a.sshiftRight n.val
/-- `roli`: a rotated left by n (R104). -/
def execRoli (d a : XReg) (n : Fin 64) (s : State) : Out := unary s d a fun a => a.rotateLeft n.val

/-- `lui`: SignExtend(imm18) << 18 (R105). -/
def execLui (d : XReg) (i : BitVec 18) (s : State) : Out := writeX s d (.ok (i.signExtend 64 <<< 18))
/-- `ldk`: K(k8) (R105). -/
def execLdk (d : XReg) (n : KIdx) (s : State) : Out := writeX s d (s.k n.val)

/-! ### PRED -/

/-- `pand`: Pred(pa) AND Pred(pb) (R110). -/
def execPand (p a b : PReg) (s : State) : Out := writeP s p (.ok (s.pred a && s.pred b))
/-- `por`: Pred(pa) OR Pred(pb) (R110). -/
def execPor (p a b : PReg) (s : State) : Out := writeP s p (.ok (s.pred a || s.pred b))
/-- `pxor`: Pred(pa) XOR Pred(pb) (R110). -/
def execPxor (p a b : PReg) (s : State) : Out := writeP s p (.ok (s.pred a != s.pred b))
/-- `pandn`: Pred(pa) AND NOT Pred(pb) (R110). -/
def execPandn (p a b : PReg) (s : State) : Out := writeP s p (.ok (s.pred a && !s.pred b))

/-- `pnot`: NOT Pred(pa) (R110). -/
def execPnot (p a : PReg) (s : State) : Out := writeP s p (.ok (!s.pred a))
/-- `pmov`: Pred(pa) (R110). -/
def execPmov (p a : PReg) (s : State) : Out := writeP s p (.ok (s.pred a))

/-! ### SEL -/

/-- `sel`: X[xa] where Pred(p) holds, else X[xb] (R111). -/
def execSel (d a b : XReg) (p : PReg) (s : State) : Out := writeX s d (.ok (if s.pred p then s.x a else s.x b))

end Sys2Proof.Machine
end

