-- ==== Sys2Proof/Machine/Link.lean ====
section
/-! DEFINITION. Scale-up ports: the LINK instructions, the sealing of flits and their receipt (18_tables R318-R321,
19_prog_link R324-R327). -/

namespace Sys2Proof.Machine

/-! ### Sealing -/

/-- The key slot that a flag names. -/
def LinkPort.key (k : LinkPort) (i : Bool) : KeySlot := if i then k.keys[1] else k.keys[0]
/-- The key slot `i` changed by `f`. -/
def LinkPort.modKey (k : LinkPort) (i : Bool) (f : KeySlot → KeySlot) : LinkPort :=
  { k with keys := if i then k.keys.set 1 (f k.keys[1]) else k.keys.set 0 (f k.keys[0]) }
/-- LKC of a key slot (04_registers R81). -/
def LinkPort.count (k : LinkPort) (i : Bool) : Nat := if i then k.lkc[1].toNat else k.lkc[0].toNat
/-- The supervisor core of the LINK events of a port (19_prog_link R327). -/
def linkCore (p : Nat) : Nat := 128 * (p % 8)
/-- The IV of a flit: the salt, then the invocation count, its most significant byte first (18_tables R318;
notes/assumptions/31). -/
def flitIv (salt : BitVec 32) (inv : Nat) : Nat := ofBytesBE (toBytes 4 salt.toNat) * 2 ^ 64 + inv
/-- The header of a flit (18_tables R318). -/
def flitHeader (kind : Nat) (key : Bool) (inv : Nat) (seq ack : BitVec 32) : List Byte :=
  [BitVec.ofNat 8 kind, BitVec.ofNat 8 key.toNat] ++ toBytes 6 inv ++ toBytes 4 seq.toNat ++ toBytes 4 ack.toNat
/-- The port seals a flit under TXS and puts it on the wire; `first` is the first transmission of its SEQ (R318, R320, R321,
19_prog_link R326). -/
def State.sealFlit (s : State) (p kind : Nat) (seq : BitVec 32) (payload : List Byte) (first : Bool) : State :=
  let k := s.port p
  let i := k.txs
  let n := k.count i + 1
  let slot := k.key i
  let head := flitHeader kind i n seq k.expect
  let (ct, tag) := gcmSeal (keyNumber slot.key) (flitIv slot.txsalt n) head payload
  let body := kind == 0 || kind == 2
  let fire := first && body && k.inject == some (seq, true)
  let ct := if fire then (match ct with | b :: t => (b ^^^ 1) :: t | [] => []) else ct
  let due := body && decide (k.lkth.toNat ≤ n) && !slot.due
  let t := s.modPort p fun k =>
    { k.modKey i (fun e => { e with due := e.due || due, spent := e.spent || n == 2 ^ 48 - 1 }) with
      lkc := if i then k.lkc.set 1 (BitVec.ofNat 48 n) else k.lkc.set 0 (BitVec.ofNat 48 n)
      wire := (head ++ ct ++ tag) :: k.wire, owed := none, inject := if fire then none else k.inject }
  if due then t.raiseEvent (linkCore p) .link 0 (BitVec.ofNat 64 p) else t
/-- A data flit or a marker takes the next SEQ and a place in the replay buffer (19_prog_link R326). -/
def State.sealNew (s : State) (p kind : Nat) (payload : List Byte) : State :=
  let k := s.port p
  (s.sealFlit p kind k.next payload true).modPort p fun e =>
    { e with next := e.next + 1, wrapped := e.wrapped || e.next == BitVec.allOnes 32, replay := e.replay ++ [{ kind := BitVec.ofNat 8 kind, seq := k.next, payload }] }
/-- The payload of a data flit; the sending device's tag marks an end write in bit 62 and one with more packets to come in bit 61
(19_prog_link R325; notes/assumptions/25). -/
def State.packetBytes (s : State) (g : Packet) : List Byte :=
  let fn := if g.kind = 1 then g.fn.toNat else 0
  let tag := if g.kind = 0 then g.tag ||| BitVec.ofNat 64 (2 ^ 62 * g.isEnd.toNat + 2 ^ 61 * g.more.toNat) else g.tag
  toBytes 8 (g.target.toNat + 2 ^ 56 * g.kind.toNat) ++
  toBytes 4 (s.pkg + 2 ^ 16 * g.core.val + 2 ^ 28 * g.part.val + 2 ^ 31 * g.dom.isSome.toNat) ++
  toBytes 4 (g.data.length + 2 ^ 8 * fn) ++ toBytes 8 tag.toNat ++ toBytes 8 (g.dom.getD 0).toNat ++
  g.data ++ List.replicate (192 - g.data.length) 0
/-- FLIT_SEAL: an up port whose sending key slot is loaded and not used up seals a NAK that it owes, the next flit to
replay, or the next packet where the replay buffer has room (R321, 14_queues R250, 19_prog_link R326). -/
def execFlitSeal (p : Port) (s : State) : Out :=
  let k := s.port p.val
  let blank := List.replicate 224 (0 : Byte)
  .next (
    if !k.up || !(k.key k.txs).loaded || decide (2 ^ 48 - 2 ≤ k.count k.txs) then s
    else if k.nak then (s.sealFlit p.val 3 k.next blank false).modPort p.val fun e => { e with nak := false }
    else match k.again, k.txq with
      | f :: rest, _ => (s.sealFlit p.val f.kind.toNat f.seq f.payload false).modPort p.val fun e => { e with again := rest, lkrt := e.lkrt + 1 }
      | [], g :: rest =>
        if 512 ≤ k.replay.length then s
        else (s.modPort p.val fun e => { e with txq := rest }).sealNew p.val 0 (s.packetBytes g)
      | [], [] => s)
/-- LINK_ACK_TIMEOUT: a received data flit has stayed unacknowledged for 2 µs; a slot whose count has reached LKTH seals
nothing for it (19_prog_link R326, R321). -/
def execLinkAckTimeout (p : Port) (s : State) : Out :=
  let k := s.port p.val
  .next (match k.owed with
    | some at_ =>
      if k.up && (k.key k.txs).loaded && decide (at_.toNat + 2000 ≤ s.time.toNat) && decide (k.count k.txs < k.lkth.toNat) &&
         decide (k.count k.txs < 2 ^ 48 - 2)
      then s.sealFlit p.val 1 k.next (List.replicate 224 0) false else s
    | none => s)

/-! ### LINK instructions -/

/-- `lkey` (R320). -/
def execLkey (d a : XReg) (sl : Fin 2) (p : Port) (s : State) : Out :=
  seq s (do
    s.supOnly (wordLkey d a sl p)
    let va := s.x a
    check (va.toNat % 64 = 0) .align va
    check (inSystemArea va.toNat 64) .prot va
    let q := vaultBase s.myId + va.toNat
    s.touchable va (s.pkg * 2 ^ 43 + q) 64 true
    check (s.bytes (q + 40) 24 = List.replicate 24 0) .prot va
    let k := s.port p.val
    let i := sl.val == 1
    if i == k.txs || i == k.rxs || k.swp then .ok (s.setX d 1)
    else
      let key : KeySlot :=
        { key := BitVec.ofNat 256 (s.num q 32), txsalt := BitVec.ofNat 32 (s.num (q + 32) 4), rxsalt := BitVec.ofNat 32 (s.num (q + 36) 4),
          rxlast := 0, loaded := true, due := false, spent := false }
      .ok ((s.modPort p.val fun k =>
        { k.modKey i (fun _ => key) with lkc := if i then k.lkc.set 1 0 else k.lkc.set 0 0 }).setX d 0))
/-- `lksw` (R320): the marker takes a place in the replay buffer, for which it waits (14_queues R250). DESIGN CHOICE: from a slot that has
sealed its last marker and can seal no other it refuses (R321; notes/assumptions/83). -/
def execLksw (d : XReg) (p : Port) (s : State) : Out :=
  seq s (do
    s.supOnly (wordLksw d p)
    let k := s.port p.val
    if !(k.key (!k.txs)).loaded || k.swp || (k.key k.txs).spent then .ok (s.setX d 1)
    else if 512 ≤ k.replay.length then .error (.interlock s (.replayRoom p))
    else
      .ok (((s.sealNew p.val 2 (List.replicate 224 0)).modPort p.val fun e => { e with txs := !e.txs, swp := true }).setX d 0))
/-- Whether a SEQ is still to be sent on the port. DESIGN CHOICE: once every SEQ has been sent, the 2^31 before the next are the ones that
count as sent (R320; notes/assumptions/61). -/
def LinkPort.unsent (k : LinkPort) (seq : BitVec 32) : Bool :=
  if k.wrapped then decide ((seq - k.next).toNat < 2 ^ 31) else decide (k.next.toNat ≤ seq.toNat)
/-- `lkinj` (R320): the arming holds whether its SEQ is still to be sent; one that has been sent never fires. -/
def execLkinj (a : XReg) (p : Port) (s : State) : Out :=
  seq s (do
    s.supOnly (wordLkinj a p)
    let seq : BitVec 32 := (s.x a).setWidth 32
    .ok (s.modPort p.val fun k => { k with inject := some (seq, k.unsent seq) }))
/-- `lkstat` (R320). -/
def execLkstat (d : XReg) (p : Port) (s : State) : Out :=
  seq s (do
    s.supOnly (wordLkstat d p)
    let k := s.port p.val
    .ok (s.setX d (BitVec.ofNat 64 (k.status + 2 ^ 8 * k.inject.isSome.toNat + 2 ^ 16 * (k.replay.length % 1024)))))

/-! ### Packets of data flits -/

/-- A packet of another package, as its payload gives it, is taken (R325, 09_memories R159; notes/assumptions/25). -/
def State.takePacket (s : State) (bs : List Byte) : State :=
  let w (o n : Nat) : Nat := ofBytes ((bs.drop o).take n)
  let target := bits (w 0 8) 0 56
  let pkg := BitVec.ofNat 13 (w 8 4)
  let core : CoreId := Fin.ofNat 1024 (w 8 4 / 2 ^ 16)
  let part : Part := Fin.ofNat 8 (w 8 4 / 2 ^ 28)
  let dom : Option (BitVec 16) := if (w 8 4).testBit 31 then some (BitVec.ofNat 16 (w 24 8)) else none
  let data := (bs.drop 32).take (w 12 4 % 256)
  let fn := bits (w 12 4) 8 5
  let tag := BitVec.ofNat 64 (w 16 8)
  match bits (w 0 8) 56 4 with
  | 0 =>
    let write : InWrite :=
      { addr := target, data, srcPkg := pkg, srcCore := core, part, dom, tag, front := false, isEnd := tag.getLsbD 62 }
    if target / 2 ^ 43 ≠ s.pkg then s.answer pkg 3 tag else s.inbound write (writeAck write)
  | 1 =>
    let ticket (adv : Nat) : Ticket :=
      { req := { pkg, core, part, idx := BitVec.ofNat 12 target, word := ofBytes data, adv := BitVec.ofNat 16 adv, tag }, by_ := none }
    if target / 2 ^ 43 ≠ s.pkg then s.answer pkg 3 tag
    else if fn = 29 then s.ticketRequest (ticket 0)
    else if fn = 30 then s.ticketAdvance (ticket (ofBytes data))
    else
      let a : InAtomic :=
        { addr := target, vec := decide (data.length = 32), fn := BitVec.ofNat 5 fn, data, srcPkg := pkg, srcCore := core, part,
          mode := BitVec.ofNat 3 ((Config.freeWord (s.choice 8)).toNat % 5), tag }
      if inRed (target % 2 ^ 43) then s.contribute a else s.takeAtomic a
  | 2 => s.fabricAck tag (BitVec.ofNat 5 (ofBytes data))
  | 3 => s.fabricRefusal tag
  | _ => s

/-! ### Receipt -/

/-- A received flit, as its bytes give it (18_tables R318). -/
structure RxFlit where
  kind    : Nat
  key     : Bool
  inv     : Nat
  seq     : BitVec 32
  ack     : BitVec 32
  payload : List Byte
  deriving DecidableEq, Repr

/-- A flit opened under the key slot that it names; none where it fails: a slot that is not loaded, an INV that is not
new, or a tag that does not verify (R321). -/
def LinkPort.openFlit (k : LinkPort) (f : List Byte) : Option RxFlit :=
  let head := f.take 16
  let w (o n : Nat) : Nat := ofBytes ((head.drop o).take n)
  let key := (w 1 1).testBit 0
  let slot := k.key key
  let inv := w 2 6
  if f.length ≠ 256 ∨ !slot.loaded ∨ inv ≤ slot.rxlast.toNat then none
  else (gcmOpen (keyNumber slot.key) (flitIv slot.rxsalt inv) head ((f.drop 16).take 224) (f.drop 240)).map fun payload =>
    { kind := w 0 1, key, inv, seq := BitVec.ofNat 32 (w 8 4), ack := BitVec.ofNat 32 (w 12 4), payload }
/-- A flit that fails is dropped and NAKed; three in a row raise LINK with SUB 1 (R321). -/
def State.flitFails (s : State) (p : Nat) : State :=
  let k := s.port p
  let t := s.modPort p fun e => { e with lkaf := e.lkaf + 1, nak := true, failed := if e.failed = 2 then 0 else e.failed + 1 }
  if k.failed = 2 then t.raiseEvent (linkCore p) .link 1 (BitVec.ofNat 64 p) else t
/-- Flits below an ACK leave the replay buffer, and a switch ends with its marker (R318, R321, 19_prog_link R326). -/
def LinkPort.acked (k : LinkPort) (ack : BitVec 32) : LinkPort :=
  let keep (f : Flit) : Bool := decide ((f.seq - ack).toNat < 2 ^ 31)
  let rest := k.replay.filter keep
  { k with replay := rest, again := k.again.filter keep, swp := k.swp && rest.any fun f => f.kind == 2 }
/-- An accepted flit sets RXLAST of its slot (R321). -/
def LinkPort.accepted (k : LinkPort) (f : RxFlit) : LinkPort :=
  { k.modKey f.key (fun e => { e with rxlast := BitVec.ofNat 48 f.inv }) with failed := 0 }
/-- The receipt of a flit of a TYPE that `mine` takes: it fails, or goes on (R321). -/
def State.receive (s : State) (p : Port) (f : List Byte) (mine : Nat → Bool) (go : RxFlit → State) : Out :=
  .next (
    if !(s.port p.val).up || !mine (f.headD 0).toNat then s
    else match (s.port p.val).openFlit f with
      | none => s.flitFails p.val
      | some r => go r)
/-- A data flit or marker in SEQ order is accepted; another is dropped and counts for nothing (19_prog_link R326). -/
def State.inOrder (s : State) (p : Port) (r : RxFlit) (go : State → State) : State :=
  if r.seq ≠ (s.port p.val).expect then s
  else go (s.modPort p.val fun k =>
    { (k.accepted r).acked r.ack with expect := k.expect + 1, owed := some (k.owed.getD s.time) })
/-- LINK_DATA_FLIT (19_prog_link R325, R326). DESIGN CHOICE: a flit of a TYPE above 3, which R318 does not name, takes a place in the order
of SEQ as a data flit does, and carries no packet (notes/assumptions/88). -/
def execLinkDataFlit (p : Port) (f : List Byte) (s : State) : Out :=
  s.receive p f (fun t => t == 0 || decide (4 ≤ t)) fun r => s.inOrder p r fun t => if r.kind = 0 then t.takePacket r.payload else t
/-- LINK_MARKER_FLIT (R321). -/
def execLinkMarkerFlit (p : Port) (f : List Byte) (s : State) : Out :=
  s.receive p f (fun t => t == 2) fun r => s.inOrder p r fun t => t.modPort p.val fun k => { k with rxs := !k.rxs }
/-- LINK_ACK_FLIT (19_prog_link R326). -/
def execLinkAckFlit (p : Port) (f : List Byte) (s : State) : Out :=
  s.receive p f (fun t => t == 1) fun r => s.modPort p.val fun k => (k.accepted r).acked r.ack
/-- LINK_NAK_FLIT: its ACK acknowledges what lies below it, and go-back-N starts from there (R318, R321, 19_prog_link R326). -/
def execLinkNakFlit (p : Port) (f : List Byte) (s : State) : Out :=
  s.receive p f (fun t => t == 3) fun r => s.modPort p.val fun k =>
    let k := (k.accepted r).acked r.ack
    { k with again := k.replay }

/-! ### Training and loss -/

/-- LINK_TRAINING: the firmware trains a port (19_prog_link R324, R326, 04_registers R81, 23_system R353, R354). -/
def execLinkTraining (l : TrainedLink) (s : State) : Out :=
  .next (
    if (s.port l.port.val).up || s.boot.recovery then s
    else s.modPort l.port.val fun k => { k with next := 0, wrapped := false, expect := 0, up := true, beyond := l.beyond })
/-- The message that a packet to a mailbox window carries, where it is one that carries a colour (20_counters R333). -/
def Packet.coloured (g : Packet) : Option Msg :=
  let m := windowMsg { addr := g.target.toNat, data := g.data, srcPkg := 0, srcCore := g.core, part := g.part, dom := g.dom, tag := g.tag,
                       front := false, isEnd := false } .none
  if g.kind = 0 ∧ inMbox (g.target.toNat % 2 ^ 43) ∧ m.coloured then some m else none
/-- A packet that has no flit yet leaves by another port that leads toward its package, or is refused, as which a message counts as
received (19_prog_link R324, 20_counters R333). -/
def State.reroute (s : State) (g : Packet) : State :=
  match s.route (g.target.toNat / 2 ^ 43) with
  | some n => s.modPort n fun k => { k with txq := k.txq ++ [g] }
  | none =>
    let t := match g.coloured with
      | some m => s.countRcvd (dieOf g.core.val) m
      | none => s
    if g.kind = 0 ∨ g.kind = 1 then t.fabricRefusal g.tag else t
/-- LINK_LOSS: both key slots are empty, the replay buffer too, UP is 0, and LINK is raised with SUB 2 (R319, R321,
14_queues R250). -/
def execLinkLoss (p : Port) (s : State) : Out :=
  let k := s.port p.val
  .next (
    if !k.up then s
    else
      let lost (e : KeySlot) : KeySlot := { e with key := 0, loaded := false }
      let t := s.modPort p.val fun k =>
        { k with keys := k.keys.map lost, up := false, replay := [], again := [], txq := [], nak := false, owed := none }
      (k.txq.foldl (fun (t : State) g => t.reroute g) t).raiseEvent (linkCore p.val) .link 2 (BitVec.ofNat 64 p.val))

end Sys2Proof.Machine
end

