-- ==== Sys2Proof/Machine/Publish.lean ====
section
/-! DEFINITION. `tlpub`, whose freed records may let a withheld write in, and `crw`, which may give a core more of them (11_matrix R214,
04_registers R76, 09_memories R175). -/

namespace Sys2Proof.Machine

/-- `tlpub` (R214, 08_slots R140). -/
def execTlpub (t : TileH) (s : State) : Out :=
  seq s (do
    s.handle t true
    s.tileWait t .fillingDone
    let k := s.tile s.myId t.val
    s.unlockedRange (s.tileBase s.myId t.val) (64 * k.size + 32)
    let u := (s.publish (s.tileBase s.myId t.val) (64 * k.size)).setBytes s.myId t.val (64 * k.size)
    .ok (u.modTile s.myId t.val fun k => { k with state := .ready }).retryWithheld)

/-- `crw` (04_registers R76); PHBUF may make records for writes that are withheld (09_memories R175). -/
def execCrw (a : XReg) (r : Cr) (s : State) : Out :=
  seq s (do
    check (!privileged r || s.isSup) .priv (BitVec.ofNat 64 (wordCrw a r))
    s.crReady r
    (s.writeCr r (s.x a)).map fun t => if r = .phbuf then t.retryWithheld else t)

end Sys2Proof.Machine
end

