-- ==== Sys2Proof/Machine/Unpack.lean ====
section
/-! DEFINITION. The decompression engine: `dec`, KPC blocks, and ENGINE_ENQUEUE for every engine command (11_matrix
R204, R222-R225, 12_prog_matvec R227). -/

namespace Sys2Proof.Machine

/-! ### KPC blocks -/

/-- The code length of symbol `i` (11_matrix R222). -/
def codeLen (lens : Word) (i : Nat) : Nat := bits lens.toNat (4 * i) 4
/-- The canonical code: length, code and symbol of each symbol that is present (11_matrix R223). -/
def kpcCode (lens : Word) : List (Nat × Nat × Nat) :=
  ((List.range 15).foldl (fun (acc : List (Nat × Nat × Nat) × Nat) l =>
    (List.range 16).foldl (fun (acc : List (Nat × Nat × Nat) × Nat) i =>
      if codeLen lens i = l + 1 then (acc.1 ++ [(l + 1, acc.2, i)], acc.2 + 1) else acc) (acc.1, 2 * acc.2)) ([], 0)).1
/-- The bits of a payload, most significant first (11_matrix R223). -/
def payloadBits (bs : List Byte) (p : Nat) : List Bool :=
  (bs.flatMap fun b => [7, 6, 5, 4, 3, 2, 1, 0].map fun i => b.getLsbD i).take p
/-- Exactly `need` symbols from exactly the bits given; none is a format failure (11_matrix R223). -/
def kpcSymbols (code : List (Nat × Nat × Nat)) : List Bool → Nat → Nat → Nat → Option (List Nat)
  | [], len, _, need => if len = 0 ∧ need = 0 then some [] else none
  | b :: t, len, c, need =>
    if need = 0 then none
    else
      let c' := 2 * c + b.toNat
      match code.find? fun e => e.1 == len + 1 && e.2.1 == c' with
      | some e => (kpcSymbols code t 0 0 (need - 1)).map (e.2.2 :: ·)
      | none => if len + 1 ≥ 15 then none else kpcSymbols code t (len + 1) c' need
/-- The bytes of the symbols, the first nibble high (11_matrix R223). -/
def nibbles : List Nat → List Byte
  | a :: b :: t => BitVec.ofNat 8 (16 * a + b) :: nibbles t
  | _ => []
/-- The decoded bytes of a payload of `p` bits; none is a format failure (11_matrix R223). -/
def kpcDecode (lens : Word) (p size : Nat) (bs : List Byte) : Option (List Byte) :=
  (kpcSymbols (kpcCode lens) (payloadBits bs p) 0 0 (2 * size)).map nibbles
/-- The checks of a header that name nothing else (11_matrix R222). -/
def headerOk (h : Nat) (room : Nat) : Bool :=
  let lens := BitVec.ofNat 64 (bits h 96 64)
  let sum := ((List.range 16).map fun i => if codeLen lens i = 0 then 0 else 2 ^ (15 - codeLen lens i)).sum
  bits h 0 16 == 0x4B50 && bits h 16 8 == 1 && bits h 25 7 == 0 && bits h 32 32 != 0 && bits h 64 32 != 0 &&
  decide (bits h 64 32 ≤ room) && lens != 0 && decide (sum ≤ 2 ^ 15) && bits h 208 48 == 0
/-- The header at offset `off` of a command's source, for a slot (11_matrix R222, R224). -/
def State.readHeader (s : State) (c : Nat) (slot : TileH) (part : Part) (pages : Pages) (src : Word) (limit off : Nat) : Header :=
  if limit < off + 32 then .failed flagDFMT 2
  else
    let (bs, bad) := s.readRange pages (src + BitVec.ofNat 64 off) 32
    let h := ofBytes bs
    let i := bits h 192 16
    let sh := shapeOf (s.num (s.shapeAt part.val i) 32)
    let named := s.shapeOk part.val i .dest sh
    let agrees := sh.size == bits h 64 32
    if bad ≠ [] then .failed flagPOIS 3
    else if !headerOk h (64 * (s.tile c slot.val).size) || !named || !agrees || sh.rowMaj then
      .failed (flagDFMT + if named && !agrees then flagSHAPE else 0) 2
    else .block i { slot, at_ := off, bits := bits h 32 32, size := bits h 64 32, lens := BitVec.ofNat 64 (bits h 96 64),
                    crc := BitVec.ofNat 32 (bits h 160 32), last := bits h 24 1 == 1 }

/-! ### `dec` -/

/-- `dec` (R219, R224). -/
def execDec (t : TileH) (n : KIdx) (s : State) : Out :=
  seq s (do
    s.tenantOnly (wordDec t n)
    s.handle t false
    let ((w0, w1, w2, w3), s) ← s.params n
    let src := BitVec.ofNat 64 w0
    check (w0 % 32 = 0) .align src
    shapeCheck (decide (32 ≤ w1)) 5 0
    shapeCheck (w3 == 0) 5 0
    let pages ← s.pages src .r w1
    let s := s.touchPages src w1
    s.needQueue .dec
    let s ← s.allowance ((w1 + 63) / 64)
    let s := s.modTile s.myId t.val fun e => { e with pend := e.pend + 1 }
    .ok (s.modMyCore fun k => { k with decQ := k.decQ ++ [{ by_ := s.issuer, work := .dec t pages src w1 w2 0 0 none none none }] }))

/-! ### Blocks -/

/-- The head of a core's decompression queue is replaced, or removed with the command's PEND (11_matrix R224). -/
def State.setDecHead (s : State) (c : Nat) (named : TileH) (w : Option Work) : State :=
  match (s.core c).decQ, w with
  | [], _ => s
  | _ :: rest, none => ((s.modCore c fun k => { k.unstall .dec with decQ := rest }).modTile c named.val fun e => { e with pend := e.pend - 1 }).reap c
  | h :: rest, some w => s.modCore c fun k => { k with decQ := { h with work := w } :: rest }
/-- A block's claim of the producer slot: STALL is set (11_matrix R224). -/
def State.claimBlock (s : State) (c : Nat) (named slot : TileH) (stall : Nat) : State :=
  let t := s.claim c named.val id
  t.commitWord (t.statusAt c slot.val 2) (BitVec.ofNat 64 stall)
/-- The block ends in failure: the flags, then EMPTY with ERR (11_matrix R224, R227). -/
def State.failBlock (s : State) (c : Nat) (slot : TileH) (flags err : Nat) : State :=
  (s.orStatus c slot.val flags).modTile c slot.val fun e => { e with state := .empty, err := err }
/-- The heads of the members' queues, in rotation: each reads its next header; one that cannot claim its slot counts stall, and
the first that can starts a block, or ends at a failed header (11_matrix R205, R224, R225). -/
def State.startDec (s : State) (d k : Nat) : List (Fin 8) → State
  | [] => s
  | m :: rest =>
    let c := memberCore d k m.val
    match (s.core c).decQ with
    | { by_, work := .dec named pages src limit blocks off count stall head none } :: _ =>
      let slot : TileH := Fin.ofNat 64 (s.producerSlot c named.val)
      let now := (s.core c).cycle
      let ahead := if head.isNone && decide (off + 32 ≤ limit) then s.pagesLocks pages (src + BitVec.ofNat 64 off) 32 else []
      if s.blocked c .dec ahead then s.stallOn c .dec ahead
      else
        let h := head.getD (s.readHeader c slot by_.part pages src limit off)
        if !(s.tile c slot.val).claimable then
          (s.setDecHead c named (some (.dec named pages src limit blocks off count (some (stall.getD now)) (some h) none))).startDec d k rest
        else if s.blocked c .dec (s.tileLocks c slot.val) then
          (s.setDecHead c named (some (.dec named pages src limit blocks off count stall (some h) none))).stallOn c .dec (s.tileLocks c slot.val)
        else
          let t := ((s.claimBlock c named slot (now - stall.getD now)).modCore c fun e => e.unstall .dec).modCluster d k fun e => { e with decAt := m + 1 }
          (match h with
           | .block i b =>
             if 64 * (s.tile c slot.val).size < b.size then
               ((t.failBlock c slot flagDFMT 2).pulse by_.pop).setDecHead c named none
             else
               (t.modTile c slot.val fun e => { e with shape := i }).setDecHead c named
                 (some (.dec named pages src limit blocks off count none none (some { b with slot })))
           | .failed flags err => ((t.failBlock c slot flags err).pulse by_.pop).setDecHead c named none)
    | _ => s.startDec d k rest
/-- The block that the cluster's engine is decoding: the core and its command. -/
def State.decoding (s : State) (d k : Nat) : Option (Nat × Cmd × DecBlock) :=
  (List.range 8).findSome? fun m =>
    match (s.core (memberCore d k m)).decQ with
    | cmd :: _ =>
      (match cmd.work with
       | .dec _ _ _ _ _ _ _ _ _ (some b) => some (memberCore d k m, cmd, b)
       | _ => none)
    | [] => none
/-- DEC_BLOCK_START (R224, R225). -/
def execDecBlockStart (d : DieId) (k : ClusterId) (s : State) : Out :=
  if s.still then .next s else
  .next (if (s.decoding d.val k.val).isSome then s
         else s.startDec d.val k.val (rotation (s.cluster d.val k.val).decAt))
/-- What a block's payload gives: the bytes with their checksum right, or a failure with its flags, ERR, whether
BYTES is set, and whether the command ends (11_matrix R223, R224). DESIGN CHOICE: of the blocks whose payload fails, one with a wrong
checksum sets BYTES, one that fails with DFMT or POIS does not (12_prog_matvec R227; notes/assumptions/92). -/
def State.readBlock (s : State) (pages : Pages) (src : Word) (limit : Nat) (b : DecBlock) :
    Except (Nat × Nat × Bool × Bool) (List Byte) :=
  let n := (b.bits + 7) / 8
  if limit < b.at_ + 32 + n then .error (flagDFMT, 2, false, true)
  else
    let (bs, bad) := s.readRange pages (src + BitVec.ofNat 64 (b.at_ + 32)) ((n + 7) / 8 * 8)
    if bad ≠ [] then .error (flagPOIS, 3, false, false)
    else match kpcDecode b.lens b.bits b.size bs with
      | none => .error (flagDFMT, 2, false, true)
      | some out => if crc32c out = b.crc.toNat then .ok out else .error (flagCSUM, 1, true, false)
/-- DEC_BLOCK_COMPLETE (R224, R227). -/
def execDecBlockComplete (d : DieId) (k : ClusterId) (s : State) : Out :=
  .next (match s.decoding d.val k.val with
    | some (c, { by_, work := .dec named pages src limit blocks _ count _ _ _ }, b) =>
      let n := (b.bits + 7) / 8
      let locks := s.tileLocks c b.slot.val ++ if b.at_ + 32 + n ≤ limit then s.pagesLocks pages (src + BitVec.ofNat 64 (b.at_ + 32)) n else []
      if s.blocked c .dec locks then s.stallOn c .dec locks
      else
        let next := (b.at_ + 32 + n + 31) / 32 * 32
        let final := b.last || (blocks != 0 && count + 1 == blocks)
        let go (t : State) (ends : Bool) : State :=
          ((t.modCore c fun e => e.unstall .dec).pulse by_.pop).setDecHead c named
            (if ends || final then none else some (.dec named pages src limit blocks next (count + 1) none none none))
        (match s.readBlock pages src limit b with
         | .ok out =>
           go (((s.setBytes c b.slot.val b.size).commitAt (s.tileBase c b.slot.val) out).modTile c b.slot.val fun e =>
             { e with state := .ready }) false
         | .error (flags, err, sized, ends) =>
           go ((if sized then s.setBytes c b.slot.val b.size else s).failBlock c b.slot flags err) ends)
    | _ => s)

/-! ### ENGINE_ENQUEUE -/

/-- The engine command that a word holds, with operands, as its meaning; none where it holds another instruction. -/
def engineMeaning (w : Nat) : Option (State → Out) :=
  let i := if bits w 26 6 = 0x29 then (decodeMtx w).toOption else if bits w 26 6 = 0x2A then (decodeXfer w).toOption else none
  match i with
  | some (.wload u ws n) => some (execWload u ws n)
  | some (.mma t u ws n) => some (execMma t u ws n)
  | some (.mmaz t u ws n) => some (execMmaz t u ws n)
  | some (.wdrop ws) => some (execWdrop ws)
  | some (.tcopyIn t n) => some (execTcopyIn t n)
  | some (.tcopyOut u n) => some (execTcopyOut u n)
  | some (.dec t n) => some (execDec t n)
  | some (.tfill t n) => some (execTfill t n)
  | some (.tconv t u n) => some (execTconv t u n)
  | _ => none
/-- ENGINE_ENQUEUE: the engine command that a slot waits with is enqueued, with its claims, where all that it needs
is there; a pending rollback abandons the wait instead, and a thread whose rollback sequence still waits for acknowledgements enqueues
nothing (R204, 15_messages R283, 17_prog_pipeline R299, R300). -/
def execEngineEnqueue (c : CoreId) (sl : SlotId) (s : State) : Out :=
  let p : Place := { core := c, slot := sl }
  .next (
    if (s.slotAt p).state ≠ .wait ∨ (s.slotAt p).pending.isSome ∨ (s.slotAt p).antiOut ≠ 0 then s
    else
      let u := ({ s with cur := p } : State).modMe fun t => { t with state := .ready }
      match u.fetchAt with
      | .error _ => s
      | .ok q =>
        match engineMeaning (u.num q 4) with
        | none => s
        | some f =>
          match f u with
          | .next v => if (v.slotAt p).state = .wait then s else { v with cur := s.cur }
          | _ => s)

end Sys2Proof.Machine
end

