-- ==== Sys2Proof/Machine/Dispatch.lean ====
section
/-! DEFINITION. The meaning of every constructor of Instr: one arm each, a direct call. -/

namespace Sys2Proof.Machine

/-- The outcome of an instruction of the executing slot, or of a step of the device. -/
def exec (i : Instr) (s : State) : Host.Outcome State Fault Refusal :=
  match i with
  | .nop => Sys2Proof.Machine.execNop s
  | .halt => Sys2Proof.Machine.execHalt s
  | .yield => Sys2Proof.Machine.execYield s
  | .trap a c => Sys2Proof.Machine.execTrap a c s
  | .sret => Sys2Proof.Machine.execSret s
  | .sretHalt => Sys2Proof.Machine.execSretHalt s
  | .sretAbort => Sys2Proof.Machine.execSretAbort s
  | .brk c => Sys2Proof.Machine.execBrk c s
  | .crd d r => Sys2Proof.Machine.execCrd d r s
  | .crw a r => Sys2Proof.Machine.execCrw a r s
  | .tsc d => Sys2Proof.Machine.execTsc d s
  | .fenceCore => Sys2Proof.Machine.execFenceCore s
  | .fenceDie => Sys2Proof.Machine.execFenceDie s
  | .fencePkg => Sys2Proof.Machine.execFencePkg s
  | .fenceDom => Sys2Proof.Machine.execFenceDom s
  | .fenceL => Sys2Proof.Machine.execFenceL s
  | .fenceCb => Sys2Proof.Machine.execFenceCb s
  | .phase => Sys2Proof.Machine.execPhase s
  | .watch a => Sys2Proof.Machine.execWatch a s
  | .waitr d a => Sys2Proof.Machine.execWaitr d a s
  | .valloc n => Sys2Proof.Machine.execValloc n s
  | .vfree => Sys2Proof.Machine.execVfree s
  | .admitTake a => Sys2Proof.Machine.execAdmitTake a s
  | .admitEnd d => Sys2Proof.Machine.execAdmitEnd d s
  | .clkq d a => Sys2Proof.Machine.execClkq d a s
  | .add d a b => Sys2Proof.Machine.execAdd d a b s
  | .sub d a b => Sys2Proof.Machine.execSub d a b s
  | .mul d a b => Sys2Proof.Machine.execMul d a b s
  | .mulh d a b => Sys2Proof.Machine.execMulh d a b s
  | .mulhn d a b => Sys2Proof.Machine.execMulhn d a b s
  | .div d a b => Sys2Proof.Machine.execDiv d a b s
  | .divn d a b => Sys2Proof.Machine.execDivn d a b s
  | .rem d a b => Sys2Proof.Machine.execRem d a b s
  | .remn d a b => Sys2Proof.Machine.execRemn d a b s
  | .and d a b => Sys2Proof.Machine.execAnd d a b s
  | .or d a b => Sys2Proof.Machine.execOr d a b s
  | .xor d a b => Sys2Proof.Machine.execXor d a b s
  | .andn d a b => Sys2Proof.Machine.execAndn d a b s
  | .shl d a b => Sys2Proof.Machine.execShl d a b s
  | .shr d a b => Sys2Proof.Machine.execShr d a b s
  | .sar d a b => Sys2Proof.Machine.execSar d a b s
  | .rol d a b => Sys2Proof.Machine.execRol d a b s
  | .min d a b => Sys2Proof.Machine.execMin d a b s
  | .max d a b => Sys2Proof.Machine.execMax d a b s
  | .minn d a b => Sys2Proof.Machine.execMinn d a b s
  | .maxn d a b => Sys2Proof.Machine.execMaxn d a b s
  | .lea2 d a b => Sys2Proof.Machine.execLea2 d a b s
  | .lea4 d a b => Sys2Proof.Machine.execLea4 d a b s
  | .lea8 d a b => Sys2Proof.Machine.execLea8 d a b s
  | .addw d a b => Sys2Proof.Machine.execAddw d a b s
  | .clz d a => Sys2Proof.Machine.execClz d a s
  | .ctz d a => Sys2Proof.Machine.execCtz d a s
  | .pop d a => Sys2Proof.Machine.execPop d a s
  | .bswap d a => Sys2Proof.Machine.execBswap d a s
  | .sextB d a => Sys2Proof.Machine.execSextB d a s
  | .sextH d a => Sys2Proof.Machine.execSextH d a s
  | .sextW d a => Sys2Proof.Machine.execSextW d a s
  | .zextB d a => Sys2Proof.Machine.execZextB d a s
  | .zextH d a => Sys2Proof.Machine.execZextH d a s
  | .zextW d a => Sys2Proof.Machine.execZextW d a s
  | .mov d a => Sys2Proof.Machine.execMov d a s
  | .bfx d a b => Sys2Proof.Machine.execBfx d a b s
  | .bfi d a b => Sys2Proof.Machine.execBfi d a b s
  | .cmpEq p a b => Sys2Proof.Machine.execCmpEq p a b s
  | .cmpNe p a b => Sys2Proof.Machine.execCmpNe p a b s
  | .cmpLt p a b => Sys2Proof.Machine.execCmpLt p a b s
  | .cmpGe p a b => Sys2Proof.Machine.execCmpGe p a b s
  | .cmpLtn p a b => Sys2Proof.Machine.execCmpLtn p a b s
  | .cmpGen p a b => Sys2Proof.Machine.execCmpGen p a b s
  | .tstZ p a b => Sys2Proof.Machine.execTstZ p a b s
  | .tstNz p a b => Sys2Proof.Machine.execTstNz p a b s
  | .addi d a im => Sys2Proof.Machine.execAddi d a im s
  | .andi d a im => Sys2Proof.Machine.execAndi d a im s
  | .ori d a im => Sys2Proof.Machine.execOri d a im s
  | .xori d a im => Sys2Proof.Machine.execXori d a im s
  | .shli d a n => Sys2Proof.Machine.execShli d a n s
  | .shri d a n => Sys2Proof.Machine.execShri d a n s
  | .sari d a n => Sys2Proof.Machine.execSari d a n s
  | .roli d a n => Sys2Proof.Machine.execRoli d a n s
  | .lui d im => Sys2Proof.Machine.execLui d im s
  | .ldk d n => Sys2Proof.Machine.execLdk d n s
  | .cmpiEq p a im => Sys2Proof.Machine.execCmpiEq p a im s
  | .cmpiNe p a im => Sys2Proof.Machine.execCmpiNe p a im s
  | .cmpiLt p a im => Sys2Proof.Machine.execCmpiLt p a im s
  | .cmpiGe p a im => Sys2Proof.Machine.execCmpiGe p a im s
  | .cmpiLtn p a im => Sys2Proof.Machine.execCmpiLtn p a im s
  | .cmpiGen p a im => Sys2Proof.Machine.execCmpiGen p a im s
  | .pand p a b => Sys2Proof.Machine.execPand p a b s
  | .por p a b => Sys2Proof.Machine.execPor p a b s
  | .pxor p a b => Sys2Proof.Machine.execPxor p a b s
  | .pandn p a b => Sys2Proof.Machine.execPandn p a b s
  | .pnot p a => Sys2Proof.Machine.execPnot p a s
  | .pmov p a => Sys2Proof.Machine.execPmov p a s
  | .sel d a b p => Sys2Proof.Machine.execSel d a b p s
  | .ld t z mem => Sys2Proof.Machine.execLd t z mem s
  | .ldz t z mem => Sys2Proof.Machine.execLdz t z mem s
  | .st t z mem => Sys2Proof.Machine.execSt t z mem s
  | .stp t z mem => Sys2Proof.Machine.execStp t z mem s
  | .amoAdd d a b z => Sys2Proof.Machine.execAmoAdd d a b z s
  | .amoAnd d a b z => Sys2Proof.Machine.execAmoAnd d a b z s
  | .amoOr d a b z => Sys2Proof.Machine.execAmoOr d a b z s
  | .amoXor d a b z => Sys2Proof.Machine.execAmoXor d a b z s
  | .amoMin d a b z => Sys2Proof.Machine.execAmoMin d a b z s
  | .amoMax d a b z => Sys2Proof.Machine.execAmoMax d a b z s
  | .amoMinn d a b z => Sys2Proof.Machine.execAmoMinn d a b z s
  | .amoMaxn d a b z => Sys2Proof.Machine.execAmoMaxn d a b z s
  | .amoSwap d a b z => Sys2Proof.Machine.execAmoSwap d a b z s
  | .cas d a b z => Sys2Proof.Machine.execCas d a b z s
  | .vamoAddI32 v a g => Sys2Proof.Machine.execVamoAddI32 v a g s
  | .vamoMinI32 v a g => Sys2Proof.Machine.execVamoMinI32 v a g s
  | .vamoMaxI32 v a g => Sys2Proof.Machine.execVamoMaxI32 v a g s
  | .vamoMinnN32 v a g => Sys2Proof.Machine.execVamoMinnN32 v a g s
  | .vamoMaxnN32 v a g => Sys2Proof.Machine.execVamoMaxnN32 v a g s
  | .vamoAnd v a g => Sys2Proof.Machine.execVamoAnd v a g s
  | .vamoOr v a g => Sys2Proof.Machine.execVamoOr v a g s
  | .vamoXor v a g => Sys2Proof.Machine.execVamoXor v a g s
  | .vamoAddF32 v a g => Sys2Proof.Machine.execVamoAddF32 v a g s
  | .vamoMinF32 v a g => Sys2Proof.Machine.execVamoMinF32 v a g s
  | .vamoMaxF32 v a g => Sys2Proof.Machine.execVamoMaxF32 v a g s
  | .vamoAddBf16 v a g => Sys2Proof.Machine.execVamoAddBf16 v a g s
  | .br p n im => Sys2Proof.Machine.execBr p n im s
  | .bdec p n a im => Sys2Proof.Machine.execBdec p n a im s
  | .call im => Sys2Proof.Machine.execCall im s
  | .jmp a => Sys2Proof.Machine.execJmp a s
  | .callr a => Sys2Proof.Machine.execCallr a s
  | .ret => Sys2Proof.Machine.execRet s
  | .brst t f im => Sys2Proof.Machine.execBrst t f im s
  | .vaddI32 d a b m => Sys2Proof.Machine.execVaddI32 d a b m s
  | .vsubI32 d a b m => Sys2Proof.Machine.execVsubI32 d a b m s
  | .vmulI32 d a b m => Sys2Proof.Machine.execVmulI32 d a b m s
  | .vmulhI32 d a b m => Sys2Proof.Machine.execVmulhI32 d a b m s
  | .vminI32 d a b m => Sys2Proof.Machine.execVminI32 d a b m s
  | .vmaxI32 d a b m => Sys2Proof.Machine.execVmaxI32 d a b m s
  | .vminnI32 d a b m => Sys2Proof.Machine.execVminnI32 d a b m s
  | .vmaxnI32 d a b m => Sys2Proof.Machine.execVmaxnI32 d a b m s
  | .vandI32 d a b m => Sys2Proof.Machine.execVandI32 d a b m s
  | .vorI32 d a b m => Sys2Proof.Machine.execVorI32 d a b m s
  | .vxorI32 d a b m => Sys2Proof.Machine.execVxorI32 d a b m s
  | .vshlI32 d a b m => Sys2Proof.Machine.execVshlI32 d a b m s
  | .vshrI32 d a b m => Sys2Proof.Machine.execVshrI32 d a b m s
  | .vsarI32 d a b m => Sys2Proof.Machine.execVsarI32 d a b m s
  | .vabsI32 d a m => Sys2Proof.Machine.execVabsI32 d a m s
  | .vnegI32 d a m => Sys2Proof.Machine.execVnegI32 d a m s
  | .vaddsI32 d a b m => Sys2Proof.Machine.execVaddsI32 d a b m s
  | .vsubsI32 d a b m => Sys2Proof.Machine.execVsubsI32 d a b m s
  | .vaddF32 d a b m => Sys2Proof.Machine.execVaddF32 d a b m s
  | .vsubF32 d a b m => Sys2Proof.Machine.execVsubF32 d a b m s
  | .vmulF32 d a b m => Sys2Proof.Machine.execVmulF32 d a b m s
  | .vdivF32 d a b m => Sys2Proof.Machine.execVdivF32 d a b m s
  | .vsqrtF32 d a m => Sys2Proof.Machine.execVsqrtF32 d a m s
  | .vminF32 d a b m => Sys2Proof.Machine.execVminF32 d a b m s
  | .vmaxF32 d a b m => Sys2Proof.Machine.execVmaxF32 d a b m s
  | .vabsF32 d a m => Sys2Proof.Machine.execVabsF32 d a m s
  | .vnegF32 d a m => Sys2Proof.Machine.execVnegF32 d a m s
  | .vrcpF32 d a m => Sys2Proof.Machine.execVrcpF32 d a m s
  | .vrsqrtF32 d a m => Sys2Proof.Machine.execVrsqrtF32 d a m s
  | .vexp2F32 d a m => Sys2Proof.Machine.execVexp2F32 d a m s
  | .vlog2F32 d a m => Sys2Proof.Machine.execVlog2F32 d a m s
  | .vfloorF32 d a m => Sys2Proof.Machine.execVfloorF32 d a m s
  | .vceilF32 d a m => Sys2Proof.Machine.execVceilF32 d a m s
  | .vrintF32 d a m => Sys2Proof.Machine.execVrintF32 d a m s
  | .vaddH d a b m t => Sys2Proof.Machine.execVaddH d a b m t s
  | .vsubH d a b m t => Sys2Proof.Machine.execVsubH d a b m t s
  | .vmulH d a b m t => Sys2Proof.Machine.execVmulH d a b m t s
  | .vminH d a b m t => Sys2Proof.Machine.execVminH d a b m t s
  | .vmaxH d a b m t => Sys2Proof.Machine.execVmaxH d a b m t s
  | .vabsH d a m t => Sys2Proof.Machine.execVabsH d a m t s
  | .vnegH d a m t => Sys2Proof.Machine.execVnegH d a m t s
  | .vaddD d a b m t => Sys2Proof.Machine.execVaddD d a b m t s
  | .vsubD d a b m t => Sys2Proof.Machine.execVsubD d a b m t s
  | .vmulD d a b m t => Sys2Proof.Machine.execVmulD d a b m t s
  | .vdivF64 d a b m => Sys2Proof.Machine.execVdivF64 d a b m s
  | .vsqrtF64 d a m => Sys2Proof.Machine.execVsqrtF64 d a m s
  | .vminD d a b m t => Sys2Proof.Machine.execVminD d a b m t s
  | .vmaxD d a b m t => Sys2Proof.Machine.execVmaxD d a b m t s
  | .vfma d a b c t => Sys2Proof.Machine.execVfma d a b c t s
  | .vcmpEq e a b m t => Sys2Proof.Machine.execVcmpEq e a b m t s
  | .vcmpNe e a b m t => Sys2Proof.Machine.execVcmpNe e a b m t s
  | .vcmpLt e a b m t => Sys2Proof.Machine.execVcmpLt e a b m t s
  | .vcmpGe e a b m t => Sys2Proof.Machine.execVcmpGe e a b m t s
  | .vcmpLtn e a b m => Sys2Proof.Machine.execVcmpLtn e a b m s
  | .vcmpGen e a b m => Sys2Proof.Machine.execVcmpGen e a b m s
  | .vcmpUnord e a b m t => Sys2Proof.Machine.execVcmpUnord e a b m t s
  | .vcmpOrd e a b m t => Sys2Proof.Machine.execVcmpOrd e a b m t s
  | .vld v a m n => Sys2Proof.Machine.execVld v a m n s
  | .vst v a m n => Sys2Proof.Machine.execVst v a m n s
  | .vlds v a x m n => Sys2Proof.Machine.execVlds v a x m n s
  | .vsts v a x m n => Sys2Proof.Machine.execVsts v a x m n s
  | .vgath v a im m n => Sys2Proof.Machine.execVgath v a im m n s
  | .vscat v a im m n => Sys2Proof.Machine.execVscat v a im m n s
  | .vbcast d w a m => Sys2Proof.Machine.execVbcast d w a m s
  | .vextr w x a l => Sys2Proof.Machine.execVextr w x a l s
  | .vins d w a l => Sys2Proof.Machine.execVins d w a l s
  | .vredAddF32 d a m => Sys2Proof.Machine.execVredAddF32 d a m s
  | .vredMaxF32 d a m => Sys2Proof.Machine.execVredMaxF32 d a m s
  | .vredAddI32 d a m => Sys2Proof.Machine.execVredAddI32 d a m s
  | .vredMaxI32 d a m => Sys2Proof.Machine.execVredMaxI32 d a m s
  | .vperm d a b m => Sys2Proof.Machine.execVperm d a b m s
  | .vsel d a b m => Sys2Proof.Machine.execVsel d a b m s
  | .vcvt d a c m => Sys2Proof.Machine.execVcvt d a c m s
  | .vunpk d a n f => Sys2Proof.Machine.execVunpk d a n f s
  | .vpack d a n f => Sys2Proof.Machine.execVpack d a n f s
  | .baddq d a b f => Sys2Proof.Machine.execBaddq d a b f s
  | .vmov d a m => Sys2Proof.Machine.execVmov d a m s
  | .viota d m => Sys2Proof.Machine.execViota d m s
  | .tldef t n => Sys2Proof.Machine.execTldef t n s
  | .tlring t u n => Sys2Proof.Machine.execTlring t u n s
  | .tlwaitR t => Sys2Proof.Machine.execTlwaitR t s
  | .tlwaitE t => Sys2Proof.Machine.execTlwaitE t s
  | .tlcons t => Sys2Proof.Machine.execTlcons t s
  | .tlstat t d => Sys2Proof.Machine.execTlstat t d s
  | .tlfree t => Sys2Proof.Machine.execTlfree t s
  | .tlpub t => Sys2Proof.Machine.execTlpub t s
  | .tlopen t => Sys2Proof.Machine.execTlopen t s
  | .wload u w n => Sys2Proof.Machine.execWload u w n s
  | .mma t u w n => Sys2Proof.Machine.execMma t u w n s
  | .mmaz t u w n => Sys2Proof.Machine.execMmaz t u w n s
  | .wdrop w => Sys2Proof.Machine.execWdrop w s
  | .tcopyIn t n => Sys2Proof.Machine.execTcopyIn t n s
  | .tcopyOut u n => Sys2Proof.Machine.execTcopyOut u n s
  | .dec t n => Sys2Proof.Machine.execDec t n s
  | .tfill t n => Sys2Proof.Machine.execTfill t n s
  | .tconv t u n => Sys2Proof.Machine.execTconv t u n s
  | .gcopy r w d => Sys2Proof.Machine.execGcopy r w d s
  | .gsend r w d => Sys2Proof.Machine.execGsend r w d s
  | .gcmp r w d => Sys2Proof.Machine.execGcmp r w d s
  | .ghash r w d => Sys2Proof.Machine.execGhash r w d s
  | .grel r w d => Sys2Proof.Machine.execGrel r w d s
  | .oalloc r w d => Sys2Proof.Machine.execOalloc r w d s
  | .lmdef r => Sys2Proof.Machine.execLmdef r s
  | .gland r w d => Sys2Proof.Machine.execGland r w d s
  | .send a b v m p => Sys2Proof.Machine.execSend a b v m p s
  | .recv a v m => Sys2Proof.Machine.execRecv a v m s
  | .recvSet a b v => Sys2Proof.Machine.execRecvSet a b v s
  | .peek a v m => Sys2Proof.Machine.execPeek a v m s
  | .peekSet a b v => Sys2Proof.Machine.execPeekSet a b v s
  | .req a b v m p => Sys2Proof.Machine.execReq a b v m p s
  | .mbxdef a m => Sys2Proof.Machine.execMbxdef a m s
  | .mbxq a m => Sys2Proof.Machine.execMbxq a m s
  | .evend => Sys2Proof.Machine.execEvend s
  | .vtgetLvt d => Sys2Proof.Machine.execVtgetLvt d s
  | .vtgetGvt d => Sys2Proof.Machine.execVtgetGvt d s
  | .vtgetEvid d => Sys2Proof.Machine.execVtgetEvid d s
  | .escst d a => Sys2Proof.Machine.execEscst d a s
  | .escwait => Sys2Proof.Machine.execEscwait s
  | .tasknew d a b => Sys2Proof.Machine.execTasknew d a b s
  | .taskdec a => Sys2Proof.Machine.execTaskdec a s
  | .barnew d a => Sys2Proof.Machine.execBarnew d a s
  | .bararr d a => Sys2Proof.Machine.execBararr d a s
  | .barwait a b => Sys2Proof.Machine.execBarwait a b s
  | .bararw d a => Sys2Proof.Machine.execBararw d a s
  | .barfree a => Sys2Proof.Machine.execBarfree a s
  | .spawn d a b => Sys2Proof.Machine.execSpawn d a b s
  | .migr d a => Sys2Proof.Machine.execMigr d a s
  | .slotq d a => Sys2Proof.Machine.execSlotq d a s
  | .tkget a b => Sys2Proof.Machine.execTkget a b s
  | .tkwait d a => Sys2Proof.Machine.execTkwait d a s
  | .tkdone a b => Sys2Proof.Machine.execTkdone a b s
  | .fdrain d => Sys2Proof.Machine.execFdrain d s
  | .lkey d a n p => Sys2Proof.Machine.execLkey d a n p s
  | .lksw d p => Sys2Proof.Machine.execLksw d p s
  | .lkinj a p => Sys2Proof.Machine.execLkinj a p s
  | .lkstat d p => Sys2Proof.Machine.execLkstat d p s
  | .ctxsave d a => Sys2Proof.Machine.execCtxsave d a s
  | .ctxsaveEvict d a => Sys2Proof.Machine.execCtxsaveEvict d a s
  | .ctxload d a => Sys2Proof.Machine.execCtxload d a s
  | .ctxkeyNew d a => Sys2Proof.Machine.execCtxkeyNew d a s
  | .ctxkeySel a => Sys2Proof.Machine.execCtxkeySel a s
  | .ctxkeyBind d a => Sys2Proof.Machine.execCtxkeyBind d a s
  | .ctxkeyFree a => Sys2Proof.Machine.execCtxkeyFree a s
  | .shdef d a => Sys2Proof.Machine.execShdef d a s
  | .xinvStart d v => Sys2Proof.Machine.execXinvStart d v s
  | .xinvDone d => Sys2Proof.Machine.execXinvDone d s
  | .clklWrite v => Sys2Proof.Machine.execClklWrite v s
  | .tsWrite c sl opt => Sys2Proof.Machine.execTsWrite c sl opt s
  | .phaseComplete pop => Sys2Proof.Machine.execPhaseComplete pop s
  | .engineEnqueue c sl => Sys2Proof.Machine.execEngineEnqueue c sl s
  | .matrixArbiterPass d k => Sys2Proof.Machine.execMatrixArbiterPass d k s
  | .wloadComplete d k => Sys2Proof.Machine.execWloadComplete d k s
  | .wdropExecute d k => Sys2Proof.Machine.execWdropExecute d k s
  | .matrixCommandComplete d k => Sys2Proof.Machine.execMatrixCommandComplete d k s
  | .copyCommandComplete d k => Sys2Proof.Machine.execCopyCommandComplete d k s
  | .decBlockStart d k => Sys2Proof.Machine.execDecBlockStart d k s
  | .decBlockComplete d k => Sys2Proof.Machine.execDecBlockComplete d k s
  | .mintStep c sl => Sys2Proof.Machine.execMintStep c sl s
  | .mintStopPoint c sl => Sys2Proof.Machine.execMintStopPoint c sl s
  | .gsendFinish c sl => Sys2Proof.Machine.execGsendFinish c sl s
  | .zoneWriteAccept w => Sys2Proof.Machine.execZoneWriteAccept w s
  | .zoneEndWrite w => Sys2Proof.Machine.execZoneEndWrite w s
  | .zoneComplete c z => Sys2Proof.Machine.execZoneComplete c z s
  | .messageArrival n => Sys2Proof.Machine.execMessageArrival n s
  | .antiMessageArrival n => Sys2Proof.Machine.execAntiMessageArrival n s
  | .rollback c sl => Sys2Proof.Machine.execRollback c sl s
  | .clearingCut r => Sys2Proof.Machine.execClearingCut r s
  | .clearingRoundClose dom ext => Sys2Proof.Machine.execClearingRoundClose dom ext s
  | .gvtPublish d => Sys2Proof.Machine.execGvtPublish d s
  | .taskDecrement n => Sys2Proof.Machine.execTaskDecrement n s
  | .taskStart c => Sys2Proof.Machine.execTaskStart c s
  | .stageHandlerStart c mb => Sys2Proof.Machine.execStageHandlerStart c mb s
  | .migrationArrival n => Sys2Proof.Machine.execMigrationArrival n s
  | .ticketRequest r => Sys2Proof.Machine.execTicketRequest r s
  | .ticketAdvance r => Sys2Proof.Machine.execTicketAdvance r s
  | .flitSeal p => Sys2Proof.Machine.execFlitSeal p s
  | .linkDataFlit p f => Sys2Proof.Machine.execLinkDataFlit p f s
  | .linkMarkerFlit p f => Sys2Proof.Machine.execLinkMarkerFlit p f s
  | .linkAckFlit p f => Sys2Proof.Machine.execLinkAckFlit p f s
  | .linkNakFlit p f => Sys2Proof.Machine.execLinkNakFlit p f s
  | .linkAckTimeout p => Sys2Proof.Machine.execLinkAckTimeout p s
  | .linkTraining l => Sys2Proof.Machine.execLinkTraining l s
  | .linkLoss p => Sys2Proof.Machine.execLinkLoss p s
  | .waitWake c sl => Sys2Proof.Machine.execWaitWake c sl s
  | .trapDelivery c => Sys2Proof.Machine.execTrapDelivery c s
  | .supervisorRestart c => Sys2Proof.Machine.execSupervisorRestart c s
  | .timerDeadline c => Sys2Proof.Machine.execTimerDeadline c s
  | .watchdog c im => Sys2Proof.Machine.execWatchdog c im s
  | .bankLockStore c mask => Sys2Proof.Machine.execBankLockStore c mask s
  | .bankLockTimeout c => Sys2Proof.Machine.execBankLockTimeout c s
  | .rotStore c v => Sys2Proof.Machine.execRotStore c v s
  | .slotRotation c sl => Sys2Proof.Machine.execSlotRotation c sl s
  | .relocStore c v => Sys2Proof.Machine.execRelocStore c v s
  | .relocationComplete c => Sys2Proof.Machine.execRelocationComplete c s
  | .fwdExpiry c => Sys2Proof.Machine.execFwdExpiry c s
  | .inboundFabricWrite w => Sys2Proof.Machine.execInboundFabricWrite w s
  | .fabricAck tag flags => Sys2Proof.Machine.execFabricAck tag flags s
  | .fabricRefusal tag => Sys2Proof.Machine.execFabricRefusal tag s
  | .postedAtomic a => Sys2Proof.Machine.execPostedAtomic a s
  | .reductionContribution a => Sys2Proof.Machine.execReductionContribution a s
  | .reductionResultApply n => Sys2Proof.Machine.execReductionResultApply n s
  | .ringNotify r part => Sys2Proof.Machine.execRingNotify r part s
  | .mapperMapPending => Sys2Proof.Machine.execMapperMapPending s
  | .ringDefine r v => Sys2Proof.Machine.execRingDefine r v s
  | .recordAccept q => Sys2Proof.Machine.execRecordAccept q s
  | .launch q => Sys2Proof.Machine.execLaunch q s
  | .populationPlacement q => Sys2Proof.Machine.execPopulationPlacement q s
  | .waitq q => Sys2Proof.Machine.execWaitq q s
  | .signal q => Sys2Proof.Machine.execSignal q s
  | .mark q => Sys2Proof.Machine.execMark q s
  | .populationFinish pop => Sys2Proof.Machine.execPopulationFinish pop s
  | .kdaWrite g => Sys2Proof.Machine.execKdaWrite g s
  | .kdaRingput g => Sys2Proof.Machine.execKdaRingput g s
  | .kdaNotify g => Sys2Proof.Machine.execKdaNotify g s
  | .kdaAck g => Sys2Proof.Machine.execKdaAck g s
  | .kdaNak g => Sys2Proof.Machine.execKdaNak g s
  | .kdaRetransmit p id => Sys2Proof.Machine.execKdaRetransmit p id s
  | .kdaRateRaise p => Sys2Proof.Machine.execKdaRateRaise p s
  | .kdaTransmit p => Sys2Proof.Machine.execKdaTransmit p s
  | .treasuryRefill d => Sys2Proof.Machine.execTreasuryRefill d s
  | .groupReqStore v => Sys2Proof.Machine.execGroupReqStore v s
  | .groupLimit g => Sys2Proof.Machine.execGroupLimit g s
  | .groupAck g => Sys2Proof.Machine.execGroupAck g s
  | .groupJoin g => Sys2Proof.Machine.execGroupJoin g s
  | .groupLeave g => Sys2Proof.Machine.execGroupLeave g s
  | .groupBeat g => Sys2Proof.Machine.execGroupBeat g s
  | .beatSend => Sys2Proof.Machine.execBeatSend s
  | .memberSilent pkg => Sys2Proof.Machine.execMemberSilent pkg s
  | .memberExpel pkg => Sys2Proof.Machine.execMemberExpel pkg s
  | .ceilingChange d => Sys2Proof.Machine.execCeilingChange d s
  | .membershipEffect => Sys2Proof.Machine.execMembershipEffect s
  | .packageReset => Sys2Proof.Machine.execPackageReset s
  | .recoveryImage fw => Sys2Proof.Machine.execRecoveryImage fw s
  | .partitionReset p => Sys2Proof.Machine.execPartitionReset p s
  | .syscallDoorbell v => Sys2Proof.Machine.execSyscallDoorbell v s
  | .syscallReply v => Sys2Proof.Machine.execSyscallReply v s
  | .eventBlockClear e v => Sys2Proof.Machine.execEventBlockClear e v s
  | .vaultSoftError c word fatal => Sys2Proof.Machine.execVaultSoftError c word fatal s
  | .serviceDataError p => Sys2Proof.Machine.execServiceDataError p s
  | .warmRestartComplete => Sys2Proof.Machine.execWarmRestartComplete s
  | .restartTimeout => Sys2Proof.Machine.execRestartTimeout s
  | .coreRetirement c => Sys2Proof.Machine.execCoreRetirement c s
  | .pageRetirement page failed spare => Sys2Proof.Machine.execPageRetirement page failed spare s
  | .thermalHold => Sys2Proof.Machine.execThermalHold s
  | .thermalResume => Sys2Proof.Machine.execThermalResume s
  | .illegalInstruction w => Sys2Proof.Machine.execIllegalInstruction w s
  | .instructionFetchFault => Sys2Proof.Machine.execInstructionFetchFault s
  | .timeStampCounterTick d n => Sys2Proof.Machine.execTimeStampCounterTick d n s
  | .thermalPowerLimitChange mhz => Sys2Proof.Machine.execThermalPowerLimitChange mhz s
  | .spdmMeasurementRequest => Sys2Proof.Machine.execSpdmMeasurementRequest s

end Sys2Proof.Machine
end

