-- ==== Sys2Proof/Machine/Run.lean ====
section
/-! DEFINITION. The decoder and the meanings in one pass, in a form that Lean compiles: its compiled code builds no
more than 245 constructors of one inductive, so the later majors call their meanings without the term. `runWord_eq`
shows it equal to decoding and executing. -/

namespace Sys2Proof.Machine

/-- A meaning, or why there is none. -/
abbrev Meaning := Except DecodeError (State → Out)

/-- The meaning `f` where the fixed fields of its word hold what they must. -/
def needRun (c : Prop) [Decidable c] (f : State → Out) : Meaning := if c then .ok f else .error .nonzeroField

/-- The operations of major 0x33 (R41). -/
def runTask (wd : Nat) : Meaning :=
  match bits wd 8 5 with
  | 0 => (opB wd).bind fun b => .ok (execTasknew (Fin.ofNat 16 (bits wd 22 4)) (Fin.ofNat 16 (bits wd 18 4)) b)
  | 1 => needRun (bits wd 0 8 = 0 ∧ bits wd 13 5 = 0 ∧ bits wd 22 4 = 0) (execTaskdec (Fin.ofNat 16 (bits wd 18 4)))
  | _ => .error .reservedFunction

/-- The operations of major 0x34 (R41). -/
def runBar (wd : Nat) : Meaning :=
  match bits wd 8 5 with
  | 0 => needRun (bits wd 0 8 = 0 ∧ bits wd 13 5 = 0) (execBarnew (Fin.ofNat 16 (bits wd 22 4)) (Fin.ofNat 16 (bits wd 18 4)))
  | 1 => needRun (bits wd 0 8 = 0 ∧ bits wd 13 5 = 0) (execBararr (Fin.ofNat 16 (bits wd 22 4)) (Fin.ofNat 16 (bits wd 18 4)))
  | 2 => (opB wd).bind fun b => needRun (bits wd 22 4 = 0) (execBarwait (Fin.ofNat 16 (bits wd 18 4)) b)
  | 3 => needRun (bits wd 0 8 = 0 ∧ bits wd 13 5 = 0) (execBararw (Fin.ofNat 16 (bits wd 22 4)) (Fin.ofNat 16 (bits wd 18 4)))
  | 4 => needRun (bits wd 0 8 = 0 ∧ bits wd 13 5 = 0 ∧ bits wd 22 4 = 0) (execBarfree (Fin.ofNat 16 (bits wd 18 4)))
  | _ => .error .reservedFunction

/-- The operations of major 0x35 (R41). -/
def runThr (wd : Nat) : Meaning :=
  match bits wd 8 5 with
  | 0 => (opB wd).bind fun b => .ok (execSpawn (Fin.ofNat 16 (bits wd 22 4)) (Fin.ofNat 16 (bits wd 18 4)) b)
  | 1 => needRun (bits wd 0 8 = 0 ∧ bits wd 13 5 = 0) (execMigr (Fin.ofNat 16 (bits wd 22 4)) (Fin.ofNat 16 (bits wd 18 4)))
  | 2 => needRun (bits wd 0 8 = 0 ∧ bits wd 13 5 = 0) (execSlotq (Fin.ofNat 16 (bits wd 22 4)) (Fin.ofNat 16 (bits wd 18 4)))
  | _ => .error .reservedFunction

/-- The operations of major 0x36 (R41). -/
def runFab (wd : Nat) : Meaning :=
  match bits wd 8 5 with
  | 0 => needRun (bits wd 0 8 = 0 ∧ bits wd 13 1 = 0 ∧ bits wd 22 4 = 0) (execTkget (Fin.ofNat 16 (bits wd 18 4)) (Fin.ofNat 16 (bits wd 14 4)))
  | 1 => needRun (bits wd 0 8 = 0 ∧ bits wd 13 5 = 0) (execTkwait (Fin.ofNat 16 (bits wd 22 4)) (Fin.ofNat 16 (bits wd 18 4)))
  | 2 => (opB wd).bind fun b => needRun (bits wd 22 4 = 0) (execTkdone (Fin.ofNat 16 (bits wd 18 4)) b)
  | 3 => needRun (bits wd 0 8 = 0 ∧ bits wd 13 9 = 0) (execFdrain (Fin.ofNat 16 (bits wd 22 4)))
  | _ => .error .reservedFunction

/-- The operations of major 0x37 (R41). -/
def runLink (wd : Nat) : Meaning :=
  match bits wd 0 6 with
  | 0 => needRun (bits wd 11 7 = 0) (execLkey (Fin.ofNat 16 (bits wd 22 4)) (Fin.ofNat 16 (bits wd 18 4)) (Fin.ofNat 2 (bits wd 10 1)) (Fin.ofNat 16 (bits wd 6 4)))
  | 1 => needRun (bits wd 10 12 = 0) (execLksw (Fin.ofNat 16 (bits wd 22 4)) (Fin.ofNat 16 (bits wd 6 4)))
  | 2 => needRun (bits wd 10 8 = 0 ∧ bits wd 22 4 = 0) (execLkinj (Fin.ofNat 16 (bits wd 18 4)) (Fin.ofNat 16 (bits wd 6 4)))
  | 3 => needRun (bits wd 10 12 = 0) (execLkstat (Fin.ofNat 16 (bits wd 22 4)) (Fin.ofNat 16 (bits wd 6 4)))
  | _ => .error .reservedFunction

/-- The operations of major 0x38 (R41). -/
def runCtx (wd : Nat) : Meaning :=
  match bits wd 0 6 with
  | 0 => match bits wd 6 12 with
    | 0 => .ok (execCtxsave (Fin.ofNat 16 (bits wd 22 4)) (Fin.ofNat 16 (bits wd 18 4)))
    | 1 => .ok (execCtxsaveEvict (Fin.ofNat 16 (bits wd 22 4)) (Fin.ofNat 16 (bits wd 18 4)))
    | _ => .error .reservedSelector
  | 1 => needRun (bits wd 6 12 = 0) (execCtxload (Fin.ofNat 16 (bits wd 22 4)) (Fin.ofNat 16 (bits wd 18 4)))
  | 2 => match bits wd 6 12 with
    | 0 => .ok (execCtxkeyNew (Fin.ofNat 16 (bits wd 22 4)) (Fin.ofNat 16 (bits wd 18 4)))
    | 1 => needRun (bits wd 22 4 = 0) (execCtxkeySel (Fin.ofNat 16 (bits wd 18 4)))
    | 2 => .ok (execCtxkeyBind (Fin.ofNat 16 (bits wd 22 4)) (Fin.ofNat 16 (bits wd 18 4)))
    | 3 => needRun (bits wd 22 4 = 0) (execCtxkeyFree (Fin.ofNat 16 (bits wd 18 4)))
    | _ => .error .reservedSelector
  | 3 => needRun (bits wd 6 12 = 0) (execShdef (Fin.ofNat 16 (bits wd 22 4)) (Fin.ofNat 16 (bits wd 18 4)))
  | _ => .error .reservedFunction

/-- The meaning of a word of the majors below 0x33. -/
def runLow (wd : Nat) : Meaning :=
  (decodeLow wd).bind fun i => if i.wellFormed then .ok (exec i) else .error .pairing

/-- The meaning of a word. -/
def runWord (wd : Nat) : Meaning :=
  match bits wd 26 6 with
  | 51 => runTask wd
  | 52 => runBar wd
  | 53 => runThr wd
  | 54 => runFab wd
  | 55 => runLink wd
  | 56 => runCtx wd
  | _ => runLow wd

/-! ### The one pass is decoding and executing -/

theorem need_run (c : Prop) [Decidable c] (i : Instr) : (need c i).map exec = needRun c (exec i) := by
  by_cases h : c <;> simp [need, needRun, h, Except.map]

theorem map_bind {α : Type} (o : Except DecodeError α) (f : α → Except DecodeError Instr) :
    (o.bind f).map exec = o.bind fun a => (f a).map exec := by
  cases o <;> rfl

theorem runTask_eq (wd : Nat) : (decodeTask wd).map exec = runTask wd := by
  unfold decodeTask runTask; generalize bits wd 8 5 = n
  rcases n with _ | _ | n <;>
    first
    | rfl
    | exact need_run _ _
    | exact (map_bind _ _).trans (congrArg _ (funext fun b => need_run _ _))
    | exact map_bind _ _

theorem runBar_eq (wd : Nat) : (decodeBar wd).map exec = runBar wd := by
  unfold decodeBar runBar; generalize bits wd 8 5 = n
  rcases n with _ | _ | _ | _ | _ | n <;>
    first
    | rfl
    | exact need_run _ _
    | exact (map_bind _ _).trans (congrArg _ (funext fun b => need_run _ _))
    | exact map_bind _ _

theorem runThr_eq (wd : Nat) : (decodeThr wd).map exec = runThr wd := by
  unfold decodeThr runThr; generalize bits wd 8 5 = n
  rcases n with _ | _ | _ | n <;>
    first
    | rfl
    | exact need_run _ _
    | exact (map_bind _ _).trans (congrArg _ (funext fun b => need_run _ _))
    | exact map_bind _ _

theorem runFab_eq (wd : Nat) : (decodeFab wd).map exec = runFab wd := by
  unfold decodeFab runFab; generalize bits wd 8 5 = n
  rcases n with _ | _ | _ | _ | n <;>
    first
    | rfl
    | exact need_run _ _
    | exact (map_bind _ _).trans (congrArg _ (funext fun b => need_run _ _))
    | exact map_bind _ _

theorem runLink_eq (wd : Nat) : (decodeLink wd).map exec = runLink wd := by
  unfold decodeLink runLink; generalize bits wd 0 6 = n
  rcases n with _ | _ | _ | _ | n <;>
    first
    | rfl
    | exact need_run _ _
    | exact (map_bind _ _).trans (congrArg _ (funext fun b => need_run _ _))
    | exact map_bind _ _

theorem runCtx_eq (wd : Nat) : (decodeCtx wd).map exec = runCtx wd := by
  unfold decodeCtx runCtx; generalize bits wd 0 6 = n, bits wd 6 12 = k
  rcases n with _ | _ | _ | _ | n <;> rcases k with _ | _ | _ | _ | k <;> first | rfl | exact need_run _ _

/-- Every instruction of the majors above 0x32 is well formed. -/
def Free (o : Except DecodeError Instr) : Prop := ∀ i, o = .ok i → i.wellFormed = true

theorem free_need (c : Prop) [Decidable c] (i : Instr) (h : i.wellFormed = true) : Free (need c i) := by
  intro j hj
  by_cases hc : c
  · rw [need, if_pos hc] at hj; injection hj with hj; exact hj ▸ h
  · rw [need, if_neg hc] at hj; cases hj

theorem free_ok (i : Instr) (h : i.wellFormed = true) : Free (.ok i) := by
  intro j hj; injection hj with hj; exact hj ▸ h

theorem free_error (e : DecodeError) : Free (.error e) := by intro j hj; cases hj

theorem free_bind {α : Type} (o : Except DecodeError α) (f : α → Except DecodeError Instr) (h : ∀ a, Free (f a)) :
    Free (o.bind f) := by
  cases o with
  | error e => exact free_error e
  | ok a => exact h a

theorem free_task (wd : Nat) : Free (decodeTask wd) := by
  unfold decodeTask
  split
  · exact free_bind _ _ fun b => free_ok _ rfl
  · exact free_need _ _ rfl
  · exact free_error _

theorem free_bar (wd : Nat) : Free (decodeBar wd) := by
  unfold decodeBar
  split
  · exact free_need _ _ rfl
  · exact free_need _ _ rfl
  · exact free_bind _ _ fun b => free_need _ _ rfl
  · exact free_need _ _ rfl
  · exact free_need _ _ rfl
  · exact free_error _

theorem free_thr (wd : Nat) : Free (decodeThr wd) := by
  unfold decodeThr
  split
  · exact free_bind _ _ fun b => free_ok _ rfl
  · exact free_need _ _ rfl
  · exact free_need _ _ rfl
  · exact free_error _

theorem free_fab (wd : Nat) : Free (decodeFab wd) := by
  unfold decodeFab
  split
  · exact free_need _ _ rfl
  · exact free_need _ _ rfl
  · exact free_bind _ _ fun b => free_need _ _ rfl
  · exact free_need _ _ rfl
  · exact free_error _

theorem free_link (wd : Nat) : Free (decodeLink wd) := by
  unfold decodeLink
  split <;> first | exact free_need _ _ rfl | exact free_error _

theorem free_ctx (wd : Nat) : Free (decodeCtx wd) := by
  unfold decodeCtx
  split <;> (try split) <;> first | exact free_need _ _ rfl | exact free_ok _ rfl | exact free_error _

/-- Checking and executing an instruction that is well formed is executing it. -/
theorem Free.run {o : Except DecodeError Instr} (h : Free o) :
    (o.bind fun i => if i.wellFormed then .ok i else .error .pairing).map exec = o.map exec := by
  cases o with
  | error e => rfl
  | ok i => simp [Except.bind, Except.map, h i rfl]

theorem runLow_eq (wd : Nat) :
    ((decodeLow wd).bind fun i => if i.wellFormed then .ok i else .error .pairing).map exec = runLow wd := by
  unfold runLow
  cases decodeLow wd with
  | error e => rfl
  | ok i => cases h : i.wellFormed <;> simp [Except.bind, Except.map, h]

/-- Decoding a word and executing its instruction is the one pass. -/
theorem runWord_eq (w : BitVec 32) : (decode w).map exec = runWord w.toNat := by
  unfold decode decodeFields runWord
  generalize bits w.toNat 26 6 = n
  split
  · rw [(free_task _).run, runTask_eq] <;> rfl
  · rw [(free_bar _).run, runBar_eq] <;> rfl
  · rw [(free_thr _).run, runThr_eq] <;> rfl
  · rw [(free_fab _).run, runFab_eq] <;> rfl
  · rw [(free_link _).run, runLink_eq] <;> rfl
  · rw [(free_ctx _).run, runCtx_eq] <;> rfl
  · first | exact runLow_eq _ | (split <;> first | exact runLow_eq _ | simp_all)

end Sys2Proof.Machine
end

