-- ==== Sys2Proof/Machine/Step.lean ====
section
/-! DEFINITION. One step of the package: what the schedule holds next, or, with nothing scheduled, the next
instruction of the core that issued last (notes/assumptions/4). -/

namespace Sys2Proof.Machine

/-- The next instruction of core `c`: the slot of R135 fetches, and the instruction is executed; a failed fetch and a
word that is no instruction trap (02_encoding R30, R43). -/
noncomputable def issue (c : CoreId) (s : State) : Out :=
  match s.choose c with
  | (none, t) => .next t
  | (some t, _) =>
    match t.fetch with
    | .error _ => exec .instructionFetchFault t
    | .ok (u, w) =>
      match decode w with
      | .ok i => exec i u
      | .error _ => exec (.illegalInstruction w) u

/-- What the schedule holds next. -/
noncomputable def turn (t : Turn) (s : State) : Out :=
  if !s.admits t then .next s else
  match t with
  | .core c => issue c s
  | .event i => if deviceStep i then exec i s else .next s
  | .service off n v => .next (s.serviceStore off n v)
  | .datagram p bytes => .next (s.queueGram p bytes)

/-- The step. Each step has free values of its own (notes/assumptions/5). -/
noncomputable def step (s : State) : Host.Outcome State Fault Refusal :=
  let t : State := { s with fresh := s.fresh + 1 }
  match s.schedule with
  | [] => issue t.cur.core t
  | x :: rest => turn x { t with schedule := rest }

/-- `issue` as compiled code runs it. -/
def issueFast (c : CoreId) (s : State) : Out :=
  match s.choose c with
  | (none, t) => .next t
  | (some t, _) =>
    match t.fetch with
    | .error _ => execInstructionFetchFault t
    | .ok (u, w) =>
      match runWord w.toNat with
      | .ok f => f u
      | .error _ => execIllegalInstruction w u

/-- `step` as compiled code runs it. -/
def stepFast (s : State) : Host.Outcome State Fault Refusal :=
  let t : State := { s with fresh := s.fresh + 1 }
  match s.schedule with
  | [] => issueFast t.cur.core t
  | x :: rest =>
    let u : State := { t with schedule := rest }
    if !u.admits x then .next u else
    match x with
    | .core c => issueFast c u
    | .event i => if deviceStep i then exec i u else .next u
    | .service off n v => .next (u.serviceStore off n v)
    | .datagram p bytes => .next (u.queueGram p bytes)

theorem issue_eq (c : CoreId) (s : State) : issue c s = issueFast c s := by
  unfold issue issueFast
  split
  · rfl
  · split
    · rfl
    · rename_i u w _
      rw [← runWord_eq]
      cases decode w <;> rfl

@[csimp] theorem step_eq : @step = @stepFast := by
  funext s
  unfold step stepFast
  split
  · exact issue_eq _ _
  · rename_i x rest _
    unfold turn
    cases x with
    | core c => simp only [issue_eq]
    | event i => rfl
    | service off n v => rfl
    | datagram p bytes => rfl

/-- The instruction whose word is `w` stands where the next step fetches (02_encoding R28); `nbits` is 32 for every row. -/
def State.withFetchWord (s : State) (_nbits w : Nat) : State := s.plant w

end Sys2Proof.Machine
end

