-- ==== Sys2Proof/Safety.lean ====
section
/-! DEFINITION. What counts as a sound state and a safe step, in the terms the statements use: a thread at a plain
boundary, a step that changes the executing slot alone, and what memory keeps. -/

namespace Sys2Proof.Machine

/-- Nothing waits for the boundary that ends the instruction: the thread is not to stop, and neither a boundary trap
nor a rollback is pending (08_slots R141, R143, R146, 15_messages R283). -/
def Slot.calm (t : Slot) : Prop := t.stopping = false ∧ t.intr = none ∧ t.pending = none
/-- The executing slot is calm. -/
abbrev State.calm (s : State) : Prop := s.me.calm

/-- Every byte of committed memory reads as before. -/
def SameBytes (s t : State) : Prop := ∀ q, Memory.get t.mem q = Memory.get s.mem q
/-- Every byte of committed memory but those at `qs` reads as before. -/
def BytesBut (qs : Nat → Prop) (s t : State) : Prop := ∀ q, ¬ qs q → Memory.get t.mem q = Memory.get s.mem q

/-- Outside the cores nothing changes; of the cores, only the executing slot and the watchdog entries of its
population (08_slots R155): every other slot, every control register, the queues, the buffers and the logs stay. -/
def SlotOnly (s t : State) : Prop :=
  t = { s with cores := t.cores } ∧ SameBytes s t ∧
  (∀ p, p ≠ s.cur → t.slotAt p = s.slotAt p) ∧
  ∀ c, t.core c = { s.core c with slots := (t.core c).slots, watch := (t.core c).watch }

/-- The step completes an instruction that changes the executing slot alone: by `f`, and the PC goes to `next`. -/
def Ends (s t : State) (next : Word) (f : Slot → Slot) : Prop :=
  SlotOnly s t ∧ t.me = { f s.me with pc := next, wait := none, prog := .none, stalls := [] }
/-- The same, with the next word as the next instruction. -/
abbrev Writes (s t : State) (f : Slot → Slot) : Prop := Ends s t (s.me.pc + 4) f

/-- The instruction completes with X[d] ← v and changes nothing else but the PC. -/
def SetsX (i : Instr) (s : State) (d : XReg) (v : Word) : Prop := ∃ t, exec i s = .next t ∧ Writes s t (·.setX d v)
/-- The instruction completes with a write of p`p`, discarded for p0, and changes nothing else but the PC. -/
def SetsP (i : Instr) (s : State) (p : PReg) (b : Bool) : Prop := ∃ t, exec i s = .next t ∧ Writes s t (·.setP p b)
/-- The instruction completes with the PC at `next`, having changed the executing slot by `f` alone. -/
def Goes (i : Instr) (s : State) (next : Word) (f : Slot → Slot) : Prop := ∃ t, exec i s = .next t ∧ Ends s t next f

/-- As `SlotOnly`, but translation caches may take entries (18_tables R309). -/
def SlotCache (s t : State) : Prop :=
  t = { s with cores := t.cores, dies := t.dies } ∧ SameBytes s t ∧
  (∀ p, p ≠ s.cur → t.slotAt p = s.slotAt p) ∧
  (∀ c, t.core c = { s.core c with slots := (t.core c).slots, watch := (t.core c).watch }) ∧
  ∀ d, t.die d = { s.die d with cache := (t.die d).cache }
/-- The step completes an access that reads memory: the executing slot changes by `f`, and caches may. -/
def Reads (i : Instr) (s : State) (f : Slot → Slot) : Prop :=
  ∃ t, exec i s = .next t ∧ SlotCache s t ∧ t.me = { f s.me with pc := s.me.pc + 4, wait := none, prog := .none, stalls := [] }
/-- The slot with the base update of a format M access made (02_encoding R36). -/
def Slot.based (t : Slot) : Option (XReg × Word) → Slot
  | none => t
  | some (r, v) => t.setX r v

/-- STATE of a work record is 1 to 3 (13_graphs R232). -/
def liveWork (t : State) (w : Nat × BitVec 32) : Prop := 1 ≤ (Memory.get t.mem (w.1 + 1)).toNat ∧ (Memory.get t.mem (w.1 + 1)).toNat ≤ 3
/-- An instruction that may write memory completes with the executing slot changed by `f`: the PC moves on, and outside
the slot, memory and the records of buffered stores, nothing changes but what monitors and caches hold, and work records whose STATE
in memory is live no more are such no longer (13_graphs R232). Every byte of committed memory but those at `ws` reads as before. -/
def Stores (i : Instr) (s t : State) (ws : Nat → Prop) (f : Slot → Slot) : Prop :=
  exec i s = .next t ∧ BytesBut ws s t ∧
  t = { s with cores := t.cores, dies := t.dies, mem := t.mem, poison := t.poison, works := t.works } ∧
  (t.works.Sublist s.works ∧ ∀ w ∈ s.works, liveWork t w → w ∈ t.works) ∧
  t.me = { f s.me with pc := s.me.pc + 4, wait := none, prog := .none, stalls := [], monitor := t.me.monitor } ∧
  (∀ p, p ≠ s.cur → t.slotAt p = { s.slotAt p with monitor := (t.slotAt p).monitor }) ∧
  (∀ c, t.core c = { s.core c with slots := (t.core c).slots, watch := (t.core c).watch,
                                   buffer := (t.core c).buffer, spill := (t.core c).spill }) ∧
  ∀ d, t.die d = { s.die d with cache := (t.die d).cache }
/-- An instruction that changes tables in memory has completed with the executing slot changed by `f`: the PC moves on, and
nothing else changes but the bytes at `ws`, what monitors hold, and the copies that captures may give again (02_encoding
R52). -/
def Edited (s t : State) (ws : Nat → Prop) (f : Slot → Slot) : Prop :=
  BytesBut ws s t ∧ t = { s with cores := t.cores, mem := t.mem, poison := t.poison } ∧
  t.me = { f s.me with pc := s.me.pc + 4, wait := none, prog := .none, stalls := [], monitor := t.me.monitor } ∧
  (∀ p, p ≠ s.cur → t.slotAt p = { s.slotAt p with monitor := (t.slotAt p).monitor }) ∧
  ∀ c, t.core c = { s.core c with slots := (t.core c).slots, watch := (t.core c).watch, captured := (t.core c).captured }
/-- The instruction completes so. -/
def Edits (i : Instr) (s t : State) (ws : Nat → Prop) (f : Slot → Slot) : Prop := exec i s = .next t ∧ Edited s t ws f
/-- The offsets of the executing core's spill records in use (09_memories R170). -/
def State.spilled (s : State) (q : Nat) : Prop :=
  ∃ e ∈ s.myCore.spill, s.spillAt s.myId e.1 ≤ q ∧ q < s.spillAt s.myId e.1 + 96
/-- The offsets of `n` bytes from `q`. -/
def span (q n r : Nat) : Prop := q ≤ r ∧ r < q + n
/-- The thread's stores are none of an open event's (09_memories R167, 15_messages R280). -/
def State.noEvent (s : State) : Prop := ¬ (s.me.opt = true ∧ s.me.evo = true)
/-- The `n` bytes from `q` are plain memory: not control space, not the reduction window, and no Reserved field or field that only
the device changes of a map in memory (09_memories R158, 00_scope R3, R4). -/
def State.plain (s : State) (q n : Nat) : Prop := ∀ r, span q n r → inCtl r = false ∧ inRed r = false ∧ ∀ b, s.portBit r b = b
/-- Nothing changes but that translation caches may have taken entries (18_tables R309). -/
def cached (s u : State) : Prop := u = { s with dies := u.dies } ∧ ∀ d, u.die d = { s.die d with cache := (u.die d).cache }
/-- The instruction takes a precise trap: nothing changed before it but what translation caches hold (08_slots R141, 18_tables R309). -/
def Traps (i : Instr) (s : State) (c : Cause) (sub : Nat) (v : Word) : Prop :=
  ∃ u, cached s u ∧ exec i s = .next (u.takeTrap s.cur c sub v)
/-- The instruction stalls on a locked bank (08_slots R140). -/
def Stalls (i : Instr) (s : State) (c : CoreId) (b : BitVec 4) : Prop :=
  ∃ u, cached s u ∧ exec i s = .next (u.modMe fun t => { t with state := .stalled, wait := some (.bank c b) })
/-- The instruction traps PGLOST on a lost line, whose words are poisoned and which is lost no longer (23_system R362). -/
def Loses (i : Instr) (s : State) (line : Nat) (v : Word) : Prop :=
  let ws := ((List.range 32).map fun j => 32 * line + j).filter fun w => !s.poison.contains w
  ∃ u, cached s u ∧
    exec i s = .next (({ u with lost := s.lost.filter (· != line), poison := s.poison ++ ws } : State).takeTrap s.cur .pglost 0 v)
/-- How an instruction ends at a failed check of an access: the trap is taken, a lost line traps PGLOST, a locked bank stalls the slot. -/
def EndsAt (i : Instr) (s : State) : Stop → Prop
  | .trap c sub v => Traps i s c sub v
  | .value c v => Traps i s c 0 v
  | .lost line v => Loses i s line v
  | .stall c b => Stalls i s c b
  | .after _ e => EndsAt i s e
  | .wait _ _ | .interlock _ _ => True
/-- The check of a 2^k-byte access that fails first: its translation, or what it touches (02_encoding R50, 10_access R177). -/
def State.accessFails (s : State) (va : Word) (acc : Acc) (n : Nat) (reads : Bool) (e : Stop) : Prop :=
  s.translate va acc n = .error e ∨ ∃ da, s.translate va acc n = .ok da ∧ s.touchable va da n reads = .error e
/-- The instruction completes with lane `j` of the `w`-bit view of V[d] holding `r j`, for every lane, and with the flags
`fl` added to FFLAGS; nothing else changes but the PC. -/
def SetsLanes (i : Instr) (s : State) (w : Nat) (d : VReg) (r : Nat → Nat) (fl : Flags) : Prop :=
  ∃ (t : State) (v : Vec), exec i s = .next t ∧ (∀ j < 1024 / w, laneOf w v j = r j % 2 ^ w) ∧
    Writes s t fun k => { k with v := k.v.set d.val v, fflags := k.fflags ||| fl }
/-- The union of the flags of the lanes that mask `m` governs on in the `w`-bit view (07_vector R118). -/
def laneFlags (w : Nat) (m : BitVec 32) (f : Nat → Flags) : Flags :=
  (List.range (1024 / w)).foldl (fun fl j => if governs w m j then fl ||| f j else fl) 0
/-- A lane-wise operation `f` on lanes of V[a] and V[b]: governed lanes take its result, the others keep their value, and
FFLAGS takes the flags of the governed lanes (07_vector R118). -/
def LaneWise (i : Instr) (s : State) (w : Nat) (d a b : VReg) (m : MReg) (f : Nat → Nat → Nat × Flags) : Prop :=
  let at_ (j : Nat) := f (laneOf w (s.v a) j) (laneOf w (s.v b) j)
  SetsLanes i s w d (fun j => if governs w (s.mask m) j then (at_ j).1 else laneOf w (s.v d) j)
    (laneFlags w (s.mask m) fun j => (at_ j).2)
/-- m × 2^i compared with n × 2^j. -/
def scaled (m : Nat) (i : Int) (n : Nat) (j : Int) : Ordering := Ord.compare (m * 2 ^ (i - min i j).toNat) (n * 2 ^ (j - min i j).toNat)
/-- The result is Round of ±x, where `at_ m e` compares m × 2^e with x: x is such a number, or it lies between m × 2^e and
(m + 1) × 2^e, where no number of the format's precision lies and none half way between two (02_encoding R49, 05_numbers R88). -/
def Rounds (f : FloatFmt) (mode : Mode) (neg : Bool) (at_ : Nat → Int → Ordering) (r : Nat × Flags) : Prop :=
  ∃ (m : Nat) (e : Int) (more : Bool), 2 ^ f.p ≤ m ∧ r = round f mode neg m more e ∧
    if more then at_ m e = .lt ∧ at_ (m + 1) e = .gt else at_ m e = .eq
/-- Whether a value is ordered below another, neither a NaN, with −0 below +0 (05_numbers R89). -/
def ordered (x y : Fl) : Prop :=
  match x, y with
  | .inf n, .inf n' => n = true ∧ n' = false
  | .inf n, .fin .. => n = true
  | .fin .., .inf n' => n' = false
  | .fin n m e, .fin n' m' e' =>
    (n = true ∧ n' = false) ∨ (n = false ∧ n' = false ∧ scaled m e m' e' = .lt) ∨ (n = true ∧ n' = true ∧ scaled m e m' e' = .gt)
  | _, _ => False
/-- The slot holds the vector registers listed (04_registers R73). -/
def State.hasVectors (s : State) (rs : List VReg) : Prop := ∀ r ∈ rs, r.val < s.me.vcnt

/-- The privileged instructions (02_encoding R44): `sret`, `mbxdef`, every operation of LINK and CTX, and `crd` and `crw` of a
register that tenant slots do not reach: one with SRW fields, and every core, link and context register (04_registers R75,
R78-R82). -/
def needsSupervisor : Instr → Bool
  | .sret | .sretHalt | .sretAbort | .mbxdef _ _ | .lkey _ _ _ _ | .lksw _ _ | .lkinj _ _ | .lkstat _ _
  | .ctxsave _ _ | .ctxsaveEvict _ _ | .ctxload _ _ | .ctxkeyNew _ _ | .ctxkeySel _ | .ctxkeyBind _ _
  | .ctxkeyFree _ | .shdef _ _ => true
  | .crd _ r | .crw _ r =>
    (match r with
     | .tcause | .tval | .tpc | .tts | .ttb | .mbt | .ulogb | .ulogl | .slogb | .slogl | .mxw | .phbuf | .partmap | .timer
     | .wdwin | .fwd | .clkl | .gvtr | .xinv | .lkc0 _ | .lkc1 _ | .lkth _ | .lkaf _ | .lkrt _ | .lksta _ | .ctxsc => true
     | _ => false)
  | _ => false
/-- The registers every field of which is RO or Reserved (04_registers R75, R78-R82; 20_counters R332, R342). -/
def readOnly : Cr → Bool
  | .pc | .vcnt | .lvt | .evid | .popid | .slot | .core | .pkg | .thidx | .gvt | .vtdom | .tsc | .clkc | .trsy | .admw | .escn
  | .rolls | .annih | .lkc0 _ | .lkc1 _ | .lkaf _ | .lkrt _ | .lksta _ | .ctxsc => true
  | _ => false
/-- The instructions that act for a population, which slot 15 does not execute (08_slots R365). -/
def needsTenant : Instr → Bool
  | .tldef _ _ | .tlring _ _ _ | .wload _ _ _ | .mma _ _ _ _ | .mmaz _ _ _ _ | .wdrop _ | .tcopyIn _ _
  | .tcopyOut _ _ | .dec _ _ | .tfill _ _ | .tconv _ _ _ | .gcopy _ _ _ | .gsend _ _ _ | .gcmp _ _ _
  | .ghash _ _ _ | .grel _ _ _ | .oalloc _ _ _ | .lmdef _ | .gland _ _ _ | .tasknew _ _ _ | .taskdec _
  | .barnew _ _ | .bararr _ _ | .barwait _ _ | .bararw _ _ | .barfree _ | .spawn _ _ _ | .migr _ _
  | .tkget _ _ | .tkdone _ _ | .send _ _ _ _ _ | .req _ _ _ _ _ | .recv _ _ _ | .recvSet _ _ _ | .peek _ _ _
  | .peekSet _ _ _ | .evend | .escst _ _ | .escwait | .halt | .yield | .phase | .trap _ _ | .brk _ => true
  | _ => false

/-- The offsets of the executing core's tile table (11_matrix R190). -/
def State.tileTable (s : State) (q : Nat) : Prop := s.tileAt s.myId 0 ≤ q ∧ q < s.tileAt s.myId 64
/-- A handle that the executing slot may use: defined, and of the thread's partition, or any in slot 15 (11_matrix R193,
08_slots R365). -/
def State.owned (s : State) (h : TileH) : Prop :=
  (s.tile s.myId h.val).v = true ∧ (s.isSup = true ∨ (s.tile s.myId h.val).part = s.me.part.val)
/-- The status word of a tile lies outside the tile table. -/
def State.statusClear (s : State) (h : Nat) : Prop := ∀ r, span (s.statusAt s.myId h 0) 32 r → ¬ s.tileTable r

/-- The offsets that a change of core `c`'s tile table may write, with the members that a ring may name past entry 63
(11_matrix R190, R209). -/
def State.table (s : State) (c q : Nat) : Prop := s.tileAt c 0 ≤ q ∧ q < s.tileAt c 80
/-- The `n` bytes from `q` lie outside every tile table and every live work record: a store there changes no map in memory whose fields
keep other stores out (00_scope R4, 13_graphs R232). -/
def State.offTables (s : State) (q n : Nat) : Prop := ∀ r, span q n r → (∀ c, ¬ s.table c r) ∧ ∀ w ∈ s.works, ¬ span w.1 64 r
/-- A tile's bytes and status word lie outside the tile table of its core. -/
def State.apart (s : State) (c h : Nat) : Prop := ∀ r, span (s.tileBase c h) (64 * (s.tile c h).size + 32) r → ¬ s.table c r
/-- An engine command joins the end of queue `q` of the executing core, its allowance `cost` taken from RES (11_matrix
R204, 20_counters R337). -/
def Queues (i : Instr) (s t : State) (q : Core → List Cmd) (w : Work) (cost : Nat) : Prop :=
  exec i s = .next t ∧ q t.myCore = q s.myCore ++ [{ by_ := s.issuer, work := w }] ∧
  t.me.pc = s.me.pc + 4 ∧ t.me.res = s.me.res - cost ∧ t.me.x = s.me.x

/-- The AMO operation of a code on `n`-bit words, as the table of 10_access R180 reads. -/
def amoResult (n : Nat) (old v : BitVec n) : Nat → BitVec n
  | 0 => old + v
  | 1 => old &&& v
  | 2 => old ||| v
  | 3 => old ^^^ v
  | 4 => if old.toInt < v.toInt then old else v
  | 5 => if old.toInt < v.toInt then v else old
  | 6 => if old.toNat < v.toNat then old else v
  | 7 => if old.toNat < v.toNat then v else old
  | _ => v
/-- A write (kind 0) or posted atomic (kind 1) of `by_` leaves for device address `da`, and no other: by the port that leads toward
its package (which of several is the model's choice, notes/assumptions/10) one packet of at most 192 data bytes goes, and the issuer waits for its
answer (01_device R18, 19_prog_link R324, R325). -/
def Sends (s t : State) (by_ : Issuer) (da kind fn : Nat) (data : List Byte) : Prop :=
  (∀ p, s.route (da / 2 ^ 43) = some p → ∃ k : Packet, (t.port p).txq = (s.port p).txq ++ [k] ∧ k.target.toNat = da % 2 ^ 56 ∧
    k.kind.toNat = kind ∧ k.core = by_.place.core ∧ k.part = by_.part ∧ k.fn.toNat = fn ∧ k.data = data ∧
    k.tag.toNat = s.nextTag.toNat % 2 ^ 61 ∧
    ∃ o : Outstanding, t.out = s.out ++ [o] ∧ o.tag = k.tag ∧ o.place = by_.place ∧ o.pop = by_.pop ∧ o.addr.toNat = da % 2 ^ 64) ∧
  ∀ p, s.route (da / 2 ^ 43) ≠ some p → t.port p = s.port p
/-- No port leads toward the package: the write is refused at once, which FABERR at the sender's core records, alone or in the
count of merged events (19_prog_link R324, 01_device R18, 08_slots R144). -/
def Refuses (s t : State) : Prop :=
  t.out = s.out ∧ t.ports = s.ports ∧ t.me.refused = s.me.refused + 1 ∧ ∃ r ∈ t.myCore.records, r.cause = .faberr ∧ r.async = true
/-- A packet that answers package `pkg`: kind 2 an acknowledgement, 3 a refusal; it echoes the tag and carries `data` (19_prog_link
R325). It leaves by the port that leads toward the package: which of several is the model's choice (notes/assumptions/10). -/
def answers (s t : State) (pkg : BitVec 13) (kind : Nat) (tag : Word) (data : List Byte := []) : Prop :=
  ∀ n, s.route pkg.toNat = some n → ∃ k : Packet, (t.port n).txq = (s.port n).txq ++ [k] ∧ k.kind.toNat = kind ∧ k.tag = tag ∧
    k.target.toNat = pkg.toNat * 2 ^ 43 ∧ k.data = data
/-- The header of a reply to a KDA datagram, OP 4 ACK or 5 NAK with its code (14_queues R262, R263). -/
def kdaHeader (op code gen : Nat) (id : Word) (ce : Bool) : List Byte :=
  [1, BitVec.ofNat 8 op, if ce then 1 else 0, 0] ++ toBytes 4 gen ++ toBytes 8 id.toNat ++ toBytes 8 0 ++ toBytes 4 0 ++
    toBytes 2 code ++ toBytes 2 0
/-- The bytes of a run's work record are cells of their own, outside every tile table, its 8-byte words in one piece (13_graphs R232). -/
def State.soundRecord (s : State) (m : MintRun) : Prop :=
  (∀ o < m.opArea + m.stk, ∀ c, ¬ s.table c (m.at_ o)) ∧
  (∀ a b, a < m.opArea + m.stk → b < m.opArea + m.stk → m.at_ a = m.at_ b → a = b) ∧
  ∀ a j, a % 8 = 0 → a + 8 ≤ m.opArea + m.stk → j < 8 → m.at_ (a + j) = m.at_ a + j
/-- The 8 bytes at an offset lie outside a run's work record, outside every other live one and outside every tile table. -/
def State.clearOf (s : State) (m : MintRun) (q : Nat) : Prop :=
  s.offTables q 8 ∧ ∀ r, span q 8 r → ∀ o < m.opArea + m.stk, m.at_ o ≠ r
/-- The pieces of a translated range are plain memory of this package, apart from each other, from every tile table and from every live
work record. -/
def State.imageRoom (s : State) (pages : Pages) (va : Word) (n : Nat) : Prop :=
  let ps := rangePieces pages va n
  ps.Pairwise (fun o u => ∀ r, ¬ (span (o.1 % 2 ^ 43) o.2 r ∧ span (u.1 % 2 ^ 43) u.2 r)) ∧
  ∀ o ∈ ps, o.1 / 2 ^ 43 = s.pkg ∧ s.plain (o.1 % 2 ^ 43) o.2 ∧ s.offTables (o.1 % 2 ^ 43) o.2
/-- An inbound write of `data` at `q` is an ordinary one: to plain memory that its partition may write, outside zones and
shared ranges, with no write of its source withheld (09_memories R159, R175, 13_graphs R248). -/
def State.ordinary (s : State) (w : InWrite) : Prop :=
  let q := w.addr % 2 ^ 43
  let n := w.data.length
  (∀ e ∈ s.withheld, ¬ (e.1.srcPkg = w.srcPkg ∧ e.1.srcCore = w.srcCore ∧ e.1.front = w.front)) ∧
  0 < n ∧ inMbox q = false ∧ s.plain q n ∧ s.inboundOk w.part q n = true ∧
  (∀ e ∈ s.cores, ∀ i : ZoneId, let z := e.2.zones[i.val]; z.v = true → q + n ≤ z.base ∨ z.base + z.size ≤ q) ∧
  ∀ p ∈ s.pops, ∀ r ∈ p.shared, q + n ≤ r.1 / 64 * 64 ∨ r.1 + r.2 ≤ q / 64 * 64
/-- A control write of the group: GID, kind, limit, the sender, an effective time or a round (20_counters R338). -/
def State.groupWrite (s : State) (gid : BitVec 16) (kind mhz time : Nat) : List Byte :=
  toBytes 2 gid.toNat ++ toBytes 1 kind ++ [0] ++ toBytes 2 mhz ++ toBytes 2 s.pkg ++ toBytes 8 time ++ toBytes 16 0
/-- Event `e` is posted with its argument: PEND is set, OVR too where an event was pending, and identity 32 + e is raised
(23_system R356). -/
def posted (s t : State) (e : Fin 7) (arg : Nat) : Prop :=
  let old := s.events[e.val]
  t.events[e.val].toNat % 2 ^ 62 = arg % 2 ^ 56 ∧ t.events[e.val].getLsbD 63 = true ∧
    t.events[e.val].getLsbD 62 = (old.getLsbD 62 || old.getLsbD 63) ∧ t.raised = (32 + e.val) :: s.raised
/-- What a reset of partition `p` leaves: its queue set disabled under a new generation, and no population of it (23_system
R359, 14_queues R265). -/
def wiped (s t : State) (p : Part) : Prop :=
  (t.partition p.val).en = false ∧ (t.partition p.val).gen = (s.partition p.val).gen + 1 ∧ (t.partition p.val).rate = 1600000 ∧
    (t.partition p.val).txq = [] ∧ (t.partition p.val).txwait = [] ∧ ∀ q ∈ t.pops, q.part ≠ p

/-- What a fetch changes: the translation caches, and the words that the fetching thread keeps (02_encoding R31). -/
def fetched (t m : State) : Prop :=
  m = { t with cores := m.cores, dies := m.dies } ∧ m.me = { t.me with ibuf := m.me.ibuf } ∧ (∀ p, p ≠ t.cur → m.slotAt p = t.slotAt p) ∧
  (∀ c, m.core c = { t.core c with slots := (m.core c).slots }) ∧ ∀ d, m.die d = { t.die d with cache := (m.die d).cache }
/-- The constructors that are no instruction word: the steps of the device, an illegal word and a failed fetch (the rows of the
opcode table whose encoding is a device event). -/
def isEvent : Instr → Bool
  | .xinvStart _ _ | .xinvDone _ | .clklWrite _ | .tsWrite _ _ _ | .phaseComplete _ | .engineEnqueue _ _
  | .matrixArbiterPass _ _ | .wloadComplete _ _ | .wdropExecute _ _ | .matrixCommandComplete _ _
  | .copyCommandComplete _ _ | .decBlockStart _ _ | .decBlockComplete _ _ | .mintStep _ _ | .mintStopPoint _ _
  | .gsendFinish _ _ | .zoneWriteAccept _ | .zoneEndWrite _ | .zoneComplete _ _ | .messageArrival _
  | .antiMessageArrival _ | .rollback _ _ | .clearingCut _ | .clearingRoundClose _ _ | .gvtPublish _
  | .taskDecrement _ | .taskStart _ | .stageHandlerStart _ _ | .migrationArrival _ | .ticketRequest _ | .ticketAdvance _
  | .flitSeal _ | .linkDataFlit _ _ | .linkMarkerFlit _ _ | .linkAckFlit _ _ | .linkNakFlit _ _ | .linkAckTimeout _
  | .linkTraining _ | .linkLoss _ | .waitWake _ _ | .trapDelivery _ | .supervisorRestart _ | .timerDeadline _
  | .watchdog _ _ | .bankLockStore _ _ | .bankLockTimeout _ | .rotStore _ _ | .slotRotation _ _ | .relocStore _ _
  | .relocationComplete _ | .fwdExpiry _ | .inboundFabricWrite _ | .fabricAck _ _ | .fabricRefusal _ | .postedAtomic _
  | .reductionContribution _ | .reductionResultApply _ | .ringNotify _ _ | .mapperMapPending | .ringDefine _ _
  | .recordAccept _ | .launch _ | .populationPlacement _ | .waitq _ | .signal _ | .mark _ | .populationFinish _
  | .kdaWrite _ | .kdaRingput _ | .kdaNotify _ | .kdaAck _ | .kdaNak _ | .kdaRetransmit _ _ | .kdaRateRaise _
  | .kdaTransmit _ | .treasuryRefill _ | .groupReqStore _ | .groupLimit _ | .groupAck _ | .groupJoin _ | .groupLeave _
  | .groupBeat _ | .beatSend | .memberSilent _ | .memberExpel _ | .ceilingChange _ | .membershipEffect | .packageReset
  | .recoveryImage _ | .partitionReset _ | .syscallDoorbell _ | .syscallReply _ | .eventBlockClear _ _
  | .vaultSoftError _ _ _ | .serviceDataError _ | .warmRestartComplete | .restartTimeout | .coreRetirement _
  | .pageRetirement _ _ _ | .thermalHold | .thermalResume | .illegalInstruction _ | .instructionFetchFault
  | .timeStampCounterTick _ _ | .thermalPowerLimitChange _ | .spdmMeasurementRequest => true
  | _ => false

end Sys2Proof.Machine
end

