-- ==== Sys2Proof/Certificates/Slice0/Obligations.lean ====
section
/-! DEFINITION. The statements for the provers. -/

open Sys2Proof Sys2Proof.Machine

/-! ### Scalar instructions -/

/-- 06_scalar R103, 05_numbers R84: the 25 operations of ALU on X[xa] and operand b, in both forms of operand b; the
destination takes the result, and nothing but it and the PC changes. A `kN` operand that stops is in
`ConstantOperand`. -/
def Obligations.ArithmeticResults : Prop :=
  ∀ (s : State) (d a : XReg) (b : OpB) (v : Word), s.calm → s.opB b = .ok v →
    let x := s.x a
    let n := v.toNat % 64
    SetsX (.add d a b) s d (BitVec.ofNat 64 (x.toNat + v.toNat)) ∧
    SetsX (.sub d a b) s d (BitVec.ofInt 64 (x.toInt - v.toInt)) ∧
    SetsX (.mul d a b) s d (BitVec.ofNat 64 (x.toNat * v.toNat)) ∧
    SetsX (.mulh d a b) s d (BitVec.ofInt 64 (x.toInt * v.toInt / 2 ^ 64)) ∧
    SetsX (.mulhn d a b) s d (BitVec.ofNat 64 (x.toNat * v.toNat / 2 ^ 64)) ∧
    SetsX (.div d a b) s d (if v = 0 then BitVec.allOnes 64 else BitVec.ofInt 64 (x.toInt.tdiv v.toInt)) ∧
    SetsX (.divn d a b) s d (if v = 0 then BitVec.allOnes 64 else BitVec.ofNat 64 (x.toNat / v.toNat)) ∧
    SetsX (.rem d a b) s d (if v = 0 then x else BitVec.ofInt 64 (x.toInt.tmod v.toInt)) ∧
    SetsX (.remn d a b) s d (if v = 0 then x else BitVec.ofNat 64 (x.toNat % v.toNat)) ∧
    SetsX (.and d a b) s d (x &&& v) ∧
    SetsX (.or d a b) s d (x ||| v) ∧
    SetsX (.xor d a b) s d (x ^^^ v) ∧
    SetsX (.andn d a b) s d (x &&& ~~~v) ∧
    SetsX (.shl d a b) s d (BitVec.ofNat 64 (x.toNat * 2 ^ n)) ∧
    SetsX (.shr d a b) s d (BitVec.ofNat 64 (x.toNat / 2 ^ n)) ∧
    SetsX (.sar d a b) s d (BitVec.ofInt 64 (x.toInt / 2 ^ n)) ∧
    (∃ r : Word, SetsX (.rol d a b) s d r ∧ ∀ i < 64, r.getLsbD ((i + n) % 64) = x.getLsbD i) ∧
    SetsX (.min d a b) s d (if x.toInt < v.toInt then x else v) ∧
    SetsX (.max d a b) s d (if x.toInt < v.toInt then v else x) ∧
    SetsX (.minn d a b) s d (if x.toNat < v.toNat then x else v) ∧
    SetsX (.maxn d a b) s d (if x.toNat < v.toNat then v else x) ∧
    SetsX (.lea2 d a b) s d (BitVec.ofNat 64 (x.toNat + 2 * v.toNat)) ∧
    SetsX (.lea4 d a b) s d (BitVec.ofNat 64 (x.toNat + 4 * v.toNat)) ∧
    SetsX (.lea8 d a b) s d (BitVec.ofNat 64 (x.toNat + 8 * v.toNat)) ∧
    SetsX (.addw d a b) s d (BitVec.ofInt 64 ((x.toInt + v.toInt).bmod (2 ^ 32)))

/-- 06_scalar R106: the eleven unary operations of ALU2. -/
def Clauses.UnaryResults : Prop :=
  ∀ (s : State) (d a : XReg), s.calm →
    let x := s.x a
    SetsX (.clz d a) s d (BitVec.ofNat 64 (if x = 0 then 64 else 63 - x.toNat.log2)) ∧
    (x = 0 → SetsX (.ctz d a) s d 64) ∧
    (∀ n < 64, x.getLsbD n = true → (∀ i < n, x.getLsbD i = false) → SetsX (.ctz d a) s d (BitVec.ofNat 64 n)) ∧
    SetsX (.pop d a) s d (BitVec.ofNat 64 ((List.range 64).countP fun i => x.getLsbD i)) ∧
    (∃ r : Word, SetsX (.bswap d a) s d r ∧ ∀ i < 8, r.extractLsb' (8 * i) 8 = x.extractLsb' (8 * (7 - i)) 8) ∧
    SetsX (.sextB d a) s d (BitVec.ofInt 64 (x.toInt.bmod (2 ^ 8))) ∧
    SetsX (.sextH d a) s d (BitVec.ofInt 64 (x.toInt.bmod (2 ^ 16))) ∧
    SetsX (.sextW d a) s d (BitVec.ofInt 64 (x.toInt.bmod (2 ^ 32))) ∧
    SetsX (.zextB d a) s d (BitVec.ofNat 64 (x.toNat % 2 ^ 8)) ∧
    SetsX (.zextH d a) s d (BitVec.ofNat 64 (x.toNat % 2 ^ 16)) ∧
    SetsX (.zextW d a) s d (BitVec.ofNat 64 (x.toNat % 2 ^ 32)) ∧
    SetsX (.mov d a) s d x

/-- 06_scalar R107: `bfx` takes a field, and `bfi` replaces one; a field that would reach past bit 63 is cut off. -/
def Obligations.BitFieldResults : Prop :=
  ∀ (s : State) (d a : XReg) (b : OpB) (v : Word), s.calm → s.opB b = .ok v →
    let pos := v.toNat % 64
    let w := v.toNat / 2 ^ 8 % 64 + 1
    (∃ r : Word, SetsX (.bfx d a b) s d r ∧
      ∀ i < 64, r.getLsbD i = (decide (i < w) && (s.x a).getLsbD (pos + i))) ∧
    (∃ r : Word, SetsX (.bfi d a b) s d r ∧
      ∀ i < 64, r.getLsbD i = if pos ≤ i ∧ i < pos + w then (s.x a).getLsbD (i - pos) else (s.x d).getLsbD i)

/-- 06_scalar R104, R105: the immediate forms, the shifts by a constant, `lui` and `ldk`. -/
def Clauses.ImmediateResults : Prop :=
  ∀ (s : State) (d a : XReg) (im : BitVec 18) (n : Fin 64), s.calm →
    let x := s.x a
    let b := BitVec.ofInt 64 im.toInt
    SetsX (.addi d a im) s d (BitVec.ofInt 64 (x.toInt + im.toInt)) ∧
    SetsX (.andi d a im) s d (x &&& b) ∧
    SetsX (.ori d a im) s d (x ||| b) ∧
    SetsX (.xori d a im) s d (x ^^^ b) ∧
    SetsX (.shli d a n) s d (BitVec.ofNat 64 (x.toNat * 2 ^ n.val)) ∧
    SetsX (.shri d a n) s d (BitVec.ofNat 64 (x.toNat / 2 ^ n.val)) ∧
    SetsX (.sari d a n) s d (BitVec.ofInt 64 (x.toInt / 2 ^ n.val)) ∧
    (∃ r : Word, SetsX (.roli d a n) s d r ∧ ∀ i < 64, r.getLsbD ((i + n.val) % 64) = x.getLsbD i) ∧
    SetsX (.lui d im) s d (BitVec.ofInt 64 (im.toInt * 2 ^ 18)) ∧
    ∀ k v, s.k k.val = .ok v → SetsX (.ldk d k) s d v

/-- 06_scalar R108, R109: the compares and tests, with operand b or the sign-extended imm16; a write of p0 is
discarded (02_encoding R34), which `Slot.setP` says. -/
def Clauses.CompareResults : Prop :=
  ∀ (s : State) (p : PReg) (a : XReg), s.calm →
    let x := s.x a
    (∀ (b : OpB) (v : Word), s.opB b = .ok v →
      SetsP (.cmpEq p a b) s p (decide (x = v)) ∧
      SetsP (.cmpNe p a b) s p (decide (x ≠ v)) ∧
      SetsP (.cmpLt p a b) s p (decide (x.toInt < v.toInt)) ∧
      SetsP (.cmpGe p a b) s p (decide (v.toInt ≤ x.toInt)) ∧
      SetsP (.cmpLtn p a b) s p (decide (x.toNat < v.toNat)) ∧
      SetsP (.cmpGen p a b) s p (decide (v.toNat ≤ x.toNat)) ∧
      SetsP (.tstZ p a b) s p (decide (x &&& v = 0)) ∧
      SetsP (.tstNz p a b) s p (decide (x &&& v ≠ 0))) ∧
    ∀ im : BitVec 16,
      let v := BitVec.ofInt 64 im.toInt
      SetsP (.cmpiEq p a im) s p (decide (x = v)) ∧
      SetsP (.cmpiNe p a im) s p (decide (x ≠ v)) ∧
      SetsP (.cmpiLt p a im) s p (decide (x.toInt < im.toInt)) ∧
      SetsP (.cmpiGe p a im) s p (decide (im.toInt ≤ x.toInt)) ∧
      SetsP (.cmpiLtn p a im) s p (decide (x.toNat < v.toNat)) ∧
      SetsP (.cmpiGen p a im) s p (decide (v.toNat ≤ x.toNat))

/-- 06_scalar R110, R111, 02_encoding R34: the predicate operations and `sel`; p0 reads 1, and a write of it is
discarded. -/
def Clauses.PredicateResults : Prop :=
  ∀ (s : State), s.calm →
    s.pred 0 = true ∧ (∀ (t : Slot) (b : Bool), t.setP 0 b = t) ∧
    ∀ (p a b : PReg) (d x y : XReg),
      SetsP (.pand p a b) s p (s.pred a && s.pred b) ∧
      SetsP (.por p a b) s p (s.pred a || s.pred b) ∧
      SetsP (.pxor p a b) s p (s.pred a != s.pred b) ∧
      SetsP (.pandn p a b) s p (s.pred a && !s.pred b) ∧
      SetsP (.pnot p a) s p (!s.pred a) ∧
      SetsP (.pmov p a) s p (s.pred a) ∧
      (s.pred a = true → SetsX (.sel d x y a) s d (s.x x)) ∧
      (s.pred a = false → SetsX (.sel d x y a) s d (s.x y))

/-- 06_scalar R112, R113: where each branch goes, and what it writes; a jump to a target with bits 1-0 not both 0 traps
ALIGN with the target, and changes nothing else. -/
def Obligations.BranchResults : Prop :=
  ∀ (s : State) (p : PReg) (n : Bool) (a : XReg) (im : BitVec 18), s.calm →
    let target := BitVec.ofInt 64 (s.me.pc.toInt + 4 + 4 * im.toInt)
    let on := if n then !s.pred p else s.pred p
    Goes (.br p n im) s (if on then target else s.me.pc + 4) id ∧
    Goes (.bdec p n a im) s (if s.x a ≠ 1 ∧ on = true then target else s.me.pc + 4) (·.setX a (s.x a - 1)) ∧
    Goes (.call im) s target (·.setX 15 (s.me.pc + 4)) ∧
    ((s.x a).toNat % 4 = 0 → Goes (.jmp a) s (s.x a) id ∧ Goes (.callr a) s (s.x a) (·.setX 15 (s.me.pc + 4))) ∧
    ((s.x 15).toNat % 4 = 0 → Goes .ret s (s.x 15) id) ∧
    ((s.x a).toNat % 4 ≠ 0 → exec (.jmp a) s = .next (s.takeTrap s.cur .align 0 (s.x a)) ∧
      exec (.callr a) s = .next (s.takeTrap s.cur .align 0 (s.x a))) ∧
    ((s.x 15).toNat % 4 ≠ 0 → exec .ret s = .next (s.takeTrap s.cur .align 0 (s.x 15)))

/-- 06_scalar R104-R106: the unary operations and the immediate forms. -/
def Obligations.UnaryAndImmediateResults : Prop := Clauses.UnaryResults ∧ Clauses.ImmediateResults

/-- 06_scalar R108-R111: the compares, the predicate operations and `sel`. -/
def Obligations.CompareAndPredicateResults : Prop := Clauses.CompareResults ∧ Clauses.PredicateResults

/-! ### Operands in memory, loads, stores, atomics -/

/-- 02_encoding R35, R48, 06_scalar R100, R101: a K operand is the word of the thread's constant window (09_memories
R162) where the thread holds no buffered store; a poisoned word traps POISON with the local address, and a locked bank
stalls a tenant slot (08_slots R140). -/
def Clauses.ConstantOperand : Prop :=
  ∀ (s : State) (n : KIdx),
    let q := vaultBase s.myId + (if s.isSup then 8 * n.val else 0xC000 + 0x800 * s.me.part.val + 8 * n.val)
    let va := BitVec.ofNat 64 (8 * n.val)
    let open_ := s.isSup = true ∨ (s.core s.myId).lock.getLsbD 0 = false
    s.lostAt q 8 = none → s.me.stalls = [] →
    (open_ → s.poison.contains (q / 8) = false → s.ownEntries = [] → s.opB (.k n) = .ok (s.word q)) ∧
    (open_ → s.poison.contains (q / 8) = true → ∀ d a, exec (.add d a (.k n)) s = .next (s.takeTrap s.cur .poison 0 va)) ∧
    (¬ open_ → ∀ d a, exec (.add d a (.k n)) s =
      .next (s.modMe fun t => { t with state := .stalled, wait := some (.bank s.cur.core 0) }))

/-- 02_encoding R36: the four address forms; the offset is a signed count of the access size, and the post-increment
form addresses with the old base and updates it. -/
def Clauses.AddressForms : Prop :=
  ∀ (s : State) (xa xi : XReg) (o : BitVec 14) (n : KIdx) (z : Size),
    let x := s.x xa
    let moved := BitVec.ofInt 64 (x.toInt + o.toInt * (z.bytes : Int))
    s.memAddr (.off xa o) z.bytes = .ok (moved, none) ∧
    s.memAddr (.post xa o) z.bytes = .ok (x, some (xa, moved)) ∧
    s.memAddr (.idx xa xi) z.bytes = .ok (BitVec.ofNat 64 (x.toNat + (s.x xi).toNat * z.bytes), none) ∧
    ∀ v, s.k n.val = .ok v → s.memAddr (.kAddr n) z.bytes = .ok (v, none)

/-- 10_access R179, R177: a load with its address translated, its bank unlocked and its bytes neither lost nor poisoned
puts the bytes at the address into xt, sign-extended by `ld` and zero-extended by `ldz`, and updates the base of the
post-increment form; nothing else changes but the PC and a translation cache. The thread holds no buffered store here
(`LoadForwarding` says what one does). -/
def Clauses.LoadResults : Prop :=
  ∀ (s : State) (xt : XReg) (z : Size) (m : MemForm) (va : Word) (base : Option (XReg × Word)) (da : Nat),
    s.calm → s.memAddr m z.bytes = .ok (va, base) → s.translate va .r z.bytes = .ok da →
    s.touchable va da z.bytes true = .ok () → s.ownEntries = [] → inCtl (da % 2 ^ 43) = false →
    let v := s.num (da % 2 ^ 43) z.bytes
    Reads (.ld xt z m) s (fun k => (k.setX xt (BitVec.ofInt 64 ((v : Int).bmod (2 ^ (8 * z.bytes))))).based base) ∧
    Reads (.ldz xt z m) s (fun k => (k.setX xt (BitVec.ofNat 64 v)).based base)

/-- 09_memories R168, R169: after a phase-class store the thread reads its own bytes back at that address, whatever
memory holds there. (Where it holds no merged entry: `fence.l` has its own statement.) -/
def Clauses.LoadForwarding : Prop :=
  ∀ (s t : State) (va : Word) (da i : Nat) (bs : List Byte),
    (∀ e ∈ s.ownEntries, e.merged = false) → va.toNat % 64 + bs.length ≤ 64 →
    s.phaseStore va da bs = .ok t → t.plain (da % 2 ^ 43) bs.length → t.loadBytes va da bs.length i = bs

/-- 09_memories R167, R168, 10_access R179: outside events an immediate-class store (`stp`, or `st` in the thread's
private range) to plain memory of this package writes its bytes at once, and every other byte keeps its value, but for
the records that hold the thread's own spilled stores. -/
def Clauses.ImmediateStores : Prop :=
  ∀ (s : State) (xt : XReg) (z : Size) (m : MemForm) (va : Word) (base : Option (XReg × Word)) (da : Nat),
    s.calm → s.noEvent → Memory.wf s.mem = true → s.memAddr m z.bytes = .ok (va, base) →
    s.translate va .w z.bytes = .ok da → da / 2 ^ 43 = s.pkg → s.touchable va da z.bytes false = .ok () →
    s.plain (da % 2 ^ 43) z.bytes →
    let q := da % 2 ^ 43
    let kept := fun r => span q z.bytes r ∨ s.spilled r
    (z = .w ∨ z = .d → ∃ t, Stores (.stp xt z m) s t kept (·.based base) ∧
      ((∀ r, span q z.bytes r → ¬ s.spilled r) → t.num q z.bytes = (s.x xt).toNat % 2 ^ (8 * z.bytes))) ∧
    (s.me.isPrivate va = true → ∃ t, Stores (.st xt z m) s t kept (·.based base) ∧
      ((∀ r, span q z.bytes r → ¬ s.spilled r) → t.num q z.bytes = (s.x xt).toNat % 2 ^ (8 * z.bytes)))

/-- 09_memories R167, R169: outside events a phase-class `st`, with an entry of its line or a free entry, changes no
byte of committed memory but spill records: the bytes wait in the combining buffer. -/
def Clauses.PhaseStores : Prop :=
  ∀ (s : State) (xt : XReg) (z : Size) (m : MemForm) (va : Word) (base : Option (XReg × Word)) (da : Nat),
    s.calm → s.noEvent → Memory.wf s.mem = true → s.memAddr m z.bytes = .ok (va, base) →
    s.translate va .w z.bytes = .ok da → da / 2 ^ 43 = s.pkg → s.touchable va da z.bytes false = .ok () →
    s.plain (da % 2 ^ 43) z.bytes → s.me.isPrivate va = false → s.inZone (da % 2 ^ 43) = false →
    s.ticketWords.contains (da % 2 ^ 43 / 8 * 8) = false → s.myCore.buffer.length < 64 →
    ∃ t, Stores (.st xt z m) s t s.spilled (·.based base) ∧
      ((∀ e ∈ s.ownEntries, e.merged = false) → t.plain (da % 2 ^ 43) z.bytes →
        ∀ i, t.loadBytes va da z.bytes i = toBytes z.bytes (s.x xt).toNat)

/-- 09_memories R170: a phase-class `st` that finds no free entry writes the oldest one to the lowest free record of the spill area,
with the last 64 bytes of its page 0, and takes the entry; where the spill area is full too it traps PHASEFULL, and
nothing changes but translation caches. That the lowest free record is taken is the model's choice (notes/assumptions/36). -/
def Clauses.SpillingStores : Prop :=
  ∀ (s : State) (xt : XReg) (z : Size) (m : MemForm) (va : Word) (base : Option (XReg × Word)) (da : Nat) (old : Entry) (rest : List Entry),
    s.calm → s.noEvent → Memory.wf s.mem = true → s.memAddr m z.bytes = .ok (va, base) →
    s.translate va .w z.bytes = .ok da → da / 2 ^ 43 = s.pkg → s.touchable va da z.bytes false = .ok () →
    s.plain (da % 2 ^ 43) z.bytes → s.me.isPrivate va = false → s.inZone (da % 2 ^ 43) = false →
    s.ticketWords.contains (da % 2 ^ 43 / 8 * 8) = false → s.myCore.buffer = old :: rest → 63 ≤ rest.length →
    (∀ e ∈ s.ownEntries, e.merged = false ∧ ¬ (formOf va = some e.form ∧ e.line.toNat = va.toNat / 64 * 64)) →
    (s.myCore.spillFree = none → Traps (.st xt z m) s .phasefull 0 va) ∧
    ∀ n, s.myCore.spillFree = some n →
      let q := s.spillAt s.myId n
      let tail := s.spillAt s.myId (n / 42 * 42) + 4032
      ∃ (t : State) (e : Entry), Stores (.st xt z m) s t (fun r => span q 96 r ∨ span tail 64 r) (·.based base) ∧
        t.bytes q 96 = old.record ∧ t.bytes tail 64 = List.replicate 64 0 ∧
        t.myCore.spill = s.myCore.spill ++ [(n, old)] ∧ t.myCore.buffer = rest ++ [e] ∧
        e.who = s.ident s.cur ∧ e.da = da / 64 * 64 ∧ e.line.toNat = va.toNat / 64 * 64

/-- 15_messages R279, R280: while an event is open, `st` and `stp` into the captured state range append one store record with the
old word to the undo log and write at once; anywhere else they make one Escrow entry of the bytes of the line, and memory
keeps every byte. That a state range lies on this package is the model's reading (notes/assumptions/12), and so is the place of
the record in the log (notes/assumptions/35). -/
def Clauses.EventStores : Prop :=
  ∀ (s : State) (xt : XReg) (z : Size) (m : MemForm) (va : Word) (base : Option (XReg × Word)) (da : Nat) (imm : Bool),
    s.calm → s.me.opt = true → s.me.evo = true → Memory.wf s.mem = true → s.memAddr m z.bytes = .ok (va, base) →
    s.translate va .w z.bytes = .ok da → da < 2 ^ 56 → s.touchable va da z.bytes false = .ok () → (imm = true → z = .w ∨ z = .d) →
    s.hasSpace s.myId .undo 0 = true → s.hasSpace s.myId .escrow 0 = true →
    let i : Instr := if imm then .stp xt z m else .st xt z m
    let q := da % 2 ^ 43
    let bs := toBytes z.bytes (s.x xt).toNat
    let log := vaultBase s.myId + logBound s.myCore.ulogb + s.myCore.undoNext % s.myCore.undoRoom * 16
    let moved := fun (t : State) =>
      t.me = { s.me.based base with pc := s.me.pc + 4, wait := none, prog := .none, stalls := [], monitor := t.me.monitor }
    (s.inRange ⟨va, da, bs⟩ = true → s.plain q z.bytes → s.hasSpace s.myId .undo 1 = true →
      (∀ r, span log 16 r → ¬ span q z.bytes r ∧ ¬ s.tileTable r) →
      ∃ t, exec i s = .next t ∧ moved t ∧ BytesBut (fun r => span q z.bytes r ∨ span log 16 r) s t ∧
        t.num q z.bytes = (s.x xt).toNat % 2 ^ (8 * z.bytes) ∧
        t.myCore.undo = s.myCore.undo ++ [(s.myCore.undoNext, .store s.myEvent (da / 8 * 8) (s.word (q / 8 * 8)))] ∧
        t.word log = BitVec.ofNat 64 (2 ^ 60 + 2 ^ 56 * s.cur.slot.val + da / 8 * 8) ∧ t.word (log + 8) = s.word (q / 8 * 8)) ∧
    (s.inRange ⟨va, da, bs⟩ = false → (da / 2 ^ 43 = s.pkg → s.plain q z.bytes) → s.hasSpace s.myId .escrow 1 = true →
      ∃ (t : State) (e : EscEntry) (mask : BitVec 64) (data : BitVec 512), exec i s = .next t ∧ moved t ∧ SameBytes s t ∧
        t.myDie.escrow = s.myDie.escrow ++ [e] ∧ e.act = .store (da / 64 * 64) mask data ∧
        (∀ j < 64, mask.getLsbD j = decide (da % 64 ≤ j ∧ j < da % 64 + z.bytes)) ∧
        (∀ j < z.bytes, some (data.extractLsb' (8 * (da % 64 + j)) 8) = bs[j]?) ∧
        e.owner = s.cur ∧ e.lvt = s.me.lvt ∧ e.score = s.cur.core ∧ e.issue = s.myCore.escIssue ∧ e.slot = s.cur.slot ∧
        e.evid = s.me.evid ∧ e.pop = s.me.popid ∧ e.part = s.me.part ∧ t.myCore.escIssue = s.myCore.escIssue + 1)

/-- 01_device R18, 10_access R179, R181, 19_prog_link R324: outside events a store to another package leaves as a fabric write of its
bytes, and an `amo` as a posted atomic, whose X[d] keeps its value; without a port toward the package it is refused at once.
No byte of this package changes. The low 61 bits of the packet's tag, which `Sends` states, are the model's choice
(notes/assumptions/25), and so is the port of several that lead there (notes/assumptions/10). -/
def Clauses.RemoteStores : Prop :=
  ∀ (s : State) (da : Nat), s.calm → s.noEvent → s.me.state ≠ .free → da / 2 ^ 43 ≠ s.pkg → da < 2 ^ 56 →
    let leaves := fun (i : Instr) (kind fn : Nat) (data : List Byte) (f : Slot → Slot) =>
      ∃ t, exec i s = .next t ∧ SameBytes s t ∧
        ((s.route (da / 2 ^ 43)).isSome = true → Sends s t s.issuer da kind fn data ∧
          t.me = { f s.me with pc := s.me.pc + 4, wait := none, prog := .none, stalls := [] }) ∧
        (s.route (da / 2 ^ 43) = none → Refuses s t ∧
          t.me = { f s.me with pc := s.me.pc + 4, wait := none, prog := .none, stalls := [], refused := s.me.refused + 1 })
    (∀ (xt : XReg) (z : Size) (m : MemForm) (va : Word) (base : Option (XReg × Word)), s.memAddr m z.bytes = .ok (va, base) →
      s.translate va .w z.bytes = .ok da →
      let bs := toBytes z.bytes (s.x xt).toNat
      leaves (.st xt z m) 0 0 bs (·.based base) ∧ (z = .w ∨ z = .d → leaves (.stp xt z m) 0 0 bs (·.based base))) ∧
    ∀ (d a b : XReg) (z : WordSize), s.translate (s.x a) .w z.bytes = .ok da →
      let bs := toBytes z.bytes ((s.x b).toNat % 2 ^ (8 * z.bytes))
      let posts := fun (i : Instr) (fn : Nat) => leaves i 1 (fn + (if z.bytes = 8 then 16 else 0)) bs id
      posts (.amoAdd d a b z) 0 ∧ posts (.amoAnd d a b z) 1 ∧ posts (.amoOr d a b z) 2 ∧ posts (.amoXor d a b z) 3 ∧
      posts (.amoMin d a b z) 4 ∧ posts (.amoMax d a b z) 5 ∧ posts (.amoMinn d a b z) 6 ∧ posts (.amoMaxn d a b z) 7 ∧
      posts (.amoSwap d a b z) 8

/-- 02_encoding R50, 09_memories R157-R165: what Translate answers with where a check fails: ALIGN first; XLAT for no form, no
mapping or an undefined offset; PROT for a right that the mapping or the ownership lacks, a mailbox window, and the system
area proper; NOREMLD for a read of another package. That a VIRTUAL address has no mapping for slot 15, and so fails XLAT, is the
model's inference (notes/assumptions/32). -/
def Clauses.TranslateTraps : Prop :=
  ∀ (s : State) (va : Word) (acc : Acc) (n : Nat),
    let fails := fun (c : Cause) => s.translate va acc n = .error (.trap c 0 va)
    let aligned := va.toNat % n = 0
    let reach := fun (da : Nat) =>
      (da / 2 ^ 43 ≠ s.pkg → acc.reads = true → fails .noremld) ∧
      (da / 2 ^ 43 = s.pkg → defined (da % 2 ^ 43) = false → fails .xlat) ∧
      (da / 2 ^ 43 = s.pkg → inMbox (da % 2 ^ 43) = true → fails .prot) ∧
      (da / 2 ^ 43 = s.pkg → defined (da % 2 ^ 43) = true → ∀ p, s.tenant = some p → s.owns p.val acc (da % 2 ^ 43) n = false → fails .prot)
    (va.toNat % n ≠ 0 → fails .align) ∧
    (aligned → formOf va = none → fails .xlat) ∧
    (aligned → formOf va = some .loc → reach (s.localAddr s.myId s.tenant va.toNat)) ∧
    (aligned → s.isSup = false → 0x800 ≤ va.toNat → va.toNat < 0x10000 → fails .prot) ∧
    (aligned → formOf va = some .dev → reach (va.toNat % 2 ^ 56)) ∧
    (aligned → formOf va = some .virt → s.isSup = true → fails .xlat) ∧
    (aligned → formOf va = some .virt → s.isSup = false →
      match s.mapping (dieOf s.myId) s.me.part.val va.toNat with
      | none => fails .xlat
      | some m =>
        let right := (!acc.reads || (if acc = .x then m.x else m.r)) && (!acc.writes || (m.w && !m.cow))
        if right then reach m.da else fails .prot)

/-- 10_access R177, 09_memories R163, 08_slots R140: what an access of `n` bytes to this package answers with after its translation:
it stalls on a locked bank, unless the slot is the supervisor's or the bank released an access of the instruction that had
met the lock; it traps PGLOST where a line is lost;
a read of a poisoned word traps POISON with the word's address; a write of one does not. -/
def Clauses.TouchTraps : Prop :=
  ∀ (s : State) (va : Word) (da n : Nat) (reads : Bool), da / 2 ^ 43 = s.pkg →
    let q := da % 2 ^ 43
    let free := s.isSup = true ∨ s.lockedAt q = none ∨ ∃ e, s.lockedAt q = some e ∧ freedFrom s.me.stalls e = true
    (∀ e, s.isSup = false → s.lockedAt q = some e → freedFrom s.me.stalls e = false → s.touchable va da n reads = .error (.stall e.1 e.2)) ∧
    (free → ∀ l, s.lostAt q n = some l → s.touchable va da n reads = .error (.lost l va)) ∧
    (free → s.lostAt q n = none → ∀ w, s.poisonedAt q n = some w →
      s.touchable va da n reads = if reads then .error (.trap .poison 0 (va + BitVec.ofNat 64 (8 * w) - BitVec.ofNat 64 q)) else .ok ()) ∧
    (free → s.lostAt q n = none → s.poisonedAt q n = none → s.touchable va da n reads = .ok ())

/-- 10_access R177, R179, 02_encoding R50: a load ends at the first check that its access fails, and changes nothing else. -/
def Clauses.LoadTraps : Prop :=
  ∀ (s : State) (xt : XReg) (z : Size) (m : MemForm) (va : Word) (base : Option (XReg × Word)) (e : Stop),
    s.memAddr m z.bytes = .ok (va, base) → s.accessFails va .r z.bytes true e →
    EndsAt (.ld xt z m) s e ∧ EndsAt (.ldz xt z m) s e

/-- The same of `st` and `stp`, which need W and may write a poisoned word (10_access R177, R179). -/
def Clauses.StoreTraps : Prop :=
  ∀ (s : State) (xt : XReg) (z : Size) (m : MemForm) (va : Word) (base : Option (XReg × Word)) (e : Stop),
    s.memAddr m z.bytes = .ok (va, base) → s.accessFails va .w z.bytes false e →
    EndsAt (.st xt z m) s e ∧ (z = .w ∨ z = .d → EndsAt (.stp xt z m) s e)

/-- 02_encoding R50, 10_access R177, R180, R182, R188: an `amo` ends where its access lacks W, then, on this package, where it lacks R, at a
reduction header (PROT), and at what it touches; a `cas` needs both rights first, so it traps NOREMLD on another package. -/
def Clauses.AtomicTraps : Prop :=
  ∀ (s : State) (d a b : XReg) (z : WordSize) (e : Stop),
    let va := s.x a
    let here := fun (i : Instr) (da : Nat) =>
      (s.translate va .rw z.bytes = .error e → EndsAt i s e) ∧
      (s.translate va .rw z.bytes = .ok da → redHeader (da % 2 ^ 43) z.bytes = true → EndsAt i s (.trap .prot 0 va)) ∧
      (s.translate va .rw z.bytes = .ok da → redHeader (da % 2 ^ 43) z.bytes = false → s.touchable va da z.bytes true = .error e → EndsAt i s e)
    let amo := fun (i : Instr) =>
      (s.translate va .w z.bytes = .error e → EndsAt i s e) ∧ ∀ da, s.translate va .w z.bytes = .ok da → da / 2 ^ 43 = s.pkg → here i da
    amo (.amoAdd d a b z) ∧ amo (.amoAnd d a b z) ∧ amo (.amoOr d a b z) ∧ amo (.amoXor d a b z) ∧ amo (.amoMin d a b z) ∧
    amo (.amoMax d a b z) ∧ amo (.amoMinn d a b z) ∧ amo (.amoMaxn d a b z) ∧ amo (.amoSwap d a b z) ∧
    ∀ da, here (.cas d a b z) da

/-- 10_access R180, R182: an atomic on plain memory of this package, translated, unlocked, neither lost nor poisoned,
returns the old word sign-extended and writes the result; `cas` writes only where the comparison holds. Every other byte
keeps its value, but for the records that hold the thread's own spilled stores. -/
def Clauses.AtomicValues : Prop :=
  ∀ (s : State) (d a b : XReg) (z : WordSize) (da : Nat),
    s.calm → Memory.wf s.mem = true → s.translate (s.x a) .w z.bytes = .ok da → s.translate (s.x a) .rw z.bytes = .ok da →
    da / 2 ^ 43 = s.pkg → s.touchable (s.x a) da z.bytes true = .ok () → s.plain (da % 2 ^ 43) z.bytes →
    (∀ r, span (da % 2 ^ 43) z.bytes r → ¬ s.spilled r) →
    let q := da % 2 ^ 43
    let n := 8 * z.bytes
    let old := BitVec.ofNat n (s.num q z.bytes)
    let v := (s.x b).setWidth n
    let ret := fun k : Slot => k.setX d (BitVec.ofInt 64 old.toInt)
    let writes := fun (i : Instr) (r : BitVec n) =>
      ∃ t, Stores i s t (fun r => span q z.bytes r ∨ s.spilled r) ret ∧ t.num q z.bytes = r.toNat
    writes (.amoAdd d a b z) (old + v) ∧ writes (.amoAnd d a b z) (old &&& v) ∧ writes (.amoOr d a b z) (old ||| v) ∧
    writes (.amoXor d a b z) (old ^^^ v) ∧
    writes (.amoMin d a b z) (if old.toInt < v.toInt then old else v) ∧
    writes (.amoMax d a b z) (if old.toInt < v.toInt then v else old) ∧
    writes (.amoMinn d a b z) (if old.toNat < v.toNat then old else v) ∧
    writes (.amoMaxn d a b z) (if old.toNat < v.toNat then v else old) ∧
    writes (.amoSwap d a b z) v ∧
    (old = (s.x d).setWidth n → writes (.cas d a b z) v) ∧
    (old ≠ (s.x d).setWidth n → Reads (.cas d a b z) s ret)

/-- 02_encoding R35, R36: the forms of operand b and of an address. -/
def Obligations.OperandForms : Prop := Clauses.ConstantOperand ∧ Clauses.AddressForms

/-- 09_memories R168, 10_access R177, R179, 02_encoding R50: what a load returns, with and without a buffered store of the thread, and where
it traps or stalls. The translation cache that a load fills is the model's (notes/assumptions/33), and that a VIRTUAL address fails XLAT
in slot 15 its inference (notes/assumptions/32). -/
def Obligations.LoadInstructions : Prop :=
  Clauses.LoadResults ∧ Clauses.LoadForwarding ∧ Clauses.TranslateTraps ∧ Clauses.TouchTraps ∧ Clauses.LoadTraps

/-- 09_memories R167-R170, 10_access R177, R179, R181, 15_messages R280: immediate-class and phase-class stores, the spill of the oldest entry and
PHASEFULL, stores in an open event, stores and posted atomics to another package, and where a store traps. What becomes of a freed
record's bytes, the place of an undo record and the low bits of a tag are the model's choices (notes/assumptions/36, 35, 25). -/
def Obligations.StoreInstructions : Prop :=
  Clauses.ImmediateStores ∧ Clauses.PhaseStores ∧ Clauses.SpillingStores ∧ Clauses.EventStores ∧ Clauses.RemoteStores ∧ Clauses.StoreTraps

/-- 10_access R180, R182, 02_encoding R50: what an atomic returns and writes, and where it traps or stalls. -/
def Obligations.AtomicResults : Prop := Clauses.AtomicValues ∧ Clauses.AtomicTraps

/-! ### Vector instructions -/

/-- 07_vector R118, R119, 04_registers R72, 05_numbers R84: the eighteen operations of VI on the lanes that the mask
governs on; the other lanes keep their values, no flag is set, and nothing else changes. -/
def Obligations.VectorIntegerResults : Prop :=
  ∀ (s : State) (d a b : VReg) (m : MReg), s.calm → s.hasVectors [d, a, b] →
    let lane (r : VReg) (j : Nat) : BitVec 32 := (s.v r).extractLsb' (32 * j) 32
    let gives (i : Instr) (f : BitVec 32 → BitVec 32 → BitVec 32) : Prop :=
      ∃ (t : State) (v : Vec), exec i s = .next t ∧
        (∀ j < 32, v.extractLsb' (32 * j) 32 = if (s.mask m).getLsbD j then f (lane a j) (lane b j) else lane d j) ∧
        Writes s t fun k => { k with v := k.v.set d.val v }
    gives (.vaddI32 d a b m) (fun a b => a + b) ∧
    gives (.vsubI32 d a b m) (fun a b => a - b) ∧
    gives (.vmulI32 d a b m) (fun a b => a * b) ∧
    gives (.vmulhI32 d a b m) (fun a b => BitVec.ofInt 32 (a.toInt * b.toInt / 2 ^ 32)) ∧
    gives (.vminI32 d a b m) (fun a b => if a.toInt < b.toInt then a else b) ∧
    gives (.vmaxI32 d a b m) (fun a b => if a.toInt < b.toInt then b else a) ∧
    gives (.vminnI32 d a b m) (fun a b => if a.toNat < b.toNat then a else b) ∧
    gives (.vmaxnI32 d a b m) (fun a b => if a.toNat < b.toNat then b else a) ∧
    gives (.vandI32 d a b m) (fun a b => a &&& b) ∧
    gives (.vorI32 d a b m) (fun a b => a ||| b) ∧
    gives (.vxorI32 d a b m) (fun a b => a ^^^ b) ∧
    gives (.vshlI32 d a b m) (fun a b => BitVec.ofNat 32 (a.toNat * 2 ^ (b.toNat % 32))) ∧
    gives (.vshrI32 d a b m) (fun a b => BitVec.ofNat 32 (a.toNat / 2 ^ (b.toNat % 32))) ∧
    gives (.vsarI32 d a b m) (fun a b => BitVec.ofInt 32 (a.toInt / 2 ^ (b.toNat % 32))) ∧
    gives (.vaddsI32 d a b m) (fun a b => BitVec.ofInt 32 (max (-2 ^ 31) (min (2 ^ 31 - 1) (a.toInt + b.toInt)))) ∧
    gives (.vsubsI32 d a b m) (fun a b => BitVec.ofInt 32 (max (-2 ^ 31) (min (2 ^ 31 - 1) (a.toInt - b.toInt)))) ∧
    gives (.vabsI32 d a m) (fun a _ => if a.toInt < 0 then -a else a) ∧
    gives (.vnegI32 d a m) (fun a _ => -a)

/-- 07_vector R118, R120-R123, 05_numbers R86-R89: the float operations of VF, VH, VD and VFMA apply the operation of
their format and FRM to each governed lane, and FFLAGS takes the union of the governed lanes' flags; the i64 forms of VD
wrap and set no flag; `vfma` takes no mask. What Round itself gives is in `Rounding`. -/
def Clauses.VectorFloatOperations : Prop :=
  ∀ (s : State) (d a b c : VReg) (m : MReg) (h : HalfFmt), s.calm → s.hasVectors [d, a, b, c] →
    let mode := s.mode
    let two (i : Instr) (f : FloatFmt) (op : Nat → Nat → Nat × Flags) := LaneWise i s f.width d a b m op
    let one (i : Instr) (f : FloatFmt) (op : Nat → Nat × Flags) := LaneWise i s f.width d a a m fun x _ => op x
    let hf := halfFloat h
    let int (f : BitVec 64 → BitVec 64 → BitVec 64) (x y : Nat) : Nat × Flags := ((f (BitVec.ofNat 64 x) (BitVec.ofNat 64 y)).toNat, 0)
    two (.vaddF32 d a b m) f32 (fadd f32 mode) ∧
    two (.vsubF32 d a b m) f32 (fsub f32 mode) ∧
    two (.vmulF32 d a b m) f32 (fmul f32 mode) ∧
    two (.vdivF32 d a b m) f32 (fdiv f32 mode) ∧
    two (.vminF32 d a b m) f32 (fminmax f32 true) ∧
    two (.vmaxF32 d a b m) f32 (fminmax f32 false) ∧
    one (.vsqrtF32 d a m) f32 (fsqrt f32 mode) ∧
    one (.vabsF32 d a m) f32 (fsign f32 true) ∧
    one (.vnegF32 d a m) f32 (fsign f32 false) ∧
    one (.vrcpF32 d a m) f32 (frcp f32 mode) ∧
    one (.vrsqrtF32 d a m) f32 (frsqrt f32 mode) ∧
    one (.vexp2F32 d a m) f32 (fexp2 f32 mode) ∧
    one (.vlog2F32 d a m) f32 (flog2 f32 mode) ∧
    one (.vfloorF32 d a m) f32 (fintegral f32 .rdn false) ∧
    one (.vceilF32 d a m) f32 (fintegral f32 .rup false) ∧
    one (.vrintF32 d a m) f32 (fintegral f32 mode true) ∧
    two (.vaddH d a b m h) hf (fadd hf mode) ∧
    two (.vsubH d a b m h) hf (fsub hf mode) ∧
    two (.vmulH d a b m h) hf (fmul hf mode) ∧
    two (.vminH d a b m h) hf (fminmax hf true) ∧
    two (.vmaxH d a b m h) hf (fminmax hf false) ∧
    one (.vabsH d a m h) hf (fsign hf true) ∧
    one (.vnegH d a m h) hf (fsign hf false) ∧
    two (.vaddD d a b m .f64) f64 (fadd f64 mode) ∧
    two (.vaddD d a b m .i64) f64 (int (fun x y => x + y)) ∧
    two (.vsubD d a b m .f64) f64 (fsub f64 mode) ∧
    two (.vsubD d a b m .i64) f64 (int (fun x y => x - y)) ∧
    two (.vmulD d a b m .f64) f64 (fmul f64 mode) ∧
    two (.vmulD d a b m .i64) f64 (int (fun x y => x * y)) ∧
    two (.vminD d a b m .f64) f64 (fminmax f64 true) ∧
    two (.vminD d a b m .i64) f64 (int (fun x y => if x.toInt < y.toInt then x else y)) ∧
    two (.vmaxD d a b m .f64) f64 (fminmax f64 false) ∧
    two (.vmaxD d a b m .i64) f64 (int (fun x y => if x.toInt < y.toInt then y else x)) ∧
    two (.vdivF64 d a b m) f64 (fdiv f64 mode) ∧
    one (.vsqrtF64 d a m) f64 (fsqrt f64 mode) ∧
    ∀ t : FmaFmt,
      let f := fmaFloat t
      let at_ (j : Nat) := ffma f mode (laneOf f.width (s.v a) j) (laneOf f.width (s.v b) j) (laneOf f.width (s.v c) j)
      SetsLanes (.vfma d a b c t) s f.width d (fun j => (at_ j).1) (laneFlags f.width (BitVec.allOnes 32) fun j => (at_ j).2)

/-- 02_encoding R49: Round gives a representable value itself, and sets no flag, in every mode and format. -/
def Clauses.RoundExact : Prop :=
  ∀ (f : FloatFmt) (mode : Mode) (w : Nat), f = f16 ∨ f = bf16 ∨ f = f32 ∨ f = f64 → w < 2 ^ f.width →
    (f.unpack w).isNan = false → roundFl f mode (f.unpack w) = (w, 0)

/-- 02_encoding R49: RoundInt of m × 2^−k: exactly the value where it is an integer, toward zero in RTZ, up and down in RUP
and RDN, and to the nearest in RNE and RMM, a tie to the even neighbour in RNE and away from zero in RMM. -/
def Clauses.RoundToInteger : Prop :=
  ∀ (mode : Mode) (neg : Bool) (m k : Nat),
    let r := roundShift mode neg m false k
    (r.2 = true ↔ 2 ^ k ∣ m) ∧
    (r.2 = true → r.1 * 2 ^ k = m) ∧
    (r.2 = false →
      (r.1 = m / 2 ^ k ∨ r.1 = m / 2 ^ k + 1) ∧
      (mode = .rtz → r.1 = m / 2 ^ k) ∧
      (mode = .rup → r.1 = if neg then m / 2 ^ k else m / 2 ^ k + 1) ∧
      (mode = .rdn → r.1 = if neg then m / 2 ^ k + 1 else m / 2 ^ k) ∧
      (mode = .rne ∨ mode = .rmm →
        (2 * (m % 2 ^ k) < 2 ^ k → r.1 = m / 2 ^ k) ∧ (2 ^ k < 2 * (m % 2 ^ k) → r.1 = m / 2 ^ k + 1) ∧
        (2 * (m % 2 ^ k) = 2 ^ k → if mode = .rne then r.1 % 2 = 0 else r.1 = m / 2 ^ k + 1)))

/-- 02_encoding R49: Round of a non-zero (−1)^neg × m × 2^e that need not be representable. With q the weight of the last kept bit and i the
rounded multiple of it: a magnitude above the largest finite one gives ±∞ or that largest one, by the mode, with OF and
NX; any other is the result, with NX where it is not the value itself, and UF where it is inexact and the value rounded
to p bits lies below 2^emin. A zero keeps its sign. Round depends on the value alone, and of a value between m and m + 1, where m has more
than p bits, not even on where it lies: it may be taken half way. -/
def Clauses.RoundValues : Prop :=
  ∀ (f : FloatFmt) (mode : Mode) (neg : Bool) (m : Nat) (e : Int), f = f16 ∨ f = bf16 ∨ f = f32 ∨ f = f64 →
    (round f mode neg 0 false e = (f.sign neg, 0)) ∧
    (∀ k : Nat, round f mode neg (m * 2 ^ k) false (e - k) = round f mode neg m false e) ∧
    (2 ^ f.p ≤ m → round f mode neg m true e = round f mode neg (2 * m + 1) false (e - 1)) ∧
    (m ≠ 0 →
      let r := round f mode neg m false e
      let ex : Int := Nat.log2 m + e
      let last (x : Int) : Int := x - (f.p - 1 : Nat)
      let q := last (max ex f.emin)
      let i := roundInt mode neg m false (e - q)
      let j := roundInt mode neg m false (e - last ex)
      let huge := 2 ^ (f.emax + 1 - min q (last f.emax)).toNat ≤ i.1 * 2 ^ (q - min q (last f.emax)).toNat
      let tiny := j.1 * 2 ^ (last ex - min (last ex) f.emin).toNat < 2 ^ (f.emin - min (last ex) f.emin).toNat
      (huge →
        r = (if mode = .rne ∨ mode = .rmm ∨ (mode = .rup ∧ neg = false) ∨ (mode = .rdn ∧ neg = true) then f.inf neg else f.inf neg - 1,
          OF ||| NX)) ∧
      (¬ huge →
        (∃ (m' : Nat) (e' : Int), f.unpack r.1 = .fin neg m' e' ∧ f.qmin ≤ e' ∧ m' * 2 ^ (e' - f.qmin).toNat = i.1 * 2 ^ (q - f.qmin).toNat) ∧
        r.2 = (if i.2 then 0 else NX) ||| (if i.2 = false ∧ tiny then UF else 0)))

/-- 05_numbers R86, R88, R90, R91: on finite operands addition, subtraction and multiplication are Round of the exact result, with the
sign of an exact zero that R88 gives; a conversion between float formats or from an integer is Round of the value, one to an
integer RoundInt of it, clamped with NV. A NaN operand gives the canonical NaN, with NV where one is signalling; the
invalid operations on infinities give it with NV. -/
def Clauses.ExactOperations : Prop :=
  ∀ (f g : FloatFmt) (mode : Mode) (a b : Nat),
    let x := f.unpack a
    let y := f.unpack b
    let quiet : Flags := if x.isSig = true ∨ y.isSig = true then NV else 0
    (x.isNan = true ∨ y.isNan = true → fadd f mode a b = (f.nan, quiet) ∧ fsub f mode a b = (f.nan, quiet) ∧ fmul f mode a b = (f.nan, quiet)) ∧
    (∀ n n', x = .inf n → y = .inf n' →
      fadd f mode a b = (if n = n' then (f.inf n, 0) else (f.nan, NV)) ∧ fsub f mode a b = (if n = n' then (f.nan, NV) else (f.inf n, 0)) ∧
      fmul f mode a b = (f.inf (n != n'), 0)) ∧
    (∀ n n' mb eb, x = .inf n → y = .fin n' mb eb →
      fadd f mode a b = (f.inf n, 0) ∧ fsub f mode a b = (f.inf n, 0) ∧ fmul f mode a b = if mb = 0 then (f.nan, NV) else (f.inf (n != n'), 0)) ∧
    (∀ n ma ea n', x = .fin n ma ea → y = .inf n' →
      fadd f mode a b = (f.inf n', 0) ∧ fsub f mode a b = (f.inf (!n'), 0) ∧ fmul f mode a b = if ma = 0 then (f.nan, NV) else (f.inf (n != n'), 0)) ∧
    (∀ na ma ea nb mb eb, x = .fin na ma ea → y = .fin nb mb eb →
      let e := min ea eb
      let sum (nb : Bool) : Int := (if na then -1 else 1) * (ma * 2 ^ (ea - e).toNat : Nat) + (if nb then -1 else 1) * (mb * 2 ^ (eb - e).toNat : Nat)
      let adds (op : Nat × Flags) (nb : Bool) : Prop :=
        (sum nb ≠ 0 → op = round f mode (decide (sum nb < 0)) (sum nb).natAbs false e) ∧
        (sum nb = 0 → op = (f.sign (if ma = 0 ∧ na = nb then na else decide (mode = .rdn)), 0))
      adds (fadd f mode a b) nb ∧ adds (fsub f mode a b) (!nb) ∧
      fmul f mode a b = round f mode (na != nb) (ma * mb) false (ea + eb)) ∧
    (∀ n m e, x = .fin n m e → fconv f g mode a = round g mode n m false e ∧
      ∀ lo hi : Int, let r := roundInt mode n m false e
        let v : Int := if n then -(r.1 : Int) else r.1
        ftoInt f mode lo hi a = if v < lo then (lo, NV) else if hi < v then (hi, NV) else (v, if r.2 then 0 else NX)) ∧
    (∀ n, x = .inf n → fconv f g mode a = (g.inf n, 0) ∧ ∀ lo hi : Int, ftoInt f mode lo hi a = (if n then lo else hi, NV)) ∧
    (∀ sig, x = .nan sig → fconv f g mode a = (g.nan, if sig then NV else 0) ∧ ∀ lo hi : Int, ftoInt f mode lo hi a = (0, NV)) ∧
    ∀ v : Int, fofInt f mode v = if v = 0 then (0, 0) else round f mode (decide (v < 0)) v.natAbs false 0

/-- 05_numbers R86, R88, 07_vector R120: division, square root, reciprocal and reciprocal root of finite operands, neither zero, are Round of
the exact result; zeros, infinities, negative operands and NaNs give what the table of special cases says. -/
def Clauses.QuotientsAndRoots : Prop :=
  ∀ (f : FloatFmt) (mode : Mode) (a b : Nat), f = f16 ∨ f = bf16 ∨ f = f32 ∨ f = f64 →
    let x := f.unpack a
    let y := f.unpack b
    (x.isNan = true ∨ y.isNan = true → fdiv f mode a b = (f.nan, if x.isSig = true ∨ y.isSig = true then NV else 0)) ∧
    (∀ n n', x = .inf n → y = .inf n' → fdiv f mode a b = (f.nan, NV)) ∧
    (∀ n n' m e, x = .inf n → y = .fin n' m e → fdiv f mode a b = (f.inf (n != n'), 0)) ∧
    (∀ n m e n', x = .fin n m e → y = .inf n' → fdiv f mode a b = (f.sign (n != n'), 0)) ∧
    (∀ na ma ea nb mb eb, x = .fin na ma ea → y = .fin nb mb eb →
      (mb = 0 → fdiv f mode a b = if ma = 0 then (f.nan, NV) else (f.inf (na != nb), DZ)) ∧
      (mb ≠ 0 → ma = 0 → fdiv f mode a b = (f.sign (na != nb), 0)) ∧
      (mb ≠ 0 → ma ≠ 0 → Rounds f mode (na != nb) (fun m e => scaled (m * mb) (e + eb) ma ea) (fdiv f mode a b))) ∧
    (∀ sig, x = .nan sig → let r := (f.nan, if sig then NV else 0)
      fsqrt f mode a = r ∧ frcp f mode a = r ∧ frsqrt f mode a = r) ∧
    (∀ n, x = .inf n → fsqrt f mode a = (if n then (f.nan, NV) else (f.inf false, 0)) ∧ frcp f mode a = (f.sign n, 0) ∧
      frsqrt f mode a = if n then (f.nan, NV) else (0, 0)) ∧
    ∀ n ma ea, x = .fin n ma ea →
      (ma = 0 → fsqrt f mode a = (f.sign n, 0) ∧ frcp f mode a = (f.inf n, DZ) ∧ frsqrt f mode a = (f.inf n, DZ)) ∧
      (ma ≠ 0 → Rounds f mode n (fun m e => scaled (m * ma) (e + ea) 1 0) (frcp f mode a) ∧
        (n = true → fsqrt f mode a = (f.nan, NV) ∧ frsqrt f mode a = (f.nan, NV)) ∧
        (n = false → Rounds f mode false (fun m e => scaled (m * m) (2 * e) ma ea) (fsqrt f mode a) ∧
          Rounds f mode false (fun m e => scaled (m * m * ma) (2 * e + ea) 1 0) (frsqrt f mode a)))

/-- 05_numbers R86, R88, R96, 07_vector R123: a fused multiply-add rounds the exact sum of the exact product and the addend once; ±0 × ±∞ is
invalid beside a quiet NaN addend too. -/
def Clauses.FusedMultiplyAdd : Prop :=
  ∀ (f : FloatFmt) (mode : Mode) (a b c : Nat),
    let x := f.unpack a
    let y := f.unpack b
    let z := f.unpack c
    let r := ffma f mode a b c
    let wrong := ∃ n n' e, (x = .inf n ∧ y = .fin n' 0 e) ∨ (x = .fin n' 0 e ∧ y = .inf n)
    (x.isSig = true ∨ y.isSig = true ∨ z.isSig = true ∨ wrong → r = (f.nan, NV)) ∧
    (x.isSig = false → y.isSig = false → z.isSig = false → ¬ wrong → x.isNan = true ∨ y.isNan = true ∨ z.isNan = true → r = (f.nan, 0)) ∧
    (∀ n, x = .inf n ∧ y.isNan = false ∨ y = .inf n ∧ x.isNan = false → ¬ wrong →
      (∀ n', z = .inf n' → r = if n' = (x.neg != y.neg) then (f.inf n', 0) else (f.nan, NV)) ∧
      ∀ n' m e, z = .fin n' m e → r = (f.inf (x.neg != y.neg), 0)) ∧
    ∀ na ma ea nb mb eb, x = .fin na ma ea → y = .fin nb mb eb →
      (∀ n', z = .inf n' → r = (f.inf n', 0)) ∧
      ∀ nc mc ec, z = .fin nc mc ec →
        let e := min (ea + eb) ec
        let sum : Int := (if na != nb then -1 else 1) * (ma * mb * 2 ^ (ea + eb - e).toNat : Nat) + (if nc then -1 else 1) * (mc * 2 ^ (ec - e).toNat : Nat)
        (sum ≠ 0 → r = round f mode (decide (sum < 0)) sum.natAbs false e) ∧
        (sum = 0 → r = (f.sign (if ma * mb = 0 ∧ mc = 0 ∧ (na != nb) = nc then nc else decide (mode = .rdn)), 0))

/-- 05_numbers R86, R89, 07_vector R120: min and max give an operand, by the order that places −0 below +0 and passes over one NaN;
abs and neg change the sign bit alone; floor, ceil and rint give the integral value, with the operand's sign, and NX from rint
alone. That rint of a negative operand may give −0 is the model's inference (notes/assumptions/84). -/
def Clauses.OrderSignIntegral : Prop :=
  ∀ (f : FloatFmt) (mode : Mode) (a b : Nat), f = f16 ∨ f = bf16 ∨ f = f32 ∨ f = f64 → a < 2 ^ f.width → b < 2 ^ f.width →
    let x := f.unpack a
    let y := f.unpack b
    let quiet : Flags := if x.isSig = true ∨ y.isSig = true then NV else 0
    (∀ low, (x.isNan = true → y.isNan = true → fminmax f low a b = (f.nan, quiet)) ∧
      (x.isNan = true → y.isNan = false → fminmax f low a b = (b, quiet)) ∧
      (x.isNan = false → y.isNan = true → fminmax f low a b = (a, quiet))) ∧
    (x.isNan = false → y.isNan = false →
      (ordered x y → fminmax f true a b = (a, 0) ∧ fminmax f false a b = (b, 0)) ∧
      (ordered y x → fminmax f true a b = (b, 0) ∧ fminmax f false a b = (a, 0)) ∧
      ∀ low, fminmax f low a b = (a, 0) ∨ fminmax f low a b = (b, 0)) ∧
    (∀ sig, x = .nan sig → let r := (f.nan, if sig then NV else 0)
      fsign f true a = r ∧ fsign f false a = r ∧ ∀ nx, fintegral f mode nx a = r) ∧
    (x.isNan = false → fsign f true a = (a % 2 ^ (f.width - 1), 0) ∧ fsign f false a = ((a + 2 ^ (f.width - 1)) % 2 ^ f.width, 0)) ∧
    ∀ nx, (∀ n, x = .inf n → fintegral f mode nx a = (a, 0)) ∧
      ∀ n m e, x = .fin n m e →
        let i := roundInt mode n m false e
        (i.2 = true → fintegral f mode nx a = (a, 0)) ∧
        (i.2 = false → ∃ (m' : Nat) (e' : Int), f.unpack (fintegral f mode nx a).1 = .fin n m' e' ∧ scaled m' e' i.1 0 = .eq ∧
          (fintegral f mode nx a).2 = if nx then NX else 0)

/-- 05_numbers R88, 07_vector R120: the special cases of exp2 and log2, and Round of the exact result where that is a power of two or an
integer. Elsewhere the model rounds a result of 192 or 112 bits (notes/assumptions/42), of which no clause says anything. -/
def Clauses.ExactPowers : Prop :=
  ∀ (mode : Mode) (a : Nat),
    let x := f32.unpack a
    (∀ sig, x = .nan sig → let r := (f32.nan, if sig then NV else 0)
      fexp2 f32 mode a = r ∧ flog2 f32 mode a = r) ∧
    (∀ n, x = .inf n → fexp2 f32 mode a = (if n then (0, 0) else (f32.inf false, 0)) ∧
      flog2 f32 mode a = if n then (f32.nan, NV) else (f32.inf false, 0)) ∧
    ∀ n m e, x = .fin n m e →
      (m = 0 → flog2 f32 mode a = (f32.inf true, DZ)) ∧ (m ≠ 0 → n = true → flog2 f32 mode a = (f32.nan, NV)) ∧
      (∀ l : Nat, n = false → m = 2 ^ l → flog2 f32 mode a = round f32 mode (decide (l + e < 0)) (l + e).natAbs false 0) ∧
      ∀ v : Nat, scaled m e v 0 = .eq → fexp2 f32 mode a = round f32 mode false 1 false (if n then -(v : Int) else v)

/-- 07_vector R118-R123, 05_numbers R86-R91, R96: the float operations of the lanes, and what each gives of the exact result, exp2 and log2 where
that is a power of two or an integer (elsewhere their value is notes/assumptions/42). The sign of a zero that rint gives is the
model's inference (notes/assumptions/84). -/
def Obligations.VectorFloatResults : Prop :=
  Clauses.VectorFloatOperations ∧ Clauses.ExactOperations ∧ Clauses.QuotientsAndRoots ∧ Clauses.FusedMultiplyAdd ∧
    Clauses.OrderSignIntegral ∧ Clauses.ExactPowers

/-- 07_vector R124, R125: a compare writes, for each mask bit, the test of the lane that the bit governs (in f16, of both
lanes), keeps the bits that the mask governs off, and adds the governed lanes' flags; md = m0 discards the result. -/
def Obligations.VectorCompareResults : Prop :=
  ∀ (s : State) (e m : MReg) (a b : VReg) (t : CmpFmt), s.calm → s.hasVectors [a, b] →
    let gives (i : Instr) (t : CmpFmt) (test : Nat → Nat → Bool × Flags) : Prop :=
      let w := cmpWidth t
      let at_ (j : Nat) := test (laneOf w (s.v a) j) (laneOf w (s.v b) j)
      ∃ (u : State) (r : BitVec 32), exec i s = .next u ∧
        (∀ j < 32, r.getLsbD j = if (s.mask m).getLsbD (if t = .f64 then j / 2 * 2 else j) then
            (match t with
             | .f16 => (at_ (2 * j)).1 && (at_ (2 * j + 1)).1
             | .f64 => (at_ (j / 2)).1
             | _ => (at_ j).1)
          else (s.mask e).getLsbD j) ∧
        Writes s u fun k => { k with
          m := if e = 0 then k.m else k.m.set e.val r,
          fflags := k.fflags ||| laneFlags w (s.mask m) fun j => (at_ j).2 }
    let both (ic : BitVec 32 → BitVec 32 → Bool) (fc : FloatCond) (x y : Nat) : Bool × Flags :=
      match t with
      | .i32 => (ic (BitVec.ofNat 32 x) (BitVec.ofNat 32 y), 0)
      | .f32 => fcmp f32 fc x y
      | .f16 => fcmp f16 fc x y
      | .f64 => fcmp f64 fc x y
    gives (.vcmpEq e a b m t) t (both (fun x y => decide (x = y)) .eq) ∧
    gives (.vcmpNe e a b m t) t (both (fun x y => decide (x ≠ y)) .ne) ∧
    gives (.vcmpLt e a b m t) t (both (fun x y => decide (x.toInt < y.toInt)) .lt) ∧
    gives (.vcmpGe e a b m t) t (both (fun x y => decide (y.toInt ≤ x.toInt)) .ge) ∧
    gives (.vcmpLtn e a b m) .i32 (fun x y => (decide (x % 2 ^ 32 < y % 2 ^ 32), 0)) ∧
    gives (.vcmpGen e a b m) .i32 (fun x y => (decide (y % 2 ^ 32 ≤ x % 2 ^ 32), 0)) ∧
    (t ≠ .i32 → gives (.vcmpUnord e a b m t) t (both (fun _ _ => false) .unord) ∧
      gives (.vcmpOrd e a b m t) t (both (fun _ _ => false) .ord))

/-- 02_encoding R34, R46, 04_registers R73: a vector register at or above VCNT traps VREG, with TVAL the number held by the
highest such field of the word: vd ahead of va ahead of vb, and vc last. -/
def Clauses.VectorRegisterTrap : Prop :=
  ∀ (s : State) (d a b c : VReg) (m : MReg) (t : FmaFmt),
    let traps (i : Instr) (r : VReg) := exec i s = .next (s.takeTrap s.cur .vreg 0 (BitVec.ofNat 64 r.val))
    let n := s.me.vcnt
    (n ≤ d.val → traps (.vaddI32 d a b m) d ∧ traps (.vaddF32 d a b m) d ∧ traps (.vfma d a b c t) d ∧ traps (.vmov d a m) d) ∧
    (d.val < n → n ≤ a.val →
      traps (.vaddI32 d a b m) a ∧ traps (.vaddF32 d a b m) a ∧ traps (.vfma d a b c t) a ∧ traps (.vmov d a m) a) ∧
    (d.val < n → a.val < n → n ≤ b.val → traps (.vaddI32 d a b m) b ∧ traps (.vaddF32 d a b m) b ∧ traps (.vfma d a b c t) b) ∧
    (d.val < n → a.val < n → b.val < n → n ≤ c.val → traps (.vfma d a b c t) c)

/-- 07_vector R127-R132, 05_numbers R95: the moves, permutes, reductions, conversions and block operations of VMISC. -/
def Clauses.VectorMoveResults : Prop :=
  ∀ (s : State) (d a b : VReg) (x : XReg) (m : MReg) (w : LaneWidth) (l n : Fin 64) (f : PsFmt) (c : Conv),
    s.calm → s.hasVectors [d, a, b] → l.val < w.lanes → n.val < f.blocks →
    let on (w j : Nat) := governs w (s.mask m) j
    let keep (w j : Nat) := laneOf w (s.v d) j
    let first (i : Instr) (r : Nat) (fl : Flags) := SetsLanes i s 32 d (fun j => if j = 0 then r else keep 32 j) fl
    let present := (List.range 32).filter fun j => (s.mask m).getLsbD j
    let conv := convOp c s.mode
    SetsLanes (.vbcast d w x m) s w.bits d (fun j => if on w.bits j then (s.x x).toNat else keep w.bits j) 0 ∧
    (∃ t, exec (.vextr w x a l) s = .next t ∧
      Writes s t (·.setX x (BitVec.ofInt 64 ((laneOf w.bits (s.v a) l.val : Int).bmod (2 ^ w.bits))))) ∧
    SetsLanes (.vins d w x l) s w.bits d (fun j => if j = l.val then (s.x x).toNat else keep w.bits j) 0 ∧
    SetsLanes (.vmov d a m) s 32 d (fun j => if on 32 j then laneOf 32 (s.v a) j else keep 32 j) 0 ∧
    SetsLanes (.viota d m) s 32 d (fun j => if on 32 j then j else keep 32 j) 0 ∧
    SetsLanes (.vsel d a b m) s 32 d (fun j => if (s.mask m).getLsbD j then laneOf 32 (s.v a) j else laneOf 32 (s.v b) j) 0 ∧
    SetsLanes (.vperm d a b m) s 32 d
      (fun j => if on 32 j then laneOf 32 (s.v a) (laneOf 32 (s.v b) j % 32) else keep 32 j) 0 ∧
    first (.vredAddI32 d a m) (present.map fun j => laneOf 32 (s.v a) j).sum 0 ∧
    (∃ r : BitVec 32, first (.vredMaxI32 d a m) r.toNat 0 ∧
      (∀ j ∈ present, (BitVec.ofNat 32 (laneOf 32 (s.v a) j)).toInt ≤ r.toInt) ∧
      (r.toInt = -2 ^ 31 ∨ ∃ j ∈ present, laneOf 32 (s.v a) j = r.toNat)) ∧
    (let r := tree (fadd f32 s.mode) 5 (presentLanes (s.mask m) (s.v a)) 0
     first (.vredAddF32 d a m) ((r.1.headD none).getD 0) r.2) ∧
    (let r := tree (fminmax f32 false) 5 (presentLanes (s.mask m) (s.v a)) 0
     first (.vredMaxF32 d a m) ((r.1.headD none).getD 0) r.2) ∧
    SetsLanes (.vcvt d a c m) s conv.2.1 d
      (fun j => if on conv.2.1 j ∧ j < conv.2.2.1 then (conv.2.2.2 (laneOf conv.1 (s.v a) j)).1 else keep conv.2.1 j)
      (laneFlags conv.2.1 (s.mask m) fun j => if j < conv.2.2.1 then (conv.2.2.2 (laneOf conv.1 (s.v a) j)).2 else 0) ∧
    SetsLanes (.vunpk d a n f) s 32 d
      (fun j => if j < 16 then psToF32 (psElem f.mag (psBlock f (s.v a) n.val) j) else keep 32 j) 0 ∧
    (let xs := (List.range 16).map fun j => f32.unpack (laneOf 32 (s.v a) j)
     let q := quantise f.mag xs
     SetsLanes (.vpack d a n f) s 8 d
      (fun j => if n.val * f.bytes ≤ j ∧ j < (n.val + 1) * f.bytes then q.1 / 2 ^ (8 * (j - n.val * f.bytes)) else keep 8 j)
      ((if xs.any Fl.isSig then NV else 0) ||| if q.2 then OF else 0)) ∧
    (let q (i : Nat) := baddBlocks f.mag (psBlock f (s.v a) i) (psBlock f (s.v b) i)
     SetsLanes (.baddq d a b f) s 8 d
      (fun j => if j < f.blocks * f.bytes then (q (j / f.bytes)).1 / 2 ^ (8 * (j % f.bytes)) else keep 8 j)
      (if (List.range f.blocks).any fun i => (q i).2 then OF else 0))

/-- 10_access R184, 09_memories R167: with every governed lane's address translated, its bank unlocked and its bytes
neither lost nor poisoned, a vector load puts the four bytes at each governed lane's address into that lane (the thread
holds no buffered store here), and a vector store in the private range writes the governed lanes, in rising order, so that
a higher lane's bytes remain; a phase-class store with room in the buffer changes no byte of memory but spill records. -/
def Clauses.VectorMemoryResults : Prop :=
  ∀ (s : State) (v i : VReg) (a x : XReg) (m : MReg) (n : Fin 16) (k : Fin 4) (ls : List (Nat × Word × Nat)),
    s.calm → s.hasVectors [v, i] → s.noEvent → Memory.wf s.mem = true →
    let unit (j : Nat) : Word := BitVec.ofNat 64 ((s.x a).toNat + 128 * n.val + 4 * j)
    let stride (j : Nat) : Word := BitVec.ofNat 64 ((s.x a).toNat + 128 * n.val + j * (s.x x).toNat)
    let index (j : Nat) : Word := BitVec.ofInt 64 ((s.x a).toInt + (BitVec.ofNat 32 (laneOf 32 (s.v i) j)).toInt * 2 ^ k.val)
    let loads (ins : Instr) (addr : Nat → Word) : Prop :=
      s.laneAddrs m .r addr = .ok ls → s.ownEntries = [] →
      (∀ l ∈ ls, s.touchable l.2.1 l.2.2 4 true = .ok () ∧ inCtl (l.2.2 % 2 ^ 43) = false) →
      ∃ w : Vec, (∀ j < 32, laneOf 32 w j =
          match ls.find? fun l => l.1 == j with
          | some l => s.num (l.2.2 % 2 ^ 43) 4
          | none => laneOf 32 (s.v v) j) ∧
        Reads ins s fun q => { q with v := q.v.set v.val w }
    let stores (ins : Instr) (addr : Nat → Word) : Prop :=
      s.laneAddrs m .w addr = .ok ls →
      (∀ l ∈ ls, s.touchable l.2.1 l.2.2 4 false = .ok () ∧ l.2.2 / 2 ^ 43 = s.pkg ∧ s.plain (l.2.2 % 2 ^ 43) 4 ∧
        s.offTables (l.2.2 % 2 ^ 43) 4 ∧ s.inZone (l.2.2 % 2 ^ 43) = false ∧ s.ticketWords.contains (l.2.2 % 2 ^ 43 / 8 * 8) = false) →
      ((∀ l ∈ ls, s.me.isPrivate l.2.1 = true) → s.ownEntries = [] →
        ∃ t, Stores ins s t (fun r => ∃ l ∈ ls, span (l.2.2 % 2 ^ 43) 4 r) id ∧
          t.mem = Memory.write s.mem (ls.flatMap fun l => cells (l.2.2 % 2 ^ 43) (toBytes 4 (laneOf 32 (s.v v) l.1)))) ∧
      ((∀ l ∈ ls, s.me.isPrivate l.2.1 = false) → s.myCore.buffer.length ≤ 32 → ∃ t, Stores ins s t s.spilled id)
    loads (.vld v a m n) unit ∧ loads (.vlds v a x m n) stride ∧ loads (.vgath v a i m k) index ∧
    stores (.vst v a m n) unit ∧ stores (.vsts v a x m n) stride ∧ stores (.vscat v a i m k) index

/-- 10_access R183, 05_numbers R98: a `vamo` on plain memory of this package, translated, unlocked, neither lost nor
poisoned, replaces each element of the 32-byte group by the operation's result and returns the old bytes in the group;
a float form adds its flags to FFLAGS. -/
def Clauses.VectorAtomicResults : Prop :=
  ∀ (s : State) (v : VReg) (a : XReg) (g : Fin 4) (da : Nat),
    s.calm → s.hasVectors [v] → Memory.wf s.mem = true → s.translate (s.x a) .w 32 = .ok da → s.translate (s.x a) .rw 32 = .ok da →
    da / 2 ^ 43 = s.pkg → s.touchable (s.x a) da 32 true = .ok () → s.plain (da % 2 ^ 43) 32 → s.ownEntries = [] →
    s.offTables (da % 2 ^ 43) 32 →
    let q := da % 2 ^ 43
    let does (i : Instr) (z : Nat) (op : Nat → Nat → Nat × Flags) : Prop :=
      let at_ (e : Nat) := op (s.num (q + z * e) z) (bits (s.v v).toNat (256 * g.val + 8 * z * e) (8 * z))
      ∃ (t : State) (w : Vec),
        (∀ j < 128, laneOf 8 w j = if 32 * g.val ≤ j ∧ j < 32 * g.val + 32 then
            (Memory.get s.mem (q + (j - 32 * g.val))).toNat else laneOf 8 (s.v v) j) ∧
        Stores i s t (span q 32) (fun k => { k with
          v := k.v.set v.val w
          fflags := k.fflags ||| (List.range (32 / z)).foldl (fun f e => f ||| (at_ e).2) 0 }) ∧
        ∀ e < 32 / z, t.num (q + z * e) z = (at_ e).1 % 2 ^ (8 * z)
    let int (f : BitVec 32 → BitVec 32 → BitVec 32) (x y : Nat) : Nat × Flags := ((f (BitVec.ofNat 32 x) (BitVec.ofNat 32 y)).toNat, 0)
    does (.vamoAddI32 v a g) 4 (int fun x y => x + y) ∧
    does (.vamoMinI32 v a g) 4 (int fun x y => if x.toInt < y.toInt then x else y) ∧
    does (.vamoMaxI32 v a g) 4 (int fun x y => if x.toInt < y.toInt then y else x) ∧
    does (.vamoMinnN32 v a g) 4 (int fun x y => if x.toNat < y.toNat then x else y) ∧
    does (.vamoMaxnN32 v a g) 4 (int fun x y => if x.toNat < y.toNat then y else x) ∧
    does (.vamoAnd v a g) 4 (int fun x y => x &&& y) ∧
    does (.vamoOr v a g) 4 (int fun x y => x ||| y) ∧
    does (.vamoXor v a g) 4 (int fun x y => x ^^^ y) ∧
    does (.vamoAddF32 v a g) 4 (fadd f32 s.mode) ∧
    does (.vamoMinF32 v a g) 4 (fminmax f32 true) ∧
    does (.vamoMaxF32 v a g) 4 (fminmax f32 false) ∧
    does (.vamoAddBf16 v a g) 2 (fadd bf16 s.mode)

/-- 10_access R177, R183, R184, 02_encoding R50: a vector access ends at the first governed lane whose translation fails, and, with all
of them translated, at the first whose bytes may not be touched; a `vamo` ends as an atomic does. -/
def Clauses.VectorMemoryTraps : Prop :=
  ∀ (s : State) (v i : VReg) (a x : XReg) (m : MReg) (n : Fin 16) (k g : Fin 4) (e : Stop), s.hasVectors [v, i] →
    let fails (ins : Instr) (acc : Acc) (reads : Bool) (addr : Nat → Word) : Prop :=
      (∀ j < 32, (s.mask m).getLsbD j = true → s.translate (addr j) acc 4 = .error e →
        (∀ l < j, (s.mask m).getLsbD l = true → ∃ da, s.translate (addr l) acc 4 = .ok da) → EndsAt ins s e) ∧
      ∀ pre l post, s.laneAddrs m acc addr = .ok (pre ++ l :: post) → (∀ l ∈ pre, s.touchable l.2.1 l.2.2 4 reads = .ok ()) →
        s.touchable l.2.1 l.2.2 4 reads = .error e → EndsAt ins s e
    let va := s.x a
    let vamo (ins : Instr) : Prop :=
      (s.translate va .w 32 = .error e → EndsAt ins s e) ∧
      ∀ da, s.translate va .w 32 = .ok da → da / 2 ^ 43 = s.pkg →
        (s.translate va .rw 32 = .error e → EndsAt ins s e) ∧
        (s.translate va .rw 32 = .ok da → redHeader (da % 2 ^ 43) 32 = true → EndsAt ins s (.trap .prot 0 va)) ∧
        (s.translate va .rw 32 = .ok da → redHeader (da % 2 ^ 43) 32 = false → s.touchable va da 32 true = .error e → EndsAt ins s e)
    fails (.vld v a m n) .r true (s.laneUnit a n) ∧ fails (.vlds v a x m n) .r true (s.laneStride a x n) ∧
    fails (.vgath v a i m k) .r true (s.laneIndex a i k) ∧ fails (.vst v a m n) .w false (s.laneUnit a n) ∧
    fails (.vsts v a x m n) .w false (s.laneStride a x n) ∧ fails (.vscat v a i m k) .w false (s.laneIndex a i k) ∧
    vamo (.vamoAddI32 v a g) ∧ vamo (.vamoMinI32 v a g) ∧ vamo (.vamoMaxI32 v a g) ∧ vamo (.vamoMinnN32 v a g) ∧
    vamo (.vamoMaxnN32 v a g) ∧ vamo (.vamoAnd v a g) ∧ vamo (.vamoOr v a g) ∧ vamo (.vamoXor v a g) ∧
    vamo (.vamoAddF32 v a g) ∧ vamo (.vamoMinF32 v a g) ∧ vamo (.vamoMaxF32 v a g) ∧ vamo (.vamoAddBf16 v a g)

/-- 02_encoding R49: Round of a representable value and of any other, and rounding to an integral value. -/
def Obligations.Rounding : Prop := Clauses.RoundExact ∧ Clauses.RoundToInteger ∧ Clauses.RoundValues

/-- 07_vector R127-R132, 05_numbers R95, 04_registers R73, 02_encoding R46: moves, permutes and conversions of vector registers, and the trap
of a vector register that the slot does not hold, for an operation with three, with four and with two vector fields. -/
def Obligations.VectorMoves : Prop := Clauses.VectorMoveResults ∧ Clauses.VectorRegisterTrap

/-- 10_access R177, R183, R184, 02_encoding R50: vector loads, stores and atomics, and where they trap or stall. -/
def Obligations.VectorMemory : Prop := Clauses.VectorMemoryResults ∧ Clauses.VectorAtomicResults ∧ Clauses.VectorMemoryTraps

/-! ### Privilege, traps and the supervisor -/

/-- 02_encoding R44, R46, 04_registers R75: a tenant slot that executes a privileged instruction traps PRIV with the instruction word,
and no other state changes. -/
def Clauses.PrivilegedTrap : Prop :=
  ∀ (s : State) (i : Instr) (w : BitVec 32), needsSupervisor i = true → i.wellFormed = true → encode i = some w → s.isSup = false →
    exec i s = .next (s.takeTrap s.cur .priv 0 (w.setWidth 64))

/-- 04_registers R75, R76: a `crw` of a register whose every field is RO or Reserved does not decode, so it traps ILLOP with its word in
every slot, ahead of PRIV. -/
def Clauses.ReadOnlyRegisters : Prop :=
  ∀ (s : State) (a : XReg) (r : Cr) (w : BitVec 32), readOnly r = true → encode (.crw a r) = some w →
    decode w = .error .pairing ∧ exec (.illegalInstruction w) s = .next (s.takeTrap s.cur .illop 0 (w.setWidth 64))

/-- 08_slots R365: in slot 15 the instructions that act for a population trap ILLOP with the instruction word. -/
def Clauses.SupervisorOnlyInstructions : Prop :=
  ∀ (s : State) (i : Instr) (w : BitVec 32), needsTenant i = true → encode i = some w → s.isSup = true →
    exec i s = .next (s.takeTrap s.cur .illop 0 (w.setWidth 64))

/-- 02_encoding R30, R43, R46: a word that does not decode traps ILLOP with the word; a fetch whose checks fail traps as a load of the
four bytes would, with the execute right in place of the read right: PROT, XLAT, NOREMLD or POISON with TPC and TVAL the PC,
PGLOST for a lost line; it stalls on a locked bank (08_slots R140). -/
def Obligations.FetchAndDecodeFailures : Prop :=
  ∀ (s : State) (w : BitVec 32),
    let pc := s.me.pc
    let q (da : Nat) : Nat := da % 2 ^ 43
    let traps (c : Cause) : Prop := Traps .instructionFetchFault s c 0 pc
    exec (.illegalInstruction w) s = .next (s.takeTrap s.cur .illop 0 (w.setWidth 64)) ∧
    (∀ e, s.fetchAt = .error e → EndsAt .instructionFetchFault s e ∧ ∀ c sub v, e = .trap c sub v → v = pc) ∧
    (∀ c sub v, s.translate pc .x 4 = .error (.trap c sub v) → traps c) ∧
    (∀ da, s.translate pc .x 4 = .ok da → da / 2 ^ 43 = s.pkg →
      (s.isSup = true ∨ s.lockedAt (q da) = none ∨ ∃ b, s.lockedAt (q da) = some b ∧ freedFrom s.me.stalls b = true) →
      (∀ l, s.lostAt (q da) 4 = some l → EndsAt .instructionFetchFault s (.lost l pc)) ∧
      (s.lostAt (q da) 4 = none → (s.poisonedAt (q da) 4).isSome = true → traps .poison)) ∧
    (∀ da b, s.translate pc .x 4 = .ok da → da / 2 ^ 43 = s.pkg → s.isSup = false → s.lockedAt (q da) = some b →
      freedFrom s.me.stalls b = false → EndsAt .instructionFetchFault s (.stall b.1 b.2))

/-- 08_slots R141, R144, 02_encoding R46: a precise trap of a tenant slot parks it and queues a record of cause, subcode,
slot, TVAL, TS and the PC, or for SYSCALL the next PC (R147); its registers, its PC, every other slot and every byte of
memory stay (where no Mint instruction runs in the slot), and so do the trap registers, which slot 15 takes later. -/
def Clauses.TrapEntry : Prop :=
  ∀ (s : State) (p : Place) (cause : Cause) (sub : Nat) (tval : Word), p.slot ≠ 15 → (s.slotAt p).mint = none →
    let t := s.takeTrap p cause sub tval
    let old := s.slotAt p
    let new := t.slotAt p
    let r : TrapRec :=
      { pop := old.popid, cause, sub := BitVec.ofNat 8 sub, slot := p.slot, async := false, tval,
        tpc := if cause = .syscall then old.pc + 4 else old.pc, tts := old.ts }
    new.state = .parked ∧ new.trapped = some r ∧ new.wait = none ∧
    new.x = old.x ∧ new.p = old.p ∧ new.m = old.m ∧ new.v = old.v ∧ new.pc = old.pc ∧ new.fflags = old.fflags ∧ new.opt = old.opt ∧
    (t.core p.core.val).records = (s.core p.core.val).records ++ [r] ∧
    (t.core p.core.val).trap = (s.core p.core.val).trap ∧
    SameBytes s t ∧ ∀ q, q ≠ p → t.slotAt q = s.slotAt q

/-- 08_slots R145: a precise trap of slot 15 while a record is being handled saves the trap registers, delivers the new
record and goes to the supervisor's entry; a second one, or one with no record in hand, stops the slot. -/
def Clauses.NestedTrap : Prop :=
  ∀ (s : State) (c : CoreId) (cause : Cause) (sub : Nat) (tval : Word),
    let p : Place := { core := c, slot := 15 }
    (s.slotAt p).mint = none →
    let k := s.core c.val
    let t := s.takeTrap p cause sub tval
    (k.trap.tcause.toNat % 256 ≠ 0 → k.hidden = none →
      (t.core c.val).hidden = some k.trap ∧ (t.slotAt p).pc = k.entry ∧ (t.slotAt p).state = .ready ∧
      (t.core c.val).trap.tcause = BitVec.ofNat 64 (cause.code.toNat + 256 * (sub % 256) + 65536 * 15) ∧
      (t.core c.val).trap.tval = tval ∧ (t.core c.val).trap.tpc = (s.slotAt p).pc ∧ (t.core c.val).trap.tts = (s.slotAt p).ts ∧
      (t.slotAt p).x = (s.slotAt p).x) ∧
    (k.trap.tcause.toNat % 256 = 0 ∨ k.hidden ≠ none → (t.slotAt p).state = .stopped ∧ (t.core c.val).trap = k.trap) ∧
    SameBytes s t ∧ ∀ q, q ≠ p → t.slotAt q = s.slotAt q

/-- 08_slots R147: `trap` raises SYSCALL with its code as the subcode and X[xa] as TVAL, and `brk` raises BRKPT with its code
as TVAL; TPC is the next instruction for `trap`, and the instruction itself for `brk` (`TrapEntry`). -/
def Clauses.SystemCallAndBreakpoint : Prop :=
  ∀ (s : State) (a : XReg) (c : BitVec 8) (b : BitVec 12), s.isSup = false →
    exec (.trap a c) s = .next (s.takeTrap s.cur .syscall c.toNat (s.x a)) ∧
    exec (.brk b) s = .next (s.takeTrap s.cur .brkpt 0 (b.setWidth 64))

/-- 08_slots R144: slot 15 that waits for a record takes the oldest one: the trap registers hold it, the slot is READY at
the supervisor's entry, and the record leaves the queue; with no record, or with slot 15 busy, nothing changes. -/
def Clauses.TrapDelivery : Prop :=
  ∀ (s : State) (c : CoreId),
    let k := s.core c.val
    let p : Place := { core := c, slot := 15 }
    let ready := (s.slotAt p).state = .wait ∧ (s.slotAt p).wait = some .trapRecord
    (∀ r rest, k.records = r :: rest → ready → ∃ t, exec (.trapDelivery c) s = .next t ∧
      (t.core c.val).trap = { tcause := r.tcause, tval := r.tval, tpc := r.tpc, tts := r.tts } ∧ (t.core c.val).records = rest ∧
      t.slotAt p = { s.slotAt p with state := .ready, wait := none, pc := k.entry } ∧ SameBytes s t ∧
      ∀ q, q ≠ p → t.slotAt q = s.slotAt q) ∧
    (k.records = [] ∨ ¬ ready → exec (.trapDelivery c) s = .next s)

/-- 08_slots R146: `sret` from a record of a PARKED slot sends the slot on at TPC with the OPT bit of TTS, X[0] taking TVAL
after a SYSCALL; `sret.halt` and `sret.abort` halt its thread; all three clear TCAUSE, and slot 15 waits for the next
record, its entry the next instruction. (No rollback pending, no reservation, no other record of the slot.) -/
def Clauses.ReturnFromTrap : Prop :=
  ∀ (s : State) (sl : SlotId),
    let r := s.myCore.trap
    let p : Place := { core := s.cur.core, slot := sl }
    let old := s.slotAt p
    s.isSup = true → sl.val < 15 → r.tcause.toNat % 256 ≠ 0 → r.tcause.toNat / 65536 % 16 = sl.val →
    old.state = .parked → old.reserved = false → old.pending = none → old.intr = none → old.mint = none →
    (∀ e ∈ s.myCore.records, e.slot ≠ sl) →
    let ends (i : Instr) (after : State → Prop) : Prop := ∃ t, exec i s = .next t ∧
      (t.core s.myId).trap.tcause = 0 ∧ (t.core s.myId).entry = s.me.pc + 4 ∧
      t.me.pc = s.me.pc + 4 ∧ t.me.state = .wait ∧ t.me.wait = some .trapRecord ∧ after t
    ends .sret (fun t => t.slotAt p =
      { old with pc := r.tpc, opt := r.tts.getLsbD 0, state := .ready, evicting := false, trapped := none,
                 x := if r.tcause.toNat % 256 = 0x17 then old.x.set 0 r.tval else old.x } ∧ SameBytes s t) ∧
    ends .sretHalt (fun t =>
      (t.slotAt p).state = if old.opt = true ∧ old.evid ≠ 0 then .held else .done) ∧
    ends .sretAbort (fun t => (t.slotAt p).state = .done)

/-- 08_slots R145, R146: `sret` from a nested record of slot 15 restores the saved trap registers and goes on at TPC. -/
def Clauses.ReturnFromNestedTrap : Prop :=
  ∀ (s : State) (saved : TrapRegs),
    let r := s.myCore.trap
    s.isSup = true → r.tcause.toNat % 256 ≠ 0 → r.tcause.toNat / 65536 % 16 = 15 → r.tcause.getLsbD 20 = false →
    s.myCore.hidden = some saved → s.pop? s.me.popid = none →
    ∃ t, exec .sret s = .next t ∧ (t.core s.myId).trap = saved ∧ (t.core s.myId).hidden = none ∧
      t.me = { s.me with pc := r.tpc, wait := none, prog := .none, stalls := [] } ∧ SameBytes s t ∧
      ∀ q, q ≠ s.cur → t.slotAt q = s.slotAt q

/-! ### Control registers and slot instructions -/

/-- 04_registers R76, R78-R82: what `crd` reads, for each register; the privileged ones in slot 15. FFLAGS is read once the flags of
the thread's posted float atomics are there (07_vector R117). -/
def Obligations.ControlRegisterReads : Prop :=
  ∀ (s : State) (d : XReg), s.calm →
    let reads (r : Cr) (v : Nat) : Prop := SetsX (.crd d r) s d (BitVec.ofNat 64 v)
    let t := s.me
    let k := s.myCore
    let e := s.myDie
    (reads .pc t.pc.toNat ∧ reads .ts (t.opt.toNat + 2 * t.evo.toNat + 4 * t.prot.toNat + 16 * t.part.val) ∧
      reads .frm t.frm.toNat ∧ (s.flagsOut s.cur = false → reads .fflags t.fflags.toNat) ∧ reads .vcnt t.v.length ∧ reads .prvb t.prvb.toNat ∧
      reads .prvl t.prvl.toNat ∧ reads .lvt t.lvt.toNat ∧ reads .evsb t.evsb.toNat ∧ reads .evsl t.evsl.toNat ∧
      reads .evid t.evid.toNat ∧ reads .popid t.popid.toNat ∧ reads .slot s.cur.slot.val ∧ reads .core s.cur.core.val ∧
      reads .pkg s.boot.record.pkg.toNat ∧ reads .thidx t.thidx.toNat) ∧
    (reads .gvt e.gvt.toNat ∧ reads .vtdom (e.dom.toNat + 2 ^ 16 * e.domV.toNat) ∧ reads .tsc e.tsc.toNat ∧
      reads .clkc e.clkc.toNat ∧ reads .trsy e.trsy.toNat ∧ (e.asks.length < 2 ^ 16 → reads .admw e.asks.length) ∧
      (e.escrow.length < 2 ^ 13 → reads .escn e.escrow.length) ∧ reads .rolls e.rolls.toNat ∧ reads .annih e.annih.toNat) ∧
    (s.isSup = true →
      reads .tcause k.trap.tcause.toNat ∧ reads .tval k.trap.tval.toNat ∧ reads .tpc k.trap.tpc.toNat ∧
      reads .tts k.trap.tts.toNat ∧ reads .ttb k.ttb.toNat ∧ reads .mbt k.mbt.toNat ∧ reads .ulogb k.ulogb.toNat ∧
      reads .ulogl k.ulogl.toNat ∧ reads .slogb k.slogb.toNat ∧ reads .slogl k.slogl.toNat ∧ reads .mxw k.weight.toNat ∧
      reads .phbuf k.phbuf.toNat ∧ reads .partmap k.partmap.toNat ∧ reads .timer k.timer.toNat ∧ reads .wdwin k.wdwin.toNat ∧
      reads .fwd (k.fwdTo.toNat + 2 ^ 63 * k.fwdV.toNat) ∧ reads .clkl e.clkl.toNat ∧ reads .gvtr e.gvtr.toNat ∧
      reads .xinv (e.xscope.toNat + 2 ^ 4 * e.xpart.val + 2 ^ 12 * e.xpage.toNat + 2 ^ 63 * e.xbusy.toNat) ∧
      (∀ p : Port,
        let l := s.port p.val
        reads (.lkc0 p) l.lkc[0].toNat ∧ reads (.lkc1 p) l.lkc[1].toNat ∧ reads (.lkth p) l.lkth.toNat ∧
        reads (.lkaf p) l.lkaf.toNat ∧ reads (.lkrt p) l.lkrt.toNat ∧
        reads (.lksta p) (l.txs.toNat + 2 * l.rxs.toNat + 4 * l.swp.toNat + 8 * l.keys[0].loaded.toNat +
          16 * l.keys[1].loaded.toNat + 32 * l.up.toNat)) ∧
      reads .ctxsc (SMap.get KeyEntry.reset s.keys k.keySel.toNat).sc.toNat)

/-- 04_registers R76, R78, R79: what `crw` writes in the executing slot: FRM (a reserved mode changes nothing), FFLAGS (ones clear),
PRVB and PRVL (bits 5-0 read 0), EVSB and EVSL (bits 2-0 read 0), and TS.OPT set; and, in slot 15, the core's registers. That a
write of a log bound also takes the log's next record to its start is the model's choice (notes/assumptions/35). (PHBUF where no write is
withheld, which records that it adds could let in, 09_memories R175.) -/
def Clauses.SlotAndCoreRegisterWrites : Prop :=
  ∀ (s : State) (a : XReg), s.calm →
    let v := s.x a
    let slot (r : Cr) (f : Slot → Slot) : Prop := ∃ t, exec (.crw a r) s = .next t ∧ Writes s t f
    let low (n : Nat) : Word := BitVec.ofNat 64 (v.toNat / 2 ^ n * 2 ^ n)
    let core (r : Cr) (f : Core → Core) : Prop := ∃ t, exec (.crw a r) s = .next t ∧ SameBytes s t ∧
      t.me = { s.me with pc := s.me.pc + 4, wait := none, prog := .none, stalls := [] } ∧ (∀ q, q ≠ s.cur → t.slotAt q = s.slotAt q) ∧
      t = { s with cores := t.cores } ∧
      (∀ c, c ≠ s.myId → t.core c = { s.core c with watch := (t.core c).watch }) ∧
      t.core s.myId = { f s.myCore with slots := (t.core s.myId).slots, watch := (t.core s.myId).watch }
    let log : Word := BitVec.ofNat 64 (v.toNat % 2 ^ 24 / 8 * 8)
    let page : Word := BitVec.ofNat 64 (v.toNat % 2 ^ 24 / 2 ^ 12 * 2 ^ 12)
    slot .frm (fun k => if v.toNat % 8 ≤ 4 then { k with frm := BitVec.ofNat 3 v.toNat } else k) ∧
    (s.flagsOut s.cur = false → slot .fflags (fun k => { k with fflags := k.fflags &&& ~~~BitVec.ofNat 5 v.toNat })) ∧
    slot .prvb (fun k => { k with prvb := low 6 }) ∧ slot .prvl (fun k => { k with prvl := low 6 }) ∧
    slot .evsb (fun k => { k with evsb := low 3 }) ∧ slot .evsl (fun k => { k with evsl := low 3 }) ∧
    (v.getLsbD 0 = true → slot .ts fun k => { k with opt := true }) ∧
    (s.isSup = true →
      core .tcause (fun k => { k with trap := { k.trap with tcause := BitVec.ofNat 64 (v.toNat % 2 ^ 21) } }) ∧
      core .tval (fun k => { k with trap := { k.trap with tval := v } }) ∧
      core .tpc (fun k => { k with trap := { k.trap with tpc := low 2 } }) ∧
      core .tts (fun k => { k with trap := { k.trap with tts := v } }) ∧
      core .ttb (fun k => { k with ttb := page }) ∧ core .mbt (fun k => { k with mbt := page }) ∧
      (s.myCore.undo = [] → core .ulogb (fun k => { k with ulogb := log, undoAt := 0 }) ∧
        core .ulogl (fun k => { k with ulogl := log, undoAt := 0 })) ∧
      (s.myCore.sent = [] → core .slogb (fun k => { k with slogb := log, sentAt := 0 }) ∧
        core .slogl (fun k => { k with slogl := log, sentAt := 0 })) ∧
      core .mxw (fun k => if v.toNat % 16 = 0 then k else { k with weight := BitVec.ofNat 4 v.toNat }) ∧
      (s.myCore.spill = [] → s.withheld = [] → core .phbuf fun k =>
        { k with phbuf := BitVec.ofNat 64 (v.toNat % 2 ^ 24 / 2 ^ 12 * 2 ^ 12 + v.toNat / 2 ^ 32 % 2 ^ 8 * 2 ^ 32) }) ∧
      (∃ m : Word, m.toNat < 2 ^ 60 ∧
        (∀ i : Fin 15, m.extractLsb' (4 * i.val) 4 = (if (s.myCore.slots[i.val]).state = .free then v else s.myCore.partmap).extractLsb' (4 * i.val) 4) ∧
        core .partmap fun k => { k with partmap := m }) ∧
      core .timer (fun k => { k with timer := v }) ∧ core .wdwin (fun k => { k with wdwin := BitVec.ofNat 32 v.toNat }) ∧
      core .fwd (fun k => { k with fwdV := k.fwdV && !v.getLsbD 63 }))

/-- 04_registers R78, 15_messages R287: a `crw` that clears TS.OPT: at once where no event is open and none awaits its end; with an open
event it closes it, and completes once GVT has passed the event's LVT, until when it waits; bits of TS above OPT are not
written. 07_vector R117: a `crd` or `crw` of FFLAGS stalls while flags of the thread are still to come. -/
def Clauses.OptimisticModeWrites : Prop :=
  ∀ (s : State) (a d : XReg), s.calm → (s.x a).getLsbD 0 = false →
    let goes (f : Slot → Slot) : Prop := ∃ t, exec (.crw a .ts) s = .next t ∧ Writes s t f
    let final := s.me.lvt.toNat < s.myDie.gvt.toNat
    (s.me.opt = false → goes id) ∧
    (s.me.opt = true → s.me.evo = true → final → goes fun k => { k with opt := false, evo := false, range := none }) ∧
    (s.me.opt = true → s.me.evo = true → ¬ final →
      ∃ t, exec (.crw a .ts) s = .next t ∧ SlotOnly s t ∧
        t.me = { s.me with evo := false, range := none, prog := .ended, state := .wait, wait := some (.gvtAbove s.me.lvt), stalls := [] }) ∧
    (s.me.opt = true → s.me.evo = false → s.me.prog = .ended → ¬ final →
      ∃ t, exec (.crw a .ts) s = .next t ∧ SlotOnly s t ∧ t.me = { s.me with state := .wait, wait := some (.gvtAbove s.me.lvt), stalls := [] }) ∧
    (s.me.opt = true → s.me.evo = false → (s.me.prog ≠ .ended ∨ final) → goes fun k => { k with opt := false }) ∧
    (s.flagsOut s.cur = true → ∀ i : Instr, i = .crd d .fflags ∨ i = .crw a .fflags →
      ∃ t, exec i s = .next t ∧ SlotOnly s t ∧ t.me = { s.me with state := .stalled, wait := some (.flags s.cur), stalls := [] })

/-- 04_registers R80, R81: what `crw` writes in the registers of the die and of a link port, in slot 15: CLKL of every die; GVTR, no
less than 100; XINV with no invalidation in progress, which scopes 0-3 start and scopes 4-7 do not, as the model infers
(notes/assumptions/47); and LKTH. Of a die, a new CLKL changes at most the
schedule beside it (20_counters R339, R342). -/
def Clauses.DieRegisterWrites : Prop :=
  ∀ (s : State) (a : XReg), s.calm → s.isSup = true →
    let v := s.x a
    let moved (t : State) : Prop := t.me = { s.me with pc := s.me.pc + 4, wait := none, prog := .none, stalls := [] } ∧ SameBytes s t ∧
      (∀ q, q ≠ s.cur → t.slotAt q = s.slotAt q) ∧
      ∀ c, t.core c = { s.core c with slots := (t.core c).slots, watch := (t.core c).watch }
    let die (r : Cr) (f : Die → Die) : Prop := ∃ t, exec (.crw a r) s = .next t ∧ moved t ∧
      t = { s with cores := t.cores, dies := t.dies } ∧ t.myDie = f s.myDie ∧ ∀ d, d ≠ dieOf s.myId → t.die d = s.die d
    (∃ t, exec (.crw a .clkl) s = .next t ∧ moved t ∧ ∀ d < 8, t.die d = { s.die d with clkl := BitVec.ofNat 16 v.toNat, sched := (t.die d).sched }) ∧
    die .gvtr (fun k => { k with gvtr := BitVec.ofNat 32 (max 100 (v.toNat % 2 ^ 32)) }) ∧
    (s.myDie.xbusy = false → die .xinv fun k =>
      { k with xscope := BitVec.ofNat 3 v.toNat, xpart := Fin.ofNat 8 (v.toNat / 2 ^ 4), xpage := BitVec.ofNat 45 (v.toNat / 2 ^ 12),
               xbusy := decide (v.toNat % 8 < 4) }) ∧
    ∀ p : Port, ∃ t, exec (.crw a (.lkth p)) s = .next t ∧ moved t ∧ t = { s with cores := t.cores, ports := t.ports } ∧
      t.port p.val = { s.port p.val with lkth := BitVec.ofNat 48 v.toNat } ∧ ∀ q, q ≠ p.val → t.port q = s.port q

/-- 04_registers R76, R78-R81: what `crw` writes, register by register. The place of a log's next record is the model's choice
(notes/assumptions/35), and that a write of XINV with SCOPE 4-7 leaves BUSY clear its inference (notes/assumptions/47). -/
def Obligations.ControlRegisterWrites : Prop :=
  Clauses.SlotAndCoreRegisterWrites ∧ Clauses.OptimisticModeWrites ∧ Clauses.DieRegisterWrites

/-- 08_slots R137, 20_counters R332, 04_registers R73: `nop` and `yield`, the TSC, and the allocation of vector registers:
`valloc` binds 16n registers of zeros with m1-m7 all ones where enough are free and no request is ahead, and leaves the grant order;
where they are not it waits in that order, in which slot 15 goes first; it traps VREG with VCNT where the slot holds some; `vfree`
returns them all. -/
def Clauses.SlotInstructions : Prop :=
  ∀ (s : State) (d : XReg) (n : BitVec 12), s.calm →
    Goes .nop s (s.me.pc + 4) id ∧
    (s.isSup = false → Goes .yield s (s.me.pc + 4) fun k => { k with yielded := true }) ∧
    SetsX (.tsc d) s d s.myDie.tsc ∧
    (∃ m, Goes .vfree s (s.me.pc + 4) fun k => { k with v := [], m := m }) ∧
    (s.me.v = [] → s.myCore.grants = [] ∨ (s.isSup = true ∧ ∀ g ∈ s.myCore.grants, g.1 ≠ s.cur.slot) → 16 * n.toNat ≤ s.myCore.freeVectors →
      ∃ m : Vector (BitVec 32) 8, (∀ i : Fin 8, i ≠ 0 → m[i] = BitVec.allOnes 32) ∧
        Goes (.valloc n) s (s.me.pc + 4) fun k => { k with v := List.replicate (16 * n.toNat) 0, m := m }) ∧
    (∀ r rest, s.me.v = [] → s.myCore.grants = (s.cur.slot, r) :: rest → (∀ g ∈ rest, g.1 ≠ s.cur.slot) → 16 * n.toNat ≤ s.myCore.freeVectors →
      ∃ (t : State) (m : Vector (BitVec 32) 8), exec (.valloc n) s = .next t ∧ (∀ i : Fin 8, i ≠ 0 → m[i] = BitVec.allOnes 32) ∧
        t.me = { s.me with v := List.replicate (16 * n.toNat) 0, m := m, pc := s.me.pc + 4, wait := none, prog := .none, stalls := [] } ∧
        t.myCore.grants = rest ∧ SameBytes s t ∧ ∀ q, q ≠ s.cur → t.slotAt q = s.slotAt q) ∧
    (s.me.v = [] → s.isSup = true → (∀ g ∈ s.myCore.grants, g.1 ≠ s.cur.slot) → s.myCore.freeVectors < 16 * n.toNat →
      ∃ t, exec (.valloc n) s = .next t ∧ t.me = { s.me with state := .wait, wait := some (.regs (16 * n.toNat)), stalls := [] } ∧
        t.myCore.grants = (s.cur.slot, 16 * n.toNat) :: s.myCore.grants) ∧
    (s.me.v = [] → s.isSup = false → (∀ g ∈ s.myCore.grants, g.1 ≠ s.cur.slot) →
      s.myCore.grants ≠ [] ∨ s.myCore.freeVectors < 16 * n.toNat →
      ∃ t, exec (.valloc n) s = .next t ∧ t.me = { s.me with state := .wait, wait := some (.regs (16 * n.toNat)), stalls := [] } ∧
        t.myCore.grants = s.myCore.grants ++ [(s.cur.slot, 16 * n.toNat)]) ∧
    (s.me.v ≠ [] → exec (.valloc n) s = .next (s.takeTrap s.cur .vreg 0 (BitVec.ofNat 64 s.me.v.length)))

/-- 08_slots R138, 04_registers R74: `halt` makes the thread DONE, its vector registers and its allowance returned, or HELD
where it has begun an event; the PC moves on. -/
def Clauses.HaltEndsThread : Prop :=
  ∀ s : State, s.isSup = false → ∃ t, exec .halt s = .next t ∧
    (t.slotAt s.cur).pc = s.me.pc + 4 ∧ (t.slotAt s.cur).evo = false ∧
    (s.me.opt = true ∧ s.me.evid ≠ 0 → (t.slotAt s.cur).state = .held) ∧
    (¬ (s.me.opt = true ∧ s.me.evid ≠ 0) →
      (t.slotAt s.cur).state = .done ∧ (t.slotAt s.cur).v = [] ∧ (t.slotAt s.cur).res = 0)

/-- 08_slots R141, R143, R146, 15_messages R283: what waits for the boundary after an instruction, here after each shape of register
instruction, a branch taken or not, a load, a store in the private range and a fence: the instruction has its effect; then a thread that is
to stop becomes DONE; otherwise a boundary trap that is pending is taken, with the next PC, once no flags of the thread
are still to come (07_vector R117); otherwise a READY slot with a rollback pending is held STALLED. Which boundary stops a
thread is the model's reading (notes/assumptions/48). -/
def Obligations.BoundaryAfterInstruction : Prop :=
  ∀ (s : State), s.isSup = false → s.me.mint = none →
    let after (i : Instr) (next : Word) (f : Slot → Slot) : Prop :=
      let k := f s.me
      (s.me.stopping = true → ∃ t, exec i s = .next t ∧ (t.slotAt s.cur).state = .done ∧ (t.slotAt s.cur).x = k.x) ∧
      (∀ n, s.me.stopping = false → s.me.intr = some n → s.flagsOut s.cur = false →
        ∃ t, exec i s = .next t ∧ (t.slotAt s.cur).state = .parked ∧ (t.slotAt s.cur).x = k.x ∧ (t.slotAt s.cur).p = k.p ∧
        (t.slotAt s.cur).v = k.v ∧ (t.slotAt s.cur).trapped = some
          { pop := s.me.popid, cause := .intr, sub := BitVec.ofNat 8 n, slot := s.cur.slot, async := true, tval := 0, tpc := next, tts := s.me.ts }) ∧
      (s.me.stopping = false → s.me.intr = none → s.me.pending.isSome = true → s.me.state = .ready →
        ∃ t, exec i s = .next t ∧ (t.slotAt s.cur).state = .stalled ∧ (t.slotAt s.cur).pc = next ∧ (t.slotAt s.cur).x = k.x ∧
        (t.slotAt s.cur).p = k.p ∧ (t.slotAt s.cur).v = k.v)
    let next := s.me.pc + 4
    after .nop next id ∧
    (∀ (d a : XReg) (b : OpB) (v : Word), s.opB b = .ok v → after (.add d a b) next (·.setX d (s.x a + v))) ∧
    (∀ (d a : XReg) (im : BitVec 18), after (.addi d a im) next (·.setX d (s.x a + im.signExtend 64)) ∧
      after (.bdec 0 false a im) (if s.x a = 1 then next else next + BitVec.ofInt 64 (4 * im.toInt)) (·.setX a (s.x a - 1)) ∧
      after (.call im) (next + BitVec.ofInt 64 (4 * im.toInt)) (·.setX 15 next)) ∧
    (∀ (p : PReg) (n : Bool) (im : BitVec 18),
      after (.br p n im) (if (if n then !s.pred p else s.pred p) then next + BitVec.ofInt 64 (4 * im.toInt) else next) id) ∧
    (∀ a : XReg, (s.x a).toNat % 4 = 0 → after (.jmp a) (s.x a) id) ∧
    (∀ (d a : XReg), after (.mov d a) next (·.setX d (s.x a)) ∧ after (.tsc d) next (·.setX d s.myDie.tsc)) ∧
    (∀ (p : PReg) (a : XReg) (im : BitVec 16), after (.cmpiEq p a im) next (·.setP p (decide (s.x a = im.signExtend 64)))) ∧
    (∀ (p a b : PReg), after (.pand p a b) next (·.setP p (s.pred a && s.pred b))) ∧
    (∀ a : XReg, after (.crw a .prvb) next fun k => { k with prvb := BitVec.ofNat 64 ((s.x a).toNat / 64 * 64) }) ∧
    (∀ (d : VReg), s.hasVectors [d] → after (.viota d 0) next fun k => { k with v := k.v.set d.val (ofLanes 32 (List.range 32)) }) ∧
    (∀ (xt : XReg) (z : Size) (m : MemForm) (va : Word) (base : Option (XReg × Word)) (da : Nat),
      s.memAddr m z.bytes = .ok (va, base) → s.translate va .r z.bytes = .ok da → s.touchable va da z.bytes true = .ok () →
      s.ownEntries = [] → inCtl (da % 2 ^ 43) = false →
      after (.ldz xt z m) next fun k => (k.setX xt (BitVec.ofNat 64 (s.num (da % 2 ^ 43) z.bytes))).based base) ∧
    (∀ (xt : XReg) (z : Size) (m : MemForm) (va : Word) (base : Option (XReg × Word)) (da : Nat),
      s.noEvent → s.memAddr m z.bytes = .ok (va, base) → s.translate va .w z.bytes = .ok da → da / 2 ^ 43 = s.pkg →
      s.touchable va da z.bytes false = .ok () → inCtl (da % 2 ^ 43) = false → s.me.isPrivate va = true →
      after (.st xt z m) next (·.based base)) ∧
    (s.travelling s.cur 2 = false → after .fencePkg next id)

/-- 02_encoding R44, 04_registers R75, 08_slots R365: what traps PRIV in a tenant slot, what traps ILLOP ahead of it, and what slot 15 does
not execute. -/
def Obligations.PrivilegedInstructions : Prop :=
  Clauses.PrivilegedTrap ∧ Clauses.ReadOnlyRegisters ∧ Clauses.SupervisorOnlyInstructions

/-- 08_slots R141-R145: a trap of a tenant slot, and of slot 15. -/
def Obligations.TakingATrap : Prop := Clauses.TrapEntry ∧ Clauses.NestedTrap

/-- 08_slots R144, R147: the traps that a thread asks for, and the delivery of a record. -/
def Obligations.SystemCallsAndDelivery : Prop := Clauses.SystemCallAndBreakpoint ∧ Clauses.TrapDelivery

/-- 08_slots R145, R146: the end of a record, and of a nested trap. What an `sret` does to another slot than these is the
model's reading (notes/assumptions/27), and that a thread which has begun an event goes HELD after `sret.halt` is its choice
(notes/assumptions/86). -/
def Obligations.ReturningFromATrap : Prop := Clauses.ReturnFromTrap ∧ Clauses.ReturnFromNestedTrap

/-- 08_slots R137, R138, 04_registers R73: the instructions that act on the slot, and `halt`. -/
def Obligations.SlotAndThreadInstructions : Prop := Clauses.SlotInstructions ∧ Clauses.HaltEndsThread

/-! ### Fences, phases, waits and the Treasury -/

/-- 10_access R186, 09_memories R171, R174, 02_encoding R31: the fences complete when nothing of the thread's is on its way in
their scope, and wait while it is; `fence.l` waits for the thread's stores that are still to arrive and merges its buffered ones;
`fence.cb` makes every later fetch and capture give the committed word. What a store after `fence.l` does is the model's reading
(notes/assumptions/11), as is which stores are still to arrive (notes/assumptions/71), and the words that `fence.cb`
forgets are kept as notes/assumptions/66 says. -/
def Obligations.Fences : Prop :=
  ∀ s : State, s.calm →
    let on (i : Instr) (scope : Nat) : Prop :=
      (s.travelling s.cur scope = false → Goes i s (s.me.pc + 4) id) ∧
      (s.travelling s.cur scope = true → exec i s = .next (s.modMe fun k => { k with state := .wait, wait := some (.sent scope), stalls := [] }))
    on .fenceCore 0 ∧ on .fenceDie 1 ∧ on .fencePkg 2 ∧
    (s.travelling s.cur 2 = false →
      (s.outstandingAt s.cur = false → Goes .fenceDom s (s.me.pc + 4) id) ∧
      (s.outstandingAt s.cur = true → exec .fenceDom s = .next (s.modMe fun k => { k with state := .wait, wait := some .acked, stalls := [] }))) ∧
    (s.storing s.cur = true → exec .fenceL s = .next (s.modMe fun k => { k with state := .wait, wait := some .stored, stalls := [] })) ∧
    (Memory.wf s.mem = true → s.storing s.cur = false → ∃ t, Stores .fenceL s t s.spilled id ∧
      t.ownEntries = s.ownEntries.map fun e => { e with merged := true }) ∧
    ∃ t, exec .fenceCb s = .next t ∧ SlotOnly s t ∧
      t.me = { s.me with pc := s.me.pc + 4, wait := none, prog := .none, stalls := [], ibuf := t.me.ibuf, fenced := t.me.fenced } ∧
      (∀ q, t.fetchable q = [BitVec.ofNat 32 (ofBytes (t.portBytes q 4))]) ∧
      ((∀ e ∈ s.myCore.captured, e.when_ ≤ s.fresh) → ∀ q n, t.captured q n = t.bytes q n)

/-- 10_access R187: a thread that reaches `phase` waits until its earlier stores have arrived, then arrives at the phase in progress and
waits for it; when the phase that it arrived at is over, the instruction completes. In an optimistic thread it traps ILLOP. Which
stores are still to arrive is the model's reading (notes/assumptions/71). -/
def Clauses.PhaseArrivesThenCompletes : Prop :=
  ∀ (s : State) (p : Pop), s.calm → s.isSup = false → s.me.opt = false → s.myPop = some p →
    ((∀ g, s.me.prog ≠ .arrived g) → s.storing s.cur = true →
      exec .phase s = .next (s.modMe fun k => { k with state := .wait, wait := some .stored, stalls := [] })) ∧
    (s.me.prog = .arrived p.phase ∨ ((∀ g, s.me.prog ≠ .arrived g) ∧ s.storing s.cur = false) → ∃ t, exec .phase s = .next t ∧
      t.me = { s.me with state := .wait, wait := some (.phaseOver p.id p.phase), prog := .arrived p.phase, stalls := [] } ∧
      (∃ q, t.myPop = some q ∧ s.cur ∈ q.arrived ∧ q.phase = p.phase) ∧ SameBytes s t) ∧
    ∀ g, s.me.prog = .arrived g → p.phase ≠ g → Goes .phase s (s.me.pc + 4) id

/-- 10_access R185: `watch` arms the slot's monitor on the line of the address; `waitr` loads the word and drops the monitor
once the word differs from xd or the monitor has fired on its line, and waits until then. That the line is the 64-byte
line is the model's reading (notes/assumptions/8). -/
def Obligations.WatchAndWait : Prop :=
  ∀ (s : State) (d a : XReg) (da : Nat), s.calm → s.translate (s.x a) .r 8 = .ok da →
    let q := da % 2 ^ 43
    let now := s.word q
    let fired := ∃ m, s.me.monitor = some m ∧ m.line = q / 64 ∧ m.fired = true
    Reads (.watch a) s (fun k => { k with monitor := some { line := q / 64, fired := false } }) ∧
    (s.touchable (s.x a) da 8 true = .ok () → inCtl q = false →
      (now ≠ s.x d ∨ fired → Reads (.waitr d a) s fun k => { (k.setX d now) with monitor := none }) ∧
      (now = s.x d → ¬ fired → ∃ t, exec (.waitr d a) s = .next t ∧
        t.me = { s.me with state := .wait, wait := some (.word q (s.x d)), stalls := [] } ∧ SameBytes s t))

/-- 20_counters R335-R337, R342: `admit` takes an allowance from TRSY, at most TRBUD, at once where the queue is empty and TRSY
suffices, and otherwise queues the request and waits; `admit.end` returns the reservation and reports it; a granted
request completes. `clkq` reads an entry of the schedule of ceiling changes. -/
def Obligations.TreasuryInstructions : Prop :=
  ∀ (s : State) (d a : XReg), s.calm →
    let die := s.myDie
    let n := Nat.min (s.x a).toNat die.trbud.toNat
    let does (i : Instr) (f : Slot → Slot) (g : Die → Die) : Prop := ∃ t, exec i s = .next t ∧
      t = { s with cores := t.cores, dies := t.dies } ∧ SameBytes s t ∧ (∀ q, q ≠ s.cur → t.slotAt q = s.slotAt q) ∧
      t.me = { f s.me with pc := s.me.pc + 4, wait := none, prog := .none, stalls := [] } ∧ t.myDie = g die
    (n = 0 → Goes (.admitTake a) s (s.me.pc + 4) id) ∧
    (0 < n → s.me.prog ≠ .granted → die.asks = [] → n ≤ die.trsy.toNat →
      does (.admitTake a) (fun k => { k with res := k.res + n })
        fun e => { e with trsy := BitVec.ofNat 32 (e.trsy.toNat - n), trgr := e.trgr + 1 }) ∧
    (0 < n → s.me.prog = .granted → does (.admitTake a) (fun k => { k with res := k.res + n }) id) ∧
    (0 < n → s.me.prog ≠ .granted → (∀ e ∈ die.asks, e.place ≠ s.cur) → die.asks ≠ [] ∨ die.trsy.toNat < n →
      ∃ t, exec (.admitTake a) s = .next t ∧ t.me = { s.me with state := .wait, wait := some .allowance, stalls := [] } ∧
        t.myDie = { die with asks := die.asks ++ [{ place := s.cur, cost := n }], trwt := die.trwt + 1 }) ∧
    does (.admitEnd d) (fun k => { (k.setX d (BitVec.ofNat 64 k.res)) with res := 0 })
      (fun e => { e with trsy := BitVec.ofNat 32 (Nat.min (e.trsy.toNat + s.me.res) e.trbud.toNat) }) ∧
    (∀ time mhz, die.sched[(s.x a).toNat]? = some (time, mhz) →
      SetsX (.clkq d a) s d (BitVec.ofNat 64 (time.toNat / 1000 * 2 ^ 16 + mhz.toNat))) ∧
    (die.sched.length ≤ (s.x a).toNat → SetsX (.clkq d a) s d 0)

/-! ### Tiles -/

/-- 11_matrix R208, R209: `tldef` makes an undefined handle a plain EMPTY tile of the thread's partition with the base, size
and shape of its parameter block, and writes its status word to 0; `tlring` makes one a ring over defined plain tiles, with the
fields that R209 lists, and marks them as its members. The other entries of the table stay. -/
def Clauses.TileDefinition : Prop :=
  ∀ (s : State) (h u : TileH) (n : KIdx), s.calm → s.isSup = false → Memory.wf s.mem = true → (s.tile s.myId h.val).v = false →
    let c := s.myId
    let fresh : Tile :=
      { base := 0, size := 0, shape := 0, state := .empty, err := 0, ring := false, memb := false, first := 0, nm1 := 0,
        readers := 0, pend := 0, part := s.me.part.val, v := true, mxf := false, pidx := 0, cidx := 0, owner := s.me.popid.toNat }
    (∀ (base size i : Nat) (s1 s2 : State) (shape : Shape), s.params n = .ok ((base, size, i, 0), s1) →
      base % 64 = 0 → size % 64 = 0 → size ≠ 0 → i < 2 ^ 16 → s1.ownsLocal s.me.part.val base (size + 32) = true →
      s1.shape i .either = .ok (shape, s2) → shape.size ≤ size →
      let status := vaultBase c + base + size
      (∀ r, span status 32 r → ¬ s.tileTable r) → s.unlockedAt status = .ok () →
      ∃ t, Edits (.tldef h n) s t (fun r => s.tileTable r ∨ span status 32 r) id ∧
        t.tile c h.val = { fresh with base, size := size / 64, shape := i } ∧
        (∀ k < 64, k ≠ h.val → t.tile c k = s.tile c k) ∧ t.bytes status 32 = List.replicate 32 0) ∧
    (s.owned u → 2 ≤ n.val → n.val ≤ 16 → u.val + n.val ≤ 64 → (h.val < u.val ∨ u.val + n.val ≤ h.val) →
      (∀ k, u.val ≤ k → k < u.val + n.val →
        (s.tile c k).v = true ∧ (s.tile c k).part = s.me.part.val ∧ (s.tile c k).ring = false ∧ (s.tile c k).memb = false) →
      ∃ t, Edits (.tlring h u n) s t s.tileTable id ∧
        t.tile c h.val = { s.tile c h.val with
          ring := true, first := u.val, nm1 := n.val - 1, pidx := 0, cidx := 0, part := s.me.part.val, owner := s.me.popid.toNat, v := true } ∧
        ∀ k < 64, k ≠ h.val → t.tile c k =
          if u.val ≤ k ∧ k < u.val + n.val then { s.tile c k with memb := true } else s.tile c k)

/-- 11_matrix R200, R210-R212: `tlwait.r` completes on a READY consumer slot and traps on a failed one, by its ERR; `tlwait.e`
completes on an EMPTY producer slot without error; `brst` branches where a selected group of flags is set; `tlstat` reports;
each waits otherwise (`tlstat` never does), and none of them changes memory. -/
def Clauses.TileWaits : Prop :=
  ∀ (s : State) (h : TileH) (d : XReg) (f : BitVec 4) (im : BitVec 16), s.calm → s.owned h →
    let c := s.myId
    let slot := s.consumerSlot c h.val
    let con := s.tile c slot
    let pro := s.tile c (s.producerSlot c h.val)
    let k := s.tile c h.val
    let failed := con.state = .empty ∧ con.err ≠ 0
    let waits (i : Instr) (w : TileWant) := exec i s = .next (s.modMe fun k => { k with state := .wait, wait := some (.tile h w), stalls := [] })
    (con.state = .ready → Goes (.tlwaitR h) s (s.me.pc + 4) id) ∧
    (failed → exec (.tlwaitR h) s = .next (s.takeTrap s.cur
      (if con.err = 1 then .decerr else if con.err = 2 then .decfmt else .poison) 0 (BitVec.ofNat 64 slot))) ∧
    (con.state ≠ .ready → ¬ failed → waits (.tlwaitR h) .readyOrFailed ∧ waits (.brst h f im) .readyOrFailed) ∧
    (pro.state = .empty → pro.err = 0 → Goes (.tlwaitE h) s (s.me.pc + 4) id) ∧
    (¬ (pro.state = .empty ∧ pro.err = 0) → waits (.tlwaitE h) .emptyOk) ∧
    (con.state = .ready ∨ failed → s.unlockedAt (s.statusAt c slot 0) = .ok () →
      let w := BitVec.ofNat 64 (s.num (s.statusAt c slot 0) 8)
      let on := (f.getLsbD 0 = true ∧ (w.getLsbD 0 = true ∨ w.getLsbD 4 = true)) ∨
        (f.getLsbD 1 = true ∧ (w.getLsbD 1 = true ∨ w.getLsbD 3 = true)) ∨ (f.getLsbD 2 = true ∧ w.getLsbD 2 = true) ∨
        (f.getLsbD 3 = true ∧ (w.getLsbD 5 = true ∨ w.getLsbD 6 = true ∨ w.getLsbD 7 = true ∨ w.getLsbD 8 = true))
      (on → Goes (.brst h f im) s (BitVec.ofInt 64 (s.me.pc.toInt + 4 + 4 * im.toInt)) id) ∧
      (¬ on → Goes (.brst h f im) s (s.me.pc + 4) id)) ∧
    SetsX (.tlstat h d) s d (BitVec.ofNat 64 (con.state.code + 4 * con.err + 16 * k.ring.toNat + 2 ^ 8 * con.readers +
      2 ^ 16 * k.pend + 2 ^ 24 * Nat.min ((k.pidx + 2 ^ 64 - k.cidx) % 2 ^ 64) 255 + 2 ^ 32 * con.shape))

/-- 11_matrix R191, R211, R213, R214: the transitions that tile instructions make: `tlcons` consumes a READY slot (EMPTY, or
DRAINING while it is read) or clears the ERR of a failed one, and counts CIDX; `tlopen` claims an EMPTY slot of a plain tile
(FILLING, PIDX counted, status word 0); `tlpub` makes a FILLING tile READY; `tlfree` undefines a tile, or a ring with the
marks of its members, and of those it frees the settled ones of populations that have finished (R194). The other entries of the table
stay. -/
def Clauses.TileTransitions : Prop :=
  ∀ (s : State) (h : TileH), s.calm → s.owned h → Memory.wf s.mem = true →
    let c := s.myId
    let k := s.tile c h.val
    let slot := s.consumerSlot c h.val
    let con := s.tile c slot
    (slot < 64 → con.state = .ready ∨ (con.state = .empty ∧ con.err ≠ 0) →
      let eaten : Tile := if con.state = .ready then { con with state := if con.readers = 0 then .empty else .draining }
        else { con with err := 0 }
      ∃ t, Edits (.tlcons h) s t s.tileTable id ∧
        ∀ j < 64, t.tile c j =
          let e := if j = slot then eaten else s.tile c j
          if j = h.val then { e with cidx := (e.cidx + 1) % 2 ^ 64 } else e) ∧
    (k.ring = false → k.state = .empty → k.err = 0 → s.statusClear h.val → s.unlockedAt (s.statusAt c h.val 0) = .ok () →
      ∃ t, Edits (.tlopen h) s t (fun r => s.tileTable r ∨ span (s.statusAt c h.val 0) 32 r) id ∧
        t.tile c h.val = { k with state := .filling, pidx := (k.pidx + 1) % 2 ^ 64 } ∧
        (∀ j < 64, j ≠ h.val → t.tile c j = s.tile c j) ∧ t.bytes (s.statusAt c h.val 0) 32 = List.replicate 32 0) ∧
    (k.ring = false → k.state = .filling → k.pend = 0 → s.statusClear h.val → s.ownEntries = [] → s.withheld = [] →
      s.unlockedRange (s.tileBase c h.val) (64 * k.size + 32) = .ok () →
      ∃ t, Edits (.tlpub h) s t (fun r => s.tileTable r ∨ span (s.statusAt c h.val 3) 8 r) id ∧
        t.tile c h.val = { k with state := .ready } ∧ (∀ j < 64, j ≠ h.val → t.tile c j = s.tile c j) ∧
        t.num (s.statusAt c h.val 3) 8 = 64 * k.size) ∧
    (k.ring = false → k.memb = false → k.state = .empty ∨ k.state = .ready → k.readers = 0 → k.pend = 0 →
      ∃ t, Edits (.tlfree h) s t s.tileTable id ∧ t.tile c h.val = { k with v := false, ring := false } ∧
        ∀ j < 64, j ≠ h.val → t.tile c j = s.tile c j) ∧
    (let dead (e : Tile) : Prop := e.v = true ∧ s.pop? (BitVec.ofNat 32 e.owner) = none
     let member (j : Nat) : Prop := k.first ≤ j ∧ j ≤ k.first + k.nm1
     k.ring = true → k.pend = 0 → k.first + k.nm1 < 64 →
      (∀ j, member j → (s.tile c j).readers = 0 ∧ (s.tile c j).ring = false ∧ j ≠ h.val) →
      (∀ j < 64, j ≠ h.val → dead (s.tile c j) → member j) →
      ∃ t, Edits (.tlfree h) s t s.tileTable id ∧ t.tile c h.val = { k with v := false, ring := false } ∧
        ∀ j < 64, j ≠ h.val → let e := s.tile c j
          (¬ member j → t.tile c j = e) ∧
          (member j → ¬ (dead e ∧ e.pend = 0) → t.tile c j = { e with memb := false }) ∧
          (member j → dead e → e.pend = 0 → t.tile c j = { e with memb := false, v := false }))

/-- 11_matrix R190-R196, R213: tiles and rings, how they are defined, waited for and changed. That PIDX counts every claim is
the model's reading (notes/assumptions/50). -/
def Obligations.Tiles : Prop := Clauses.TileDefinition ∧ Clauses.TileWaits ∧ Clauses.TileTransitions

/-! ### Engines -/

/-- 11_matrix R204, R216-R218: a matrix command whose checks hold, whose tiles and weight slot are ready and whose queue
has room is queued with its claims: `wload` and a command's source gain a reader, `mmaz` opens its target, and the
target of `mma` and `mmaz` gains a pending command. -/
def Clauses.MatrixCommands : Prop :=
  ∀ (s s1 s2 s3 : State) (h u slot : TileH) (w : WSlot) (n : KIdx) (w0 f : Nat) (a o : Shape),
    s.calm → s.isSup = false → s.myCore.matrixQ.length < 16 →
    ((s.weights s.myId w).holder = some (s.cur.core, s.me.popid) →
      ∃ t, Queues (.wdrop w) s t Core.matrixQ (.wdrop w) 0 ∧ SameBytes s t) ∧
    (Memory.wf s.mem = true → s.owned u → s.me.prog ≠ .granted →
    let c := s.myId
    let src := s.tile c slot.val
    let dst := s.tile c h.val
    let k := s.weights c w
    slot.val = s.consumerSlot c u.val → src.state = .ready → s.shape src.shape .source = .ok (a, s2) → a.rowMaj = false →
    1 ≤ a.fmt → a.fmt ≤ 8 → (isPs a.fmt = true → a.blocksOk = true) → s.params n = .ok ((w0, 0, 0, 0), s1) →
    declared a.fmt (w0 % 16) src.shape = .ok f → w0 % 16 ≤ 9 →
    (w0 ≤ 9 → a.len ≤ 576 → a.vecs ≤ 336 / digits f → s.weightsFree s.cur.core s.me.popid w = true → 64 ≤ s.me.res →
      ∃ t, Queues (.wload u w n) s t Core.matrixQ (.wload w slot a f) 64 ∧ BytesBut s.tileTable s t ∧
        (t.tile c slot.val).readers = (src.readers + 1) % 256 ∧ (t.weights c w).holder = some (s.cur.core, s.me.popid) ∧
        (t.weights c w).k = a.len ∧ (t.weights c w).cols = a.vecs ∧ (t.weights c w).fmt = f) ∧
    (w0 < 2 ^ 7 → w0 / 16 ≤ 4 → s.owned h → dst.ring = false → k.holder = some (s.cur.core, s.me.popid) →
      s.shape dst.shape .dest = .ok (o, s3) → 1 ≤ a.vecs → a.vecs ≤ 256 → a.len = k.k → fmtClass f = fmtClass k.fmt →
      o.rowMaj = true → o.fmt = resultFmt (fmtClass f) → o.vecs = a.vecs → o.len = k.cols → h ≠ slot →
      let cost := 11 * a.vecs * digits f
      cost ≤ s.me.res →
      (dst.state = .empty → dst.err = 0 → s.statusClear h.val → s.unlockedAt (s.statusAt c h.val 0) = .ok () →
        ∃ t, Queues (.mmaz h u w n) s t Core.matrixQ (.mma true h slot w f (w0 / 16) a o 0) cost ∧
          (t.tile c slot.val).readers = (src.readers + 1) % 256 ∧
          t.tile c h.val = { dst with state := .filling, pidx := (dst.pidx + 1) % 2 ^ 64, pend := (dst.pend + 1) % 256, mxf := true } ∧
          t.bytes (s.statusAt c h.val 0) 32 = List.replicate 32 0) ∧
      ((dst.state = .ready ∧ dst.readers = 0) ∨ (dst.state = .filling ∧ dst.mxf = true) →
        ∃ t, Queues (.mma h u w n) s t Core.matrixQ (.mma false h slot w f (w0 / 16) a o 0) cost ∧ BytesBut s.tileTable s t ∧
          (t.tile c slot.val).readers = (src.readers + 1) % 256 ∧
          t.tile c h.val = { dst with state := .filling, pend := (dst.pend + 1) % 256 })))

/-- 11_matrix R204, R219-R221, R224: a copy or decompression command whose checks hold, whose slots are ready and whose
queue has room is queued with its claims: a producer's slot is FILLING with a pending command, through the handle that the
instruction names, and a consumer's slot gains a reader. -/
def Clauses.CopyCommands : Prop :=
  ∀ (s s1 : State) (h u dst src : TileH) (n : KIdx) (w0 w1 w2 len : Nat),
    s.calm → s.isSup = false → Memory.wf s.mem = true → s.me.prog ≠ .granted → s.params n = .ok ((w0, w1, w2, 0), s1) →
    let c := s.myId
    let d := s.tile c dst.val
    let r := s.tile c src.val
    let va := BitVec.ofNat 64 w0
    let cost := if len < 65536 then 0 else (len + 1023) / 1024
    let claimed (t : State) : Prop := (t.tile c dst.val).state = .filling ∧ (t.tile c dst.val).pend = (d.pend + 1) % 256 ∧
      (t.tile c h.val).pidx = ((s.tile c h.val).pidx + 1) % 2 ^ 64 ∧ (t.tile c h.val).pend = ((s.tile c h.val).pend + 1) % 256
    let open_ := dst.val = s.producerSlot c h.val ∧ s.owned h ∧ d.state = .empty ∧ d.err = 0 ∧ s.statusClear dst.val ∧
      s.unlockedAt (s.statusAt c dst.val 0) = .ok ()
    let source := src.val = s.consumerSlot c u.val ∧ s.owned u ∧ r.state = .ready
    (open_ → cost ≤ s.me.res → s.myCore.copyQ.length < 8 → w0 % 8 = 0 → copyLen d.size w1 = .ok len →
      (∀ (pages : Pages) (shape : Nat), s.pages va .r len = .ok pages →
        (w2 < 2 ^ 16 ∧ shape = d.shape) ∨
          (∃ e s2, w2 = 2 ^ 16 + shape ∧ shape < 2 ^ 16 ∧ s.shape shape .dest = .ok (e, s2) ∧ e.size ≤ 64 * d.size) →
        ∃ t, Queues (.tcopyIn h n) s t Core.copyQ (.copyIn h dst pages va len) cost ∧ claimed t ∧ (t.tile c dst.val).shape = shape) ∧
      (w2 = 0 → ∃ t, Queues (.tfill h n) s t Core.copyQ (.fill h dst va len) 0 ∧ claimed t)) ∧
    (source → cost ≤ s.me.res → s.myCore.copyQ.length < 8 → w0 % 8 = 0 → copyLen r.size w1 = .ok len → w2 = 0 →
      ∀ pages : Pages, s.pages va .w len = .ok pages → (∀ p ∈ pages, p.2 / 2 ^ 43 ≠ s.pkg ∨ inCtl (p.2 % 2 ^ 43) = false) →
        ∃ t, Queues (.tcopyOut u n) s t Core.copyQ (.copyOut src pages va len) cost ∧ BytesBut s.tileTable s t ∧
          (t.tile c src.val).readers = (r.readers + 1) % 256) ∧
    (open_ → source → s.myCore.copyQ.length < 8 → w0 ≤ 4 → w1 = 0 → w2 = 0 →
      ∀ (a o : Shape) (s2 s3 : State), s.shape r.shape .source = .ok (a, s2) → s.shape d.shape .dest = .ok (o, s3) →
        convOk a o = true →
        ∃ t, Queues (.tconv h u n) s t Core.copyQ (.conv h dst src a o w0) 0 ∧ claimed t ∧
          (t.tile c src.val).readers = (r.readers + 1) % 256) ∧
    (s.owned h → s.myCore.decQ.length < 4 → w0 % 32 = 0 → 32 ≤ w1 → (w1 + 63) / 64 ≤ s.me.res →
      ∀ pages : Pages, s.pages va .r w1 = .ok pages →
        ∃ t, Queues (.dec h n) s t Core.decQ (.dec h pages va w1 w2 0 0 none none none) ((w1 + 63) / 64) ∧
          BytesBut s.tileTable s t ∧ t.tile c h.val = { s.tile c h.val with pend := ((s.tile c h.val).pend + 1) % 256 })

/-- 11_matrix R204, 15_messages R283, 17_prog_pipeline R299, R300: a slot that waits with an engine command at its PC issues it again when
what it waits for is there, and is READY past it: here for every command whose issue does not wait again, and by the state alone for one
command of each queue. A slot that does not wait, whose wait a rollback is to abandon, or whose anti-messages are not all accepted yet,
is left as it is. -/
def Clauses.EngineEnqueue : Prop :=
  ∀ (s : State) (c : CoreId) (l : SlotId) (q : Nat) (i : Instr),
    let p : Place := { core := c, slot := l }
    let u := ({ s with cur := p } : State).modMe fun k => { k with state := .ready }
    ((s.slotAt p).state ≠ .wait ∨ (s.slotAt p).pending.isSome = true ∨ (s.slotAt p).antiOut ≠ 0 → exec (.engineEnqueue c l) s = .next s) ∧
    ((s.slotAt p).state = .wait → (s.slotAt p).pending = none → (s.slotAt p).antiOut = 0 → u.fetchAt = .ok q → decode (BitVec.ofNat 32 (u.num q 4)) = .ok i →
      (∀ v, (match i with
        | .wload .. | .mma .. | .mmaz .. | .wdrop .. | .tcopyIn .. | .tcopyOut .. | .dec .. | .tfill .. | .tconv .. => True
        | _ => False) →
        exec i u = .next v → (v.slotAt p).state ≠ .wait → exec (.engineEnqueue c l) s = .next { v with cur := s.cur }) ∧
      (l.val < 15 → u.calm → Memory.wf s.mem = true →
        let k := c.val
        let queued (f : Core → List Cmd) (w : Work) : Prop := ∃ t, exec (.engineEnqueue c l) s = .next t ∧ t.cur = s.cur ∧
          f (t.core k) = f (s.core k) ++ [{ by_ := u.issuer, work := w }] ∧
          (t.slotAt p).state = .ready ∧ (t.slotAt p).pc = (s.slotAt p).pc + 4 ∧ (t.slotAt p).wait = none ∧ (t.slotAt p).x = (s.slotAt p).x
        (∀ w, i = .wdrop w → (u.weights k w).holder = some (c, (s.slotAt p).popid) → (s.core k).matrixQ.length < 16 →
          queued Core.matrixQ (.wdrop w)) ∧
        (∀ (h dst : TileH) (n : KIdx) (w0 w1 len : Nat) (s1 : State), i = .tfill h n → (s.slotAt p).prog ≠ .granted →
          u.params n = .ok ((w0, w1, 0, 0), s1) → dst.val = u.producerSlot k h.val → u.owned h → (u.tile k dst.val).state = .empty →
          (u.tile k dst.val).err = 0 → u.statusClear dst.val → u.unlockedAt (u.statusAt k dst.val 0) = .ok () →
          copyLen (u.tile k dst.val).size w1 = .ok len → (s.core k).copyQ.length < 8 →
          queued Core.copyQ (.fill h dst (BitVec.ofNat 64 w0) len)) ∧
        (∀ (h : TileH) (n : KIdx) (w0 w1 w2 : Nat) (s1 : State) (pages : Pages), i = .dec h n → (s.slotAt p).prog ≠ .granted →
          u.params n = .ok ((w0, w1, w2, 0), s1) → u.owned h → w0 % 32 = 0 → 32 ≤ w1 → (w1 + 63) / 64 ≤ (s.slotAt p).res →
          u.pages (BitVec.ofNat 64 w0) .r w1 = .ok pages → (s.core k).decQ.length < 4 →
          queued Core.decQ (.dec h pages (BitVec.ofNat 64 w0) w1 w2 0 0 none none none))))

/-- 05_numbers R97: the accumulation of a pass. A chunk of the products of two K-vectors (16 elements of the PS class, else 32) is taken in order
of k: in the i8 class it is added exactly and the accumulator saturates; in a float class its exact sum is rounded once,
to nearest, and added to the accumulator under the command's mode. -/
def Clauses.PassArithmetic : Prop :=
  ∀ (cls : Nat) (mode : Mode) (acc : Nat) (row col : List Fl), cls < 4 → row.length = col.length →
    let n := if cls = 0 then 16 else 32
    let f := if cls = 3 then f64 else f32
    let one := accumulate cls mode (acc, 0) (row.zip col)
    (row = [] → outputElement cls mode acc row col = (acc, 0)) ∧
    (row ≠ [] → row.length ≤ n → outputElement cls mode acc row col = one) ∧
    (n < row.length →
      let head := outputElement cls mode acc (row.take n) (col.take n)
      let rest := outputElement cls mode head.1 (row.drop n) (col.drop n)
      outputElement cls mode acc row col = (rest.1, Nat.lor head.2 rest.2)) ∧
    (cls = 2 →
      let exact := (BitVec.ofNat 32 acc).toInt + ((row.zip col).map fun e => e.1.toInt * e.2.toInt).sum
      one.1 = (BitVec.ofInt 32 (max (-2 ^ 31) (min (2 ^ 31 - 1) exact))).toNat) ∧
    (cls ≠ 2 →
      one.1 = (fadd f mode acc (floatChunk f (row.zip col)).1).1 ∧
      ∀ (e : Int) (vs : List Int),
        (row.zip col).map (fun p => match p.1, p.2 with
          | .fin na ma ea, .fin nb mb eb => if e ≤ ea + eb then some ((if na = nb then 1 else -1) * (ma * mb * 2 ^ (ea + eb - e).toNat : Nat)) else none
          | _, _ => none) = vs.map some →
        (vs.sum ≠ 0 → (floatChunk f (row.zip col)).1 = (round f .rne (decide (vs.sum < 0)) vs.sum.natAbs false e).1) ∧
        (vs.sum = 0 → (floatChunk f (row.zip col)).1 % 2 ^ (f.width - 1) = 0))

/-- 11_matrix R201, R203, R206, R216-R218: the matrix unit serves the command whose turn it is: a pass of `mma` or `mmaz`
counts in the command and in the tile's PASSES, which wraps at 32 bits, adds the products of its rows and of the latched weights to the
elements as the command's producer sees them (`mmaz` to 0), and writes no tile byte before the last; a `wload` latches the tile's bytes
and ends its read; a `wdrop` frees the weight slot and counts as no pass; the last pass done, the tile's new bytes appear
at once, and it is READY. -/
def Clauses.MatrixEngine : Prop :=
  ∀ (s : State) (d : DieId) (k : ClusterId) (cl : Cluster) (c : Nat) (cmd : Cmd), s.still = false → Memory.wf s.mem = true →
    let rest := (s.core c).matrixQ.tail
    (s.turn d.val k.val = some (cl, c, cmd) →
      (∀ (zero : Bool) (dst src : TileH) (w : WSlot) (f rnd : Nat) (a o : Shape) (pass : Nat),
        cmd.work = .mma zero dst src w f rnd a o pass →
        s.blocked c .matrix (s.tileLocks c dst.val ++ s.tileLocks c src.val) = false →
        s.apart c dst.val →
        let passes := s.statusAt c dst.val 1
        let wt := s.weights c w
        let z := if o.fmt = 8 then 8 else 4
        let row (r : Nat) := vector (fun x => s.num (s.tileBase c src.val + x) 8) a f r
        let col (j : Nat) := vector (fun x => ofBytes ((wt.bytes.drop x).take 8)) wt.shape wt.as_ j
        let seen (u : State) (x : Nat) : Nat := ofBytes ((List.range z).map fun b => u.shadowByte c dst.val (x + b))
        ∃ t, exec (.matrixArbiterPass d k) s = .next t ∧
          (t.core c).matrixQ = { cmd with work := .mma zero dst src w f rnd a o (pass + 1) } :: rest ∧
          t.cluster d.val k.val = { cl with taken := cl.taken + 1 } ∧ BytesBut (span (s.statusAt c dst.val 0) 12) s t ∧
          t.num passes 4 = (s.num passes 4 + 1) % 2 ^ 32 ∧
          ∀ r j, 32 * pass ≤ r → r < 32 * pass + 32 → r < a.vecs → j < o.len →
            let x := (r * o.len + j) * z
            seen t x = (outputElement (fmtClass f) (Mode.ofFrm rnd) (if zero then 0 else seen s x) (row r) (col j)).1 % 2 ^ (8 * z)) ∧
      (∀ (w : WSlot) (src : TileH) (a : Shape) (f : Nat), cmd.work = .wload w src a f → s.blocked c .matrix (s.tileLocks c src.val) = false →
        ∃ t, exec (.wloadComplete d k) s = .next t ∧ (t.core c).matrixQ = rest ∧
          (t.cluster d.val k.val).taken = cl.taken + 1 ∧ BytesBut (s.table c) s t ∧
          (t.tile c src.val).readers = ((s.tile c src.val).readers + 255) % 256 ∧
          (t.weights c w).bytes = s.bytes (s.tileBase c src.val) a.size ∧ (t.weights c w).shape = a ∧ (t.weights c w).as_ = f) ∧
      (∀ w : WSlot, cmd.work = .wdrop w →
        ∃ t, exec (.wdropExecute d k) s = .next t ∧ (t.core c).matrixQ = rest ∧
          (t.cluster d.val k.val).taken = cl.taken ∧ (t.weights c w).holder = none ∧ BytesBut (s.table c) s t)) ∧
    ∀ (m : Fin 8) (zero : Bool) (dst src : TileH) (w : WSlot) (f rnd : Nat) (a o : Shape) (pass : Nat),
      s.passedMember d.val k.val = some m → c = 128 * d.val + 8 * k.val + m.val → (s.core c).matrixQ = cmd :: rest →
      cmd.work = .mma zero dst src w f rnd a o pass → s.blocked c .matrix (s.tileLocks c dst.val) = false → s.apart c dst.val →
      let e := s.tile c dst.val
      let sh := (s.core c).shadowOf dst.val
      let base := s.tileBase c dst.val
      (∀ b ∈ sh.bytes, b.1 < 64 * e.size) → (sh.bytes.map Prod.fst).Nodup → dst ≠ src →
      ∃ t, exec (.matrixCommandComplete d k) s = .next t ∧ (t.core c).matrixQ = rest ∧
        (t.tile c src.val).readers = ((s.tile c src.val).readers + 255) % 256 ∧
        (1 < e.pend → (t.tile c dst.val).pend = e.pend - 1) ∧
        (e.pend ≤ 1 → (t.tile c dst.val).state = .ready ∧ (t.tile c dst.val).pend = 0 ∧
          ∀ b ∈ sh.bytes, Memory.get t.mem (base + b.1) = b.2)

/-- 11_matrix R205, R220-R224: the copy engine finishes the head of the queue that its rotation serves and moves on: a fill
writes its pattern, a `tcopy.in` the bytes it read, a `tconv` each element rounded to the target's format, with the blocks of a PS target
quantised, and the tile is READY with its new bytes at its last pending command, until when the bytes stay apart (R192); a command stalls
while a bank that it touches is locked (08_slots R140); a `tcopy.out` writes the tile's bytes to the range and ends its read. The
decompression engine claims the producer slot of the next block, and finishes it: READY with the decoded bytes and BYTES
set, or EMPTY with an error. -/
def Clauses.CopyEngines : Prop :=
  ∀ (s : State) (d : DieId) (k : ClusterId) (m : Fin 8) (cmd : Cmd), s.still = false → Memory.wf s.mem = true →
    let c := 128 * d.val + 8 * k.val + m.val
    let q (t : State) (h : TileH) := t.tile c h.val
    let seen (t : State) (h : TileH) (x n : Nat) : Nat := ofBytes ((List.range n).map fun b =>
      if (q s h).pend ≤ 1 then Memory.get t.mem (s.tileBase c h.val + x + b) else t.shadowByte c h.val (x + b))
    let ends (t : State) (h : TileH) : Prop := ((q s h).pend ≤ 1 → (q t h).state = .ready) ∧
      (1 < (q s h).pend → (q t h).pend = (q s h).pend - 1 ∧ ∀ x < 64 * (q s h).size,
        Memory.get t.mem (s.tileBase c h.val + x) = Memory.get s.mem (s.tileBase c h.val + x))
    ((rotation (s.cluster d.val k.val).copyAt).find? (fun j => (s.core (128 * d.val + 8 * k.val + j.val)).copyQ ≠ []) = some m →
      ∀ rest, (s.core c).copyQ = cmd :: rest →
      (s.blocked c .copy (s.copyLocks c cmd) = true →
        ∃ t, exec (.copyCommandComplete d k) s = .next t ∧ SameBytes s t ∧ (t.core c).copyQ = cmd :: rest) ∧
      (s.blocked c .copy (s.copyLocks c cmd) = false → ∃ t, exec (.copyCommandComplete d k) s = .next t ∧ (t.core c).copyQ = rest ∧ (t.cluster d.val k.val).copyAt = m + 1 ∧
        (∀ (named dst : TileH) (pattern : Word) (len : Nat), cmd.work = .fill named dst pattern len → s.apart c dst.val →
          len ≤ 64 * (q s dst).size → len % 8 = 0 →
          (∀ i < len / 8, seen t dst (8 * i) 8 = pattern.toNat) ∧ ends t dst) ∧
        (∀ (named dst : TileH) (pages : Pages) (va : Word) (len : Nat), cmd.work = .copyIn named dst pages va len →
          s.apart c dst.val →
          let bs := (s.readRange pages va len).1
          bs.length ≤ 64 * (q s dst).size →
          (∀ i < bs.length, some (BitVec.ofNat 8 (seen t dst i 1)) = bs[i]?) ∧ ends t dst) ∧
        (∀ (src : TileH) (pages : Pages) (va : Word) (len : Nat), cmd.work = .copyOut src pages va len → len % 8 = 0 →
          let to_ (j : Nat) := pageAddr pages (va.toNat + j)
          (∀ j < len, to_ j / 2 ^ 43 = s.pkg ∧ s.plain (to_ j % 2 ^ 43) 1 ∧ s.offTables (to_ j % 2 ^ 43) 1) →
          (∀ j < len, ∀ l < len, to_ j = to_ l → j = l) →
          (∀ j < len, Memory.get t.mem (to_ j % 2 ^ 43) = Memory.get s.mem (s.tileBase c src.val + j)) ∧
          (q t src).readers = ((q s src).readers + 255) % 256 ∧
          ∀ b, (∀ j < len, b ≠ to_ j % 2 ^ 43) → ¬ s.table c b → Memory.get t.mem b = Memory.get s.mem b) ∧
        (∀ (named dst src : TileH) (a o : Shape) (rnd : Nat), cmd.work = .conv named dst src a o rnd → s.apart c dst.val →
          convOk a o = true → o.size ≤ 64 * (q s dst).size → src ≠ dst → src ≠ named →
          let from_ := s.tileBase c src.val
          let mode := Mode.ofFrm rnd
          let x (v j : Nat) : Fl := if a.rowMaj then f32.unpack (s.num (from_ + (v * a.len + j) * 4) 4)
            else element (fun b => s.num (from_ + b) 8) a a.fmt v j
          let code (g : FloatFmt) (y : Fl) : Nat := if y.isNan then g.nan else (roundFl g mode y).1
          let seg (v j : Nat) : Nat := (v * ((o.len + 63) / 64) + j / 64) * segBytes o.fmt
          let got (v j : Nat) : Nat := elementBits (fun b => seen t dst b 8) o.fmt (seg v j) (j % 64)
          (∀ v < a.vecs, ∀ j < a.len,
            (o.rowMaj = true → seen t dst ((v * o.len + j) * 4) 4 = code f32 (x v j)) ∧
            (o.rowMaj = false → isPs o.fmt = false → got v j = code (floatOf o.fmt) (x v j)) ∧
            (o.rowMaj = false → isPs o.fmt = true →
              let m := psMag o.fmt
              let block := quantise m ((List.range 16).map fun l => if j / 16 * 16 + l < a.len then x v (j / 16 * 16 + l) else .fin false 0 0)
              bits (seen t dst (seg v j) 8) (16 * (j % 64 / 16)) 16 = bits block.1 0 16 ∧
                got v j = bits block.1 (16 + (m + 1) * (j % 16)) (m + 1))) ∧
          (q t src).readers = ((q s src).readers + 255) % 256 ∧ t.num (s.statusAt c dst.val 3) 8 = o.size % 2 ^ 32 ∧
          ends t dst))) ∧
    ∀ (by_ : Issuer) (named slot : TileH) (pages : Pages) (src : Word) (limit blocks off count : Nat) (stall : Option Nat) (head : Option Header)
      (rest : List Cmd),
      (m = (s.cluster d.val k.val).decAt → s.decoding d.val k.val = none →
        (s.core c).decQ = { by_, work := .dec named pages src limit blocks off count stall none none } :: rest →
        slot.val = s.producerSlot c named.val → (q s slot).state = .empty → (q s slot).err = 0 → s.apart c slot.val →
        s.blocked c .dec (s.tileLocks c slot.val) = false → s.blocked c .dec (s.pagesLocks pages (src + BitVec.ofNat 64 off) 32) = false →
        ∃ t, exec (.decBlockStart d k) s = .next t ∧ (t.cluster d.val k.val).decAt = m + 1 ∧
          (q t named).pidx = ((q s named).pidx + 1) % 2 ^ 64 ∧
          (((q t slot).state = .filling ∧ ∃ b, b.slot = slot ∧ b.at_ = off ∧
              (t.core c).decQ = { by_, work := .dec named pages src limit blocks off count none none (some b) } :: rest) ∨
            ((q t slot).state = .empty ∧ (q t slot).err ≠ 0 ∧ (t.core c).decQ = rest))) ∧
      ∀ b : DecBlock, s.decoding d.val k.val = some (c, cmd, b) → (s.core c).decQ = cmd :: rest →
        cmd = { by_, work := .dec named pages src limit blocks off count stall head (some b) } → s.apart c b.slot.val →
        s.blocked c .dec (s.tileLocks c b.slot.val ++ s.pagesLocks pages (src + BitVec.ofNat 64 (b.at_ + 32)) ((b.bits + 7) / 8)) = false →
        (∀ out, s.readBlock pages src limit b = .ok out → out.length ≤ 64 * (q s b.slot).size →
          let final := b.last || (blocks != 0 && count + 1 == blocks)
          ∃ t, exec (.decBlockComplete d k) s = .next t ∧ (q t b.slot).state = .ready ∧
            t.bytes (s.tileBase c b.slot.val) out.length = out ∧ t.num (s.statusAt c b.slot.val 3) 8 = b.size % 2 ^ 32 ∧
            (t.core c).decQ = if final then rest else
              { by_, work := .dec named pages src limit blocks ((b.at_ + 32 + (b.bits + 7) / 8 + 31) / 32 * 32) (count + 1)
                  none none none } :: rest) ∧
        ∀ flags err sized ends, s.readBlock pages src limit b = .error (flags, err, sized, ends) →
          ∃ t, exec (.decBlockComplete d k) s = .next t ∧ (q t b.slot).state = .empty ∧ (q t b.slot).err ≠ 0

/-- 11_matrix R204-R221: the commands of the engines. The capture of the parameter words, the claim by `mmaz` alone and that `mmaz` raises
PIDX are the model's readings (notes/assumptions/43, 49, 50). -/
def Obligations.EngineCommands : Prop := Clauses.MatrixCommands ∧ Clauses.CopyCommands ∧ Clauses.EngineEnqueue

/-- 11_matrix R191-R221, 05_numbers R97: what the engines do with their commands. How a tile's NaN elements are converted is the model's reading
(notes/assumptions/15). -/
def Obligations.Engines : Prop := Clauses.PassArithmetic ∧ Clauses.MatrixEngine ∧ Clauses.CopyEngines

/-! ### The Mint and landing zones -/

/-- 13_graphs R232, R235, R236, R240, R242, R247, R248: a traversal instruction names a work record. One that is DONE completes the instruction
with RESULT0; an IDLE one starts a run, at which the slot waits, when one of the die's 16 runs is free and the allowance
is there. `oalloc` takes its object from the heap at NEXT and returns its address; `lmdef` copies an entry into the layout
map table; `gland` arms a zone of the core. The order of the checks of a work record and the places of a zone are the
model's readings (notes/assumptions/52, 53). -/
def Obligations.MintInstructions : Prop :=
  ∀ (s : State) (r w d : XReg), s.calm → s.isSup = false →
    (∀ (da : Nat) (pages : Pages),
      let rec_ := s.x w
      let h := s.num (da % 2 ^ 43) 64
      let dest := bits h 128 64
      let size := 64 + 16 * 2 ^ bits h 32 5 + bits h 320 32
      rec_.toNat % 64 = 0 → s.translate rec_ .rw 64 = .ok da → s.touchable rec_ da 64 true = .ok () →
      s.pages rec_ .rw size = .ok pages → (∀ p ∈ pages, inCtl (p.2 % 2 ^ 43) = false) →
      let on (i : Instr) (op : Nat) : Prop := recordOk op h = true →
        (bits h 8 8 = 2 → Reads i s (·.setX d (BitVec.ofNat 64 (bits h 384 64)))) ∧
        (bits h 8 8 = 0 → s.destOk op dest = true → s.mintRuns (dieOf s.myId) < 16 → s.me.prog ≠ .granted → 64 ≤ s.me.res →
          (∀ e ∈ s.pagesLocks pages rec_ size, freedFrom s.me.stalls e = true) →
          ∃ t m, exec i s = .next t ∧ t.me.state = .wait ∧ t.me.wait = some .mintRun ∧ t.me.pc = s.me.pc ∧
            t.me.res = s.me.res - 64 ∧ t.me.mint = some m ∧ m.op = op ∧ m.xd = d ∧ m.recAddr = rec_ ∧ m.pages = pages ∧
            m.dest = BitVec.ofNat 64 dest ∧ m.rooted = false ∧ m.stage = .walking)
      on (.gcopy r w d) 0 ∧ on (.gsend r w d) 1 ∧ on (.gcmp r w d) 2 ∧ on (.ghash r w d) 3 ∧ on (.grel r w d) 4) ∧
    (∀ (da : Nat) (l : Layout) (v : State),
      let x := (s.x r).toNat
      let n := bits x 20 16
      let q := da % 2 ^ 43
      let next := s.num q 8
      x / 2 ^ 36 = 0 → s.headerLayout x x = .ok l → s.translate (s.x w) .rw 32 = .ok da → s.touchable (s.x w) da 32 true = .ok () →
      next + 8 * (1 + n) ≤ s.num (q + 8) 8 →
      ((s.touch (s.x w)).commitWord q (BitVec.ofNat 64 (next + 8 * (1 + n)))).mintWrite none
        ((next, x + 2 ^ 48 * s.num (q + 16) 2) :: (List.range n).map fun i => (next + 8 + 8 * i, 0)) = .ok v →
      ∃ t, exec (.oalloc r w d) s = .next t ∧ t.me.x = s.me.x.set d.val (BitVec.ofNat 64 next) ∧ t.me.pc = s.me.pc + 4 ∧
        ∀ b, Memory.get t.mem b = Memory.get v.mem b) ∧
    (∀ q, Memory.wf s.mem = true → s.translateHere (s.x r) .r 32 = .ok q → s.touchable (s.x r) (s.pkg * 2 ^ 43 + q) 32 true = .ok () →
      (∀ o < 32, inCtl (q + o) = false) →
      let v := s.num q 32
      layoutImageOk v = true →
      let e := s.layoutAt s.me.part.val (bits v 128 12)
      ∃ t u, cached s u ∧ exec (.lmdef r) s = .next t ∧ Edited u t (span e 32) id ∧ t.bytes e 32 = s.bytes q 32) ∧
    ∀ (pages : Pages) (z : ZoneId),
      let base := s.x w
      let v := (s.x r).toNat
      let size := v % 2 ^ 32
      let da := pageAddr pages base.toNat
      let q := da % 2 ^ 43
      let old := s.myCore.zones[z.val]
      base.toNat % 64 = 0 → v < 2 ^ 39 → z.val = v / 2 ^ 36 → size ≠ 0 → size % 64 = 0 → s.pages base .w size = .ok pages →
      (∀ p ∈ pages, p.2 + base.toNat = p.1 * 4096 + da) → da / 2 ^ 43 = s.pkg →
      (inVault q = true ∧ inVault (q + size - 1) = true) ∨ (inHbm q = true ∧ inHbm (q + size - 1) = true) →
      (∀ e ∈ s.cores, ∀ j : ZoneId, let k := e.2.zones[j.val]
        k.v = true → (e.1 = s.myId ∧ j = z) ∨ q + size ≤ k.base ∨ k.base + k.size ≤ q) →
      s.mbMode s.myId (bits v 32 4) = 0 → ¬ (old.v = true ∧ old.state = 2) →
      ∃ t, exec (.gland r w d) s = .next t ∧ SameBytes s t ∧
        t.me = { s.me.setX d (if old.v ∧ old.state = 1 then 1 else 0) with pc := s.me.pc + 4, wait := none, prog := .none, stalls := [] } ∧
        t.myCore.zones = s.myCore.zones.set z.val
          { v := true, base := q, size, mbx := Fin.ofNat 16 (bits v 32 4), state := 0, src := 0, vbase := base, owner := s.me.popid,
            part := s.me.part, endAt := 0 }

/-- 13_graphs R235, R236, R243-R246: a run whose stack is empty ends after its root step: `gcopy` and `grel` with RESULT0, `gcmp`
with the result of equal graphs, `ghash` with the byte count of its stream and the digest at DEST; `gsend` goes on to its finish, whose last
part ends it. A boundary trap is taken at a stop point: BUSY is cleared and the slot parked; at a 1,024th step a
further allowance is taken. The runs of a die step in rotation (R238), which `mintFirst` says. -/
def Clauses.MintRuns : Prop :=
  ∀ (s : State) (c : CoreId) (l : SlotId) (m : MintRun),
    let p : Place := { core := c, slot := l }
    let q := s.slotAt p
    Memory.wf s.mem = true → s.still = false → q.mint = some m → q.state = .wait → s.recStalls p m = false → m.recAddr.toNat % 64 = 0 →
    let done (t : State) (v : Word) : Prop :=
      t.slotAt p = { q.setX m.xd v with pc := q.pc + 4, state := .ready, mint := none, wait := none, prog := .none, stalls := [],
                                        monitor := (t.slotAt p).monitor } ∧
      Memory.get t.mem (m.at_ 1) = 2 ∧ (Memory.get t.mem (m.at_ 3)).getLsbD 0 = false ∧ t.cur = s.cur
    let ended (i : Instr) (v : Word) : Prop := ∃ t, exec i s = .next t ∧ done t v
    let result := BitVec.ofNat 64 (s.recWord m 0x30)
    let flown := ∀ o ∈ s.out, o.mint ≠ some (m.at_ 0)
    let moves (i : Instr) (st : MintStage) : Prop := ∃ t, exec i s = .next t ∧ (t.slotAt p).mint = some { m with stage := st }
    let turn := q.calm ∧ (s.core c.val).rotLeft.getLsbD l.val = false ∧ s.mintFirst p = true
    (turn → m.stage = .walking → m.rooted = true → s.stkTop m = 0 →
      (m.op = 0 ∨ m.op = 4 → ended (.mintStep c l) result) ∧
      (m.op = 2 → ended (.mintStep c l) 0xFFFFFFFF00000001) ∧
      (m.op = 1 → moves (.mintStep c l) .objects) ∧
      (m.op = 3 → ∀ da,
        let h := s.readSha m
        let word (k : Nat) : Nat := ofBytes ((h.digest.drop (8 * k)).take 8)
        ({ s with cur := p } : State).mintTargets ((List.range 4).map fun k => (m.dest.toNat + 8 * k, word k)) =
          .ok ((List.range 4).map fun k => (da + 8 * k, word k)) →
        da % 32 = 0 → da / 2 ^ 43 = s.pkg → s.plain (da % 2 ^ 43) 32 → (∀ k < 4, s.clearOf m (da % 2 ^ 43 + 8 * k)) → s.soundRecord m →
        m.vtlog ≤ 28 → 128 ≤ m.stk →
        ∃ t, exec (.mintStep c l) s = .next t ∧ done t (BitVec.ofNat 64 h.count) ∧ t.bytes (da % 2 ^ 43) 32 = h.digest)) ∧
    (∀ k, q.intr = some k → q.stopping = false → s.flagsOut p = false → q.released = false →
      m.stage = .walking ∨ m.stage = .admitting →
      ∃ t rec_, exec (.mintStopPoint c l) s = .next t ∧
      (t.slotAt p).state = .parked ∧ (t.slotAt p).mint = none ∧ (Memory.get t.mem (m.at_ 3)).getLsbD 0 = false ∧
      (t.core c.val).records = (s.core c.val).records ++ [rec_] ∧ rec_.cause = .intr ∧ rec_.async = true ∧ rec_.slot = l ∧
      rec_.tpc = q.pc ∧ rec_.sub = BitVec.ofNat 8 k) ∧
    (q.calm → (s.core c.val).rotLeft.getLsbD l.val = false → q.released = false → m.stage = .admitting → q.prog ≠ .granted → 64 ≤ q.res →
      ∃ t, exec (.mintStopPoint c l) s = .next t ∧
      t.slotAt p = { q with res := q.res - 64, mint := some { m with stage := .walking }, prog := .none } ∧ SameBytes s t) ∧
    (flown → q.calm →
      (m.stage = .header → ended (.gsendFinish c l) result) ∧
      (m.stage = .sizes → s.recWord m 0x38 ≠ 0 → ended (.gsendFinish c l) result) ∧
      (m.stage = .sizes → s.recWord m 0x38 = 0 → ∀ da,
        ({ s with cur := p } : State).mintTargets [(m.dest.toNat + s.recWord m 0x30, 0)] = .ok [(da, 0)] →
        moves (.gsendFinish c l) .header))

/-- 13_graphs R231, R233-R235, R240-R246: the root step, and the step on the pointer word that the top frame is to examine next, of a
traversal whose Reach (or pair) succeeds. A new object is entered in the visited table and its frame is pushed, and F.NEXT of the examined
frame goes up by 1. `gcopy` allocates and writes the copy: header with HEAPID, data words, pointer words nil, and the
parent's pointer; `gsend` sends the object and the parent's pointer as fabric writes; `ghash` absorbs the tokens of R244; `grel` makes
the object free and counts it; `gcmp` enters a pair that agrees and ends the run at one that does not. -/
def Clauses.MintSteps : Prop :=
  ∀ (s v : State) (c : CoreId) (l : SlotId) (m : MintRun) (e : Option Examined) (ptr other : Nat),
    let p : Place := { core := c, slot := l }
    let q := s.slotAt p
    let u : State := { s with cur := p }
    let size := m.opArea + m.stk
    let rooted := m.rooted = true ∨ s.visited m ≠ 0
    (¬ rooted → v = u ∧ e = none ∧ ptr = s.recWord m 0x08 ∧ other = m.dest.toNat) →
    (rooted → v = u.popFrames m (s.stkTop m / 32 + 1) ∧ ∃ pos w, v.topFrame m = some (pos, w) ∧
      let at_ := m.frames + pos + 32 + m.entry * bits w 16 16
      e = some { pos, w2 := w, idx := v.recWord m (at_ + m.entry - 8), out := v.recWord m (m.frames + pos + 24) } ∧
      bits w 16 16 + 1 < 2 ^ 16 ∧ m.frames + pos + 32 ≤ size ∧ pos % 8 = 0 ∧ pos + 32 ≤ v.stkTop m ∧
      ptr = v.recWord m at_ ∧ other = v.recWord m (at_ + 8)) →
    Memory.wf s.mem = true → s.still = false → q.mint = some m → q.state = .wait → q.calm → s.recStalls p m = false → m.stage = .walking →
    (s.core c.val).rotLeft.getLsbD l.val = false → s.mintFirst p = true → m.recAddr.toNat % 64 = 0 → s.soundRecord m →
    4 ≤ m.vtlog → m.vtlog ≤ 28 → 160 ≤ m.stk → m.stk % 16 = 0 → m.stk < 2 ^ 32 → v.visited m + 1 < 2 ^ 32 → v.stkTop m % 8 = 0 →
    v.recWord m 0x20 + 2 ^ 18 < 2 ^ 64 → v.recWord m 0x30 + 2 ^ 20 < 2 ^ 64 →
    let inRecord (r : Nat) : Prop := ∃ o < size, m.at_ o = r
    let k := v.visited m
    let rec_ (t : State) (o : Nat) := t.recWord m o
    let same (t : State) : Prop := t.slotAt p = { q with mint := some m.stepped, stalls := [], monitor := (t.slotAt p).monitor } ∧ t.cur = s.cur ∧
      ∀ x, e = some x → rec_ t (m.frames + x.pos + 16) = x.w2 + 2 ^ 16
    let step (after : State → Prop) : Prop := ∃ t, exec (.mintStep c l) s = .next t ∧ after t
    let entered (t : State) (o : Obj) (i value : Nat) : Prop := same t ∧ t.visited m = k + 1 ∧
      t.stkTop m = v.stkTop m + m.frameSize o.ptrs.length ∧ rec_ t (64 + 16 * i) = visitKey o.dev 0 ∧ rec_ t (72 + 16 * i) = value % 2 ^ 64
    let written (t : State) (ts : List (Nat × Nat)) : Prop := ∀ w ∈ ts, t.num (w.1 % 2 ^ 43) 8 = w.2 % 2 ^ 64
    let apart (ts : List (Nat × Nat)) : Prop := (ts.map fun w => w.1 % 2 ^ 43).Nodup ∧
      ∀ w ∈ ts, w.1 / 2 ^ 43 = s.pkg ∧ w.1 % 8 = 0 ∧ s.plain (w.1 % 2 ^ 43) 8 ∧ s.clearOf m (w.1 % 2 ^ 43)
    let onlyAt (t : State) (ts : List (Nat × Nat)) (also : Nat → Prop) : Prop :=
      BytesBut (fun r => inRecord r ∨ also r ∨ ∃ w ∈ ts, span (w.1 % 2 ^ 43) 8 r) s t
    (m.op = 0 → ∀ (o : Obj) (i a heap da : Nat) (t0 : State) (ts : List (Nat × Nat)),
      let n := o.body.length
      let parent := match e with | some x => [(x.out + 8 * (1 + x.idx), a)] | none => []
      v.reach m ptr = .ok (.new o i) → i < m.cap → v.allocate m.dest.toNat (8 * (1 + n)) = .ok (some (a, heap, t0)) →
      v.translate m.dest .rw 32 = .ok da → da % 8 = 0 → s.clearOf m (da % 2 ^ 43) →
      t0.mintTargets (parent ++ (a, o.hdr % 2 ^ 48 + 2 ^ 48 * heap) :: (o.data.map fun j => (a + 8 + 8 * j, o.body.getD j 0)) ++
        o.ptrs.map fun j => (a + 8 + 8 * j, 0)) = .ok ts →
      apart ts → (∀ w ∈ ts, ∀ r, span (w.1 % 2 ^ 43) 8 r → ¬ span (da % 2 ^ 43) 8 r) →
      step fun t => entered t o i a ∧ written t ts ∧ t.num (da % 2 ^ 43) 8 = (a + 8 * (1 + n)) % 2 ^ 64 ∧
        rec_ t 0x38 = (rec_ v 0x38 + 1 + n) % 2 ^ 64 ∧ rec_ t 0x20 = rec_ v 0x20 + parent.length + 1 + o.data.length ∧
        (e = none → rec_ t 0x30 = a % 2 ^ 64) ∧ onlyAt t ts (span (da % 2 ^ 43) 8)) ∧
    (m.op = 0 → ∀ (x : Examined) (w : Nat) (ts : List (Nat × Nat)), e = some x →
      v.reach m ptr = .ok (.old w) ∨ (w = 0 ∧ v.reach m ptr = .ok .nil) → v.mintTargets [(x.out + 8 * (1 + x.idx), w)] = .ok ts → apart ts →
      step fun t => same t ∧ written t ts ∧ rec_ t 0x20 = rec_ v 0x20 + 1 ∧ onlyAt t ts fun _ => False) ∧
    (m.op = 1 → ∀ (o : Obj) (i r : Nat) (ts : List (Nat × Nat)),
      let n := o.body.length
      let off := rec_ v 0x30
      let parent := match e with | some x => [(m.dest.toNat + x.out + 8 * (1 + x.idx), 2 ^ 63 + k)] | none => []
      v.reach m ptr = .ok (.new o i) → i < m.cap →
      v.mintTargets (parent ++ (m.dest.toNat + off, o.hdr) :: o.data.map fun j => (m.dest.toNat + off + 8 + 8 * j, o.body.getD j 0)) = .ok ts →
      (∀ w ∈ ts, w.1 / 2 ^ 43 ≠ s.pkg ∧ s.route (w.1 / 2 ^ 43) = some r) →
      step fun t => entered t o i (k + 2 ^ 32 * n) ∧ rec_ t 0x30 = off + 8 * (1 + n) ∧ rec_ t 0x20 = rec_ v 0x20 + ts.length ∧
        (∃ ks : List Packet, (t.port r).txq = (s.port r).txq ++ ks ∧
          ks.map (fun a => (a.target.toNat, a.data)) = ts.map fun w => (w.1 % 2 ^ 56, toBytes 8 w.2)) ∧
        (∃ os : List Outstanding, t.out = s.out ++ os ∧ os.length = ts.length ∧ ∀ b ∈ os, b.mint = some (m.at_ 0)) ∧
        onlyAt t [] fun _ => False) ∧
    (m.op = 3 → ∀ (o : Obj) (i : Nat),
      let n := o.body.length
      let old := v.readSha m
      let token (x : Nat) : List Nat := if e.isSome then [x] else []
      let absorbed (t : State) (ts : List Nat) : Prop := t.readSha m = ts.foldl Sha.absorb old ∧ rec_ t 0x20 = rec_ v 0x20 + ts.length ∧
        onlyAt t [] fun _ => False
      old.fill % 8 = 0 → old.fill < 64 → old.count + 2 ^ 20 < 2 ^ 64 →
      (v.reach m ptr = .ok (.new o i) → i < m.cap → step fun t => entered t o i (k + 2 ^ 32 * n) ∧
        absorbed t (token (k + 1) ++ [o.hdr % 2 ^ 20, n] ++ o.data.map fun j => o.body.getD j 0)) ∧
      (∀ w, e.isSome = true → v.reach m ptr = .ok (.old w) → step fun t => same t ∧ absorbed t [w % 2 ^ 32 + 1]) ∧
      (e.isSome = true → v.reach m ptr = .ok .nil → step fun t => same t ∧ absorbed t [0])) ∧
    (m.op = 4 → ∀ (o : Obj) (i da : Nat) (ts : List (Nat × Nat)),
      let n := o.body.length
      v.reach m ptr = .ok (.new o i) → i < m.cap → v.translate (m.dest + 24) .rw 8 = .ok da → v.touchable (m.dest + 24) da 8 true = .ok () →
      da % 8 = 0 → s.clearOf m (da % 2 ^ 43) → v.mintTargets [(ptr, o.hdr / 2 ^ 20 * 2 ^ 20)] = .ok ts → apart ts →
      (∀ w ∈ ts, ∀ r, span (w.1 % 2 ^ 43) 8 r → ¬ span (da % 2 ^ 43) 8 r) →
      step fun t => entered t o i (k + 2 ^ 32 * n) ∧ written t ts ∧
        t.word (da % 2 ^ 43) = s.word (da % 2 ^ 43) + BitVec.ofNat 64 (1 + n) ∧ rec_ t 0x30 = rec_ v 0x30 + 1 + n ∧
        rec_ t 0x20 = rec_ v 0x20 + 1 + n ∧ onlyAt t ts (span (da % 2 ^ 43) 8)) ∧
    (m.op = 4 → (∃ w, v.reach m ptr = .ok (.old w)) ∨ v.reach m ptr = .ok .nil ∨ v.reach m ptr = .ok .skip →
      step fun t => same t ∧ onlyAt t [] fun _ => False) ∧
    (m.op = 2 → ∀ (ord word : Nat) (x : Examined), e = some x → ord = bits x.w2 32 32 → word = x.idx →
      (∀ seen, v.pair m ord word ptr other = .ok (seen, .same) → step fun t => same t ∧ onlyAt t [] fun _ => False) ∧
      (∀ seen kind o w n, v.pair m ord word ptr other = .ok (seen, .differ kind o w n) → n < 2 ^ 17 →
        step fun t => t.slotAt p = { q.setX m.xd (BitVec.ofNat 64 (2 ^ 32 * o + 2 ^ 16 * w + 2 * kind)) with
            pc := q.pc + 4, state := .ready, mint := none, wait := none, prog := .none, stalls := [],
            monitor := (t.slotAt p).monitor } ∧
          rec_ t 0x30 = (2 ^ 32 * o + 2 ^ 16 * w + 2 * kind) % 2 ^ 64 ∧ Memory.get t.mem (m.at_ 1) = 2 ∧ onlyAt t [] fun _ => False) ∧
      (∀ (seen : List Word) (a b : Obj) (i j : Nat), v.pair m ord word ptr other = .ok (seen, .new a b i j) → i < m.cap →
        step fun t => same t ∧ t.visited m = k + 1 ∧ t.stkTop m = v.stkTop m + m.frameSize a.ptrs.length ∧
          rec_ t 0x20 = rec_ v 0x20 + a.data.length ∧ onlyAt t [] fun _ => False))

/-- 13_graphs R248, R249: an armed zone accepts an inbound write inside it from its one source: the bytes are committed and
the zone is RECEIVING, or REWRITING after the end write. The Mint then completes the zone: it writes nothing outside it,
nothing at all where a check fails, and posts the completion message with the outcome; the zone is DONE. -/
def Clauses.LandingZones : Prop :=
  ∀ (s : State), Memory.wf s.mem = true → s.boot.recovery = false →
    (∀ (w : InWrite) (c : Nat) (i : ZoneId) (z : Zone),
      let q := w.addr % 2 ^ 43
      let n := w.data.length
      (∀ e ∈ s.withheld, ¬ (e.1.srcPkg = w.srcPkg ∧ e.1.srcCore = w.srcCore ∧ e.1.front = w.front)) →
      0 < n → inMbox q = false → s.plain q n → s.inboundOk w.part q n = true → s.zoneAt q n = some (c, i, z) →
      z.state = 0 ∨ (z.state = 1 ∧ z.src = w.srcPkg) → z.base ≤ q → q + n ≤ z.base + z.size →
      let takes (i' : Instr) (z' : Zone) : Prop := ∃ t, exec i' s = .next t ∧ t.bytes q n = w.data ∧ BytesBut (span q n) s t ∧
        (t.core c).zones = (s.core c).zones.set i.val z'
      (w.isEnd = false → takes (.zoneWriteAccept w) { z with state := 1, src := w.srcPkg }) ∧
      (w.isEnd = true → takes (.zoneEndWrite w) { z with state := 2, src := w.srcPkg, endAt := q - z.base })) ∧
    ∀ (c : CoreId) (i : ZoneId),
      let z := (s.core c.val).zones[i.val]
      z.v = true → z.state = 2 → ∃ t m, exec (.zoneComplete c i) s = .next t ∧ t.net = s.net ++ [.msg c z.mbx false false m] ∧
        bits m.h0.toNat 48 16 = 0xFFF0 ∧ bits m.h1.toNat 63 1 = 0 ∧ bits m.body.toNat 0 64 = z.vbase.toNat ∧
        bits m.body.toNat 160 32 = z.src.toNat ∧ bits m.body.toNat 192 32 = i.val ∧
        BytesBut (span z.base z.size) s t ∧ ((t.core c.val).zones[i.val]).state = 3 ∧
        (∀ a, s.zoneCheck z = .error a →
          bits m.body.toNat 128 32 = 1 ∧ bits m.body.toNat 224 32 = a % 2 ^ 32 ∧ SameBytes s t) ∧
        (∀ o, s.zoneCheck z = .ok o → bits m.body.toNat 128 32 = 0)

/-- 13_graphs R235-R249: the runs of the Mint, step by step, and the zones that it completes. What EMITTED counts is the
model's reading (notes/assumptions/54). -/
def Obligations.MintEvents : Prop := Clauses.MintRuns ∧ Clauses.MintSteps ∧ Clauses.LandingZones

/-! ### Messages, events and virtual time -/

/-- 15_messages R266, R267, R270, R272-R277: `send` and `req` compose a message of the thread and put it on the mesh, and the
core's MID counts it; `recv` takes the selected message of the set, or waits; `peek` takes none; `mbxdef` writes an entry;
`mbxq` reports one. The selected message of a FIFO mailbox is the oldest. The list of a mailbox's messages, and when a checkpoint
with no room traps and when it waits, are the model's readings (notes/assumptions/21, 23). -/
def Obligations.MessageInstructions : Prop :=
  ∀ (s : State) (a b : XReg) (v : VReg) (m : Mbox) (p : Fin 4), s.calm →
    let c := s.myId
    let n := (s.x a).toNat
    (s.isSup = false → v.val < s.me.vcnt →
      (s.noEvent → bits n 14 13 = s.pkg → s.sendCheck n (s.x b) = .ok () →
        let sends (i : Instr) (kind : Nat) : Prop := ∃ t g, exec i s = .next t ∧ SameBytes s t ∧
          t.net = s.net ++ [.msg (Fin.ofNat 1024 (bits n 4 10)) (Fin.ofNat 16 n) false false g] ∧
          t.me = { s.me with pc := s.me.pc + 4, wait := none, prog := .none, stalls := [] } ∧ t.myCore.mid = s.myCore.mid + 1 ∧
          g.h0 = s.x b ∧ g.mid = s.myCore.mid.toNat ∧ g.len = (if bits n 28 4 = 0 then 12 else bits n 28 4) ∧ g.score = c ∧
          g.spkg = s.pkg ∧ g.kind = kind ∧ g.pr = p.val ∧ g.ord = (bits n 32 1 == 1) ∧
          g.body.toNat = (s.v v).toNat % 2 ^ (32 * g.len) ∧ g.part = s.me.part ∧ g.dom = s.myDom
        sends (.send a b v m p) 0 ∧
        (bits n 32 1 = 0 → bits (s.x b).toNat 43 21 = s.pkg → sends (.req a b v m p) 2)) ∧
      (s.me.opt = true → s.me.evo = true → s.sendCheck n (s.x b) = .ok () → bits n 32 1 = 0 → s.hasSpace c .escrow 1 = true →
        ∃ t e, exec (.send a b v m p) s = .next t ∧ t.net = s.net ∧ t.myDie.escrow = s.myDie.escrow ++ [e] ∧ e.lvt = s.me.lvt ∧
          e.evid = s.me.evid ∧ e.slot = s.cur.slot ∧ t.me.pc = s.me.pc + 4) ∧
      (∀ e rest, s.mbMode c m.val = 0 → s.box c m.val = e :: rest → e.done = none →
        s.select c [m] = some (m, 0, e.msg)) ∧
      (let filled (g : Msg) (u : Vec) : Prop := u.toNat % 2 ^ 512 = g.lanes ∧ u.toNat / 2 ^ 512 = (s.v v).toNat / 2 ^ 512
       let takes (i : Instr) (set : List Mbox) (named : BitVec 16) : Prop :=
        s.me.opt = false → ∀ mode, s.recvCheck false set = .ok mode → mode ≠ 1 →
        (∀ mb k g, s.select c set = some (mb, k, g) → ∃ t u, exec i s = .next t ∧ filled g u ∧
          t.me = { { s.me with v := s.me.v.set v.val u }.setX a g.h0 with pc := s.me.pc + 4, wait := none, prog := .none, stalls := [], monitor := t.me.monitor } ∧
          t.box c mb.val = (s.box c mb.val).eraseIdx k ∧ BytesBut (span (s.mboxAt c mb.val 5) 8) s t) ∧
        (s.select c set = none → exec i s = .next (s.modMe fun k => { k with state := .wait, wait := some (.message named), stalls := [] }))
       let looks (i : Instr) (set : List Mbox) : Prop := ∀ mode, s.recvCheck true set = .ok mode →
        (∀ mb k g, s.select c set = some (mb, k, g) → ∃ t u, exec i s = .next t ∧ filled g u ∧
          Writes s t fun k => { k with v := k.v.set v.val u }.setX a g.h1) ∧
        (s.select c set = none → SetsX i s a 0)
       takes (.recv a v m) [m] (BitVec.ofNat 16 (2 ^ m.val)) ∧ looks (.peek a v m) [m] ∧
       ∀ set, s.namedSet b = .ok set → takes (.recvSet a b v) (mbSet set) set ∧ looks (.peekSet a b v) (mbSet set)) ∧
      (∀ k g, s.recvCheck false [m] = .ok 1 → s.select c [m] = some (m, k, g) → s.hasSpace c .undo 11 = false →
        (g.vrt = s.myDie.gvt.toNat → exec (.recv a v m) s = .next (s.takeTrap s.cur .logfull 1 0)) ∧
        (g.vrt ≠ s.myDie.gvt.toNat → s.me.evo = true → exec (.recv a v m) s = .next (s.modMe fun q =>
          { q with evo := false, range := none, state := .wait, wait := some (.checkpoint (BitVec.ofNat 16 (2 ^ m.val))), stalls := [] }))) ∧
      (∀ k g, s.recvCheck false [m] = .ok 1 → s.select c [m] = some (m, k, g) → s.me.evo = false → s.hasSpace c .undo 11 = true →
        ∃ t, exec (.recv a v m) s = .next t ∧ t.me.evo = true ∧ t.me.evid = s.me.evid + 1 ∧ t.me.lvt.toNat = g.vrt ∧
          t.me.range = some (s.me.evsb, s.me.evsl) ∧ t.x a = g.h0 ∧ (t.v v).toNat % 2 ^ 512 = g.lanes ∧
          (∃ at_, t.myCore.undo = s.myCore.undo ++
            [(at_, .check t.myEvent t.me.lvt (g.key (s.mbPrio c m.val)) s.me.x s.me.pc s.me.lvt s.me.p m)]))) ∧
    (∀ da, s.isSup = true → Memory.wf s.mem = true → n % 64 = 0 → n < 2 ^ 24 → s.translate (s.x a) .r 64 = .ok da →
      s.touchable (s.x a) da 40 true = .ok () → s.box c m.val = [] →
      let image := s.captured (da % 2 ^ 43) 40
      let w (i : Nat) := ofBytes ((image.drop (8 * i)).take 8)
      mbxReserved w = false → s.boxRoom c (bits (w 0) 4 3) (w 1) (64 * (bits (w 0) 8 12 + 1)) = true →
      w 2 % 2 = 0 ∨ (bits (w 2) 1 4 ≠ 0 ∧ w 3 % 4 = 0) →
      ∃ t, Edits (.mbxdef a m) s t (span (s.mboxAt c m.val 0) 40) id ∧ t.bytes (s.mboxAt c m.val 0) 40 = image) ∧
    (s.mbValid c m.val = false → SetsX (.mbxq a m) s a 0) ∧
    (s.mbValid c m.val = true → s.isSup = true ∨ s.mbPart c m.val = s.me.part.val →
      let w5 := s.mboxWord c m.val 5
      SetsX (.mbxq a m) s a (BitVec.ofNat 64 (bits w5 0 13 + 2 ^ 16 * bits w5 16 13 + 2 ^ 32 * bits w5 32 4 +
        2 ^ 40 * bits (s.mboxWord c m.val 0) 0 4 + 2 ^ 44 + 2 ^ 45 * (s.mboxWord c m.val 2 % 2))))

/-- 15_messages R280, R285, R287-R290: `evend` ends the open event and waits until GVT passes its LVT, and is over at once in a
thread without one; `escwait` does that first, and then waits while the thread owns an Escrow entry; `escst` stores at once in an
unbound population, through an Escrow entry in a bound one, and in an open event with an undo record into the state range and
through an Escrow entry elsewhere. The place of that record in the log, the state range as one of this package, and that an `evend`
or `escwait` which issues again finds its wait where it was are the model's readings (notes/assumptions/35, 12, 59, 65). -/
def Obligations.VirtualTimeInstructions : Prop :=
  ∀ (s : State) (d a : XReg), s.calm →
    (s.isSup = false →
      (s.me.opt = false → Goes .evend s (s.me.pc + 4) id) ∧
      (s.me.opt = true → s.me.evo = true →
        (s.me.lvt.toNat < s.myDie.gvt.toNat → Goes .evend s (s.me.pc + 4) fun k => { k with evo := false, range := none }) ∧
        (s.myDie.gvt.toNat ≤ s.me.lvt.toNat → exec .evend s = .next (s.modMe fun k =>
          { k with evo := false, range := none, prog := .ended, state := .wait, wait := some (.gvtAbove k.lvt), stalls := [] }))) ∧
      (s.me.opt = true → s.me.evo = false → s.me.prog ≠ .ended → Goes .evend s (s.me.pc + 4) id) ∧
      (s.me.opt = true → s.me.evo = false → s.me.prog = .ended →
        (s.me.lvt.toNat < s.myDie.gvt.toNat → Goes .evend s (s.me.pc + 4) id) ∧
        (s.myDie.gvt.toNat ≤ s.me.lvt.toNat → exec .evend s = .next (s.modMe fun k =>
          { k with state := .wait, wait := some (.gvtAbove k.lvt), stalls := [] }))) ∧
      (let owns := ∃ d ∈ s.dies, ∃ e ∈ d.2.escrow, e.owner = s.cur ∧ e.pop = s.me.popid
       let passed := s.me.lvt.toNat < s.myDie.gvt.toNat
       let ended (k : Slot) : Slot := if k.opt && k.evo then { k with evo := false, range := none } else k
       (s.me.opt = false ∨ passed ∨ (s.me.evo = false ∧ s.me.prog ≠ .ended) →
         (¬ owns → Goes .escwait s (s.me.pc + 4) ended) ∧
         (owns → exec .escwait s = .next (s.modMe fun k => { ended k with state := .wait, wait := some .escrowEmpty, stalls := [] }))) ∧
       (s.me.opt = true → ¬ passed →
         (s.me.evo = true → exec .escwait s = .next (s.modMe fun k =>
           { ended k with prog := .ended, state := .wait, wait := some (.gvtAbove k.lvt), stalls := [] })) ∧
         (s.me.evo = false → s.me.prog = .ended → exec .escwait s = .next (s.modMe fun k =>
           { k with state := .wait, wait := some (.gvtAbove k.lvt), stalls := [] })))) ∧
      ∀ da, Memory.wf s.mem = true → s.translate (s.x d) .w 8 = .ok da → s.touchable (s.x d) da 8 false = .ok () →
        da / 2 ^ 43 = s.pkg → da % 8 = 0 → s.plain (da % 2 ^ 43) 8 →
        let held (t : State) (e : EscEntry) : Prop := exec (.escst d a) s = .next t ∧ SameBytes s t ∧
          t.myDie.escrow = s.myDie.escrow ++ [e] ∧ e.owner = s.cur ∧ e.score = s.cur.core ∧ e.slot = s.cur.slot ∧ e.pop = s.me.popid ∧
          (∃ mask data, e.act = .store (da / 64 * 64) mask data ∧
            (∀ i < 64, mask.getLsbD i = decide (da % 64 ≤ i ∧ i < da % 64 + 8)) ∧ data.extractLsb' (8 * (da % 64)) 64 = s.x a) ∧
          t.me.pc = s.me.pc + 4
        (s.me.evo = false → s.myDom = none → ∃ t, Stores (.escst d a) s t (fun r => span (da % 2 ^ 43) 8 r ∨ s.spilled r) id ∧
          ((∀ r, span (da % 2 ^ 43) 8 r → ¬ s.spilled r) → t.word (da % 2 ^ 43) = s.x a)) ∧
        (s.me.evo = false → s.myDom ≠ none → s.hasSpace s.myId .escrow 1 = true →
          ∃ t e, held t e ∧ e.lvt = (if s.me.opt then s.me.lvt else 0)) ∧
        (s.me.evo = true →
          let log := vaultBase s.myId + logBound s.myCore.ulogb + s.myCore.undoNext % s.myCore.undoRoom * 16
          (s.inRange ⟨s.x d, da, toBytes 8 (s.x a).toNat⟩ = true → s.hasSpace s.myId .escrow 0 = true → s.hasSpace s.myId .undo 1 = true →
            (∀ r, span log 16 r → ¬ span (da % 2 ^ 43) 8 r ∧ ¬ s.tileTable r) →
            ∃ t, exec (.escst d a) s = .next t ∧ BytesBut (fun r => span (da % 2 ^ 43) 8 r ∨ span log 16 r) s t ∧
              t.word (da % 2 ^ 43) = s.x a ∧ t.me.pc = s.me.pc + 4 ∧
              t.myCore.undo = s.myCore.undo ++ [(s.myCore.undoNext, .store s.myEvent da (s.word (da % 2 ^ 43)))]) ∧
          (s.inRange ⟨s.x d, da, toBytes 8 (s.x a).toNat⟩ = false → s.hasSpace s.myId .undo 0 = true → s.hasSpace s.myId .escrow 1 = true →
            ∃ t e, held t e ∧ e.lvt = s.me.lvt ∧ e.evid = s.me.evid)))

/-- 15_messages R267, R269, R282-R285, 08_slots R154, 20_counters R333, R334: a message that arrives first of its channel is
accepted at the end of its mailbox, refused and counted in EMSG, or held where the mailbox is full; an anti-message
removes its unprocessed partner, and is refused as another message is. A rollback restores the thread as it was before its
earliest undone event, and every word that its undone events stored to. A cut flips
the colour of every die of the domain; a round whose old-colour sends were all received closes with its minimum; a die
publishes it, and its Escrow keeps only what GVT has not passed: a released store writes its bytes, a released `send` is on the
mesh. That an anti-message may pass held messages, and what the I/O dies keep of a domain that a die has left, are the model's
readings (notes/assumptions/22, 80). -/
def Obligations.VirtualTimeEvents : Prop :=
  ∀ (s : State),
    (∀ (n : Nat) (dst : CoreId) (mb : Mbox) (fwd counted : Bool) (m : Msg), s.net[n]? = some (.msg dst mb fwd counted m) →
      let c := dst.val
      let d := dieOf c
      (s.core c).fwdV = false → (∀ e ∈ s.net.take n, sameChannel dst mb fwd m e = false) →
      (m.kind ≠ 1 →
        let arrives (f : State → Prop) : Prop := ∃ t, exec (.messageArrival n) s = .next t ∧ f t
        (s.refuses c mb.val m = true → arrives fun t => t.net = s.net.eraseIdx n ∧ (t.die d).emsg = (s.die d).emsg + 1 ∧
          t.box c mb.val = s.box c mb.val) ∧
        (s.refuses c mb.val m = false → (s.box c mb.val).length < s.mbCap c mb.val → arrives fun t =>
          t.net = s.net.eraseIdx n ∧ t.box c mb.val = s.box c mb.val ++ [{ msg := m, done := none }]) ∧
        (s.refuses c mb.val m = false → s.mbCap c mb.val ≤ (s.box c mb.val).length → arrives fun t =>
          t.net = s.net.set n (.msg dst mb fwd true m) ∧ t.box c mb.val = s.box c mb.val)) ∧
      (m.kind = 1 → s.refuses c mb.val m = true → m.ack = .none → ∃ t, exec (.antiMessageArrival n) s = .next t ∧
        t.net = s.net.eraseIdx n ∧ (t.die d).emsg = (s.die d).emsg + 1 ∧ t.box c mb.val = s.box c mb.val) ∧
      (m.kind = 1 → s.refuses c mb.val m = false → ∀ g, (s.box c mb.val).find? (fun e => m.partner e.msg) = some { msg := g, done := none } →
        ∃ t, exec (.antiMessageArrival n) s = .next t ∧ t.net = s.net.eraseIdx n ∧ (t.die d).annih = (s.die d).annih + 1 ∧
          t.box c mb.val = (s.box c mb.val).eraseP fun e => e.done = none ∧ m.partner e.msg = true)) ∧
    (∀ (c : CoreId) (l : SlotId) (r : Pending) (at_ : Nat) (e : Event) (vrt lvt : BitVec 48) (key : EvKey) (x : Vector Word 16) (pc : Word)
        (pr : BitVec 8) (mb : Mbox),
      let p : Place := { core := c, slot := l }
      let q := s.slotAt p
      let mine (v : Event) : Bool := v.slot == l && v.part == q.part && decide (r.evid.toNat ≤ v.evid.toNat)
      q.canRollBack = true → s.stopLocked p = false → q.pending = some r → q.stopping = false → q.antiOut = 0 →
      (∀ u ∈ (s.core c.val).sent, mine u.2.by_ = false) →
      (s.core c.val).undo.find? (fun u => mine u.2.event && u.2.units == 11) = some (at_, .check e vrt key x pc lvt pr mb) →
      ∃ t, exec (.rollback c l) s = .next t ∧ (t.die (dieOf c.val)).rolls = (s.die (dieOf c.val)).rolls + 1 ∧
        (t.core c.val).undo = (s.core c.val).undo.filter (fun u => !mine u.2.event) ∧
        (let k := t.slotAt p
         k.x = x ∧ k.p = pr ∧ k.pc = pc ∧ k.lvt = lvt ∧ k.evid = e.evid - 1 ∧ k.evo = false ∧ k.pending = none ∧ k.state = .ready) ∧
        (Memory.wf s.mem = true → q.mint = none →
          let recs := (s.core c.val).undo.filter fun u => mine u.2.event
          let stored (u : Nat × UndoRec) (r : Nat) : Prop := ∃ v da old, u.2 = .store v da old ∧ span (da % 2 ^ 43) 8 r
          let boxWord (r : Nat) : Prop := ∃ b, span (s.mboxAt c.val b 5) 8 r
          BytesBut (fun r => boxWord r ∨ ∃ u ∈ recs, stored u r) s t ∧
          ∀ pre post at2 v da old, recs = pre ++ (at2, .store v da old) :: post →
            (∀ r, span (da % 2 ^ 43) 8 r → ¬ boxWord r ∧ ∀ u ∈ pre, ¬ stored u r) → t.word (da % 2 ^ 43) = old)) ∧
    (s.still = false → ∀ (dom : BitVec 16) (least : BitVec 32),
      let ds := s.domDies dom
      let lead := s.die (ds.headD 0)
      let period := ds.foldl (fun m d => min m (s.die d).gvtr.toNat) least.toNat
      let old := !lead.colour
      let kept := s.domRound dom
      let total (f : Die → Nat) : Nat := (ds.map fun d => f (s.die d)).sum
      ds ≠ [] →
      ((∀ d ∈ ds, (s.die d).open_ = false) → lead.tsc.toNat % period = 0 → lead.closedAt.toNat < lead.tsc.toNat →
        ∃ t, exec (.clearingCut { dom, least }) s = .next t ∧ ∀ d, t.die d = if d ∈ ds then
          { s.die d with colour := !(s.die d).colour, open_ := true, low := (s.clearingTerms d).foldl min (2 ^ 48 - 1) } else s.die d) ∧
      ∀ ext : ClearingSums, (∀ d ∈ ds, (s.die d).open_ = true) →
        total (fun k => ofColour k.sent old) + ofColour kept.sent old + ext.sent =
          total (fun k => ofColour k.rcvd old) + ofColour kept.rcvd old + ext.rcvd →
        ∃ t g, exec (.clearingRoundClose dom ext) s = .next t ∧ g ≤ ext.low ∧ g ≤ kept.low ∧ g < 2 ^ 48 ∧ ∀ d ∈ ds, g ≤ (s.die d).low ∧
          (t.die d).open_ = false ∧ (t.die d).closedAt = (s.die d).tsc ∧ (t.die d).toGvt = (s.die d).toGvt ++ [g] ∧
          ofColour (t.die d).sent old = 0 ∧ ofColour (t.die d).rcvd old = 0) ∧
    ∀ (d : DieId) (g : Nat) (later : List Nat), s.still = false → (s.die d.val).toGvt = g :: later → g < 2 ^ 48 → ∃ t, exec (.gvtPublish d) s = .next t ∧
      (t.die d.val).gvt.toNat = max (s.die d.val).gvt.toNat g ∧ (t.die d.val).toGvt = later ∧
      (t.die d.val).gvtrn = (s.die d.val).gvtrn + 1 ∧
      (t.die d.val).escrow = ((s.die d.val).escrow.filter fun e => decide ((t.die d.val).gvt.toNat ≤ e.lvt.toNat)) ∧
      ∀ e, (s.die d.val).escrow.filter (fun e => e.lvt.ult (t.die d.val).gvt) = [e] →
        (∀ line mask data, e.act = .store line mask data → line % 64 = 0 → line < 2 ^ 56 → line / 2 ^ 43 = s.pkg →
          s.plain (line % 2 ^ 43) 64 → s.offTables (line % 2 ^ 43) 64 → Memory.wf s.mem = true →
          (∀ k ∈ s.cores, k.2.mail = [] ∧ ∀ i : SlotId, k.2.slots[i.val].state ≠ .held) →
          ∀ i < 64, Memory.get t.mem (line % 2 ^ 43 + i) =
            if mask.getLsbD i then data.extractLsb' (8 * i) 8 else Memory.get s.mem (line % 2 ^ 43 + i)) ∧
        ∀ desc m, e.act = .send desc m → bits desc.toNat 14 13 = s.pkg → t.net = s.net ++
          [.msg (Fin.ofNat 1024 (bits desc.toNat 4 10)) (Fin.ofNat 16 desc.toNat) false false
            { m with colour := (s.die (dieOf e.owner.core.val)).colour }]

/-- 15_messages R288: `vtget` sets X[xd] to LVT, to the die's GVT or to EVID, zero-extended; and 0xC9800001 is `vtget x6, lvt`. -/
def Obligations.VirtualTimeReads : Prop :=
  (∀ (s : State) (d : XReg), s.calm →
    SetsX (.vtgetLvt d) s d (BitVec.ofNat 64 s.me.lvt.toNat) ∧ SetsX (.vtgetGvt d) s d (BitVec.ofNat 64 s.myDie.gvt.toNat) ∧
    SetsX (.vtgetEvid d) s d (BitVec.ofNat 64 s.me.evid.toNat)) ∧
  decode 0xC9800001 = .ok (.vtgetLvt 6)

/-! ### Tasks, threads, barriers, tickets -/

/-- 15_messages R291-R297, 08_slots R133, R140, R152: `tasknew` arms a record with its count, and queues it where the count is 0;
`taskdec` sends a decrement, which lowers the count and queues the record at 0 and stalls at a locked bank, both through the Escrow
in an open event; a queued record starts in a free slot of its core, a stage's handler likewise. `spawn` starts a thread, `migr` moves one, and `slotq`
reports a slot. The link word, the packets to other packages, the reserved destination of a migration, the zeros of the record's
Reserved words and the time that a migrating thread carries are the model's (notes/assumptions/24, 25, 56, 74, 40). -/
def Obligations.TasksAndThreads : Prop :=
  ∀ (s : State), Memory.wf s.mem = true →
    (∀ (d a : XReg) (b : OpB), s.calm →
      let c := s.myId
      (s.isSup = false → s.me.evo = false →
        (∀ (v : Word) (da : Nat), s.opB b = .ok v → s.translate (s.x a) .rw 64 = .ok da → da / 2 ^ 43 = s.pkg →
          let q := da % 2 ^ 43
          let home := vaultCore q
          let n := v.toNat % 2 ^ 32
          inVault q = true → 0x10000 ≤ q % 2 ^ 24 → s.touchable (s.x a) da 40 true = .ok () →
          s.num q 8 % 4 = 0 → s.taskState q ≠ 1 → s.taskState q ≠ 2 →
          let armed (t : State) : Prop := t.num (q + 0x20) 4 = s.me.popid.toNat ∧ t.me.pc = s.me.pc + 4 ∧
            t.me.x = s.me.x.set d.val (BitVec.ofNat 64 (2 ^ 63 + s.pkg * 2 ^ 43 + q)) ∧
            t.num (q + 0x18) 8 = n + 2 ^ 32 * (if n = 0 then 2 else 1) + 2 ^ 36 * s.me.part.val ∧
            t.bytes (q + 0x30) 16 = List.replicate 16 0 ∧ BytesBut (fun r => span (q + 0x18) 12 r ∨ span (q + 0x30) 16 r) s t
          (n ≠ 0 → ∃ t, exec (.tasknew d a b) s = .next t ∧ armed t ∧ (t.core home).runList = (s.core home).runList) ∧
          (n = 0 → (s.core home).runList.length < 257 → ∃ t, exec (.tasknew d a b) s = .next t ∧ armed t ∧
            (t.core home).runList = (s.core home).runList ++ [q])) ∧
        (∀ da, s.translate (s.x a) .w 64 = .ok da → da / 2 ^ 43 = s.pkg → ∃ t, exec (.taskdec a) s = .next t ∧ SameBytes s t ∧
          t.net = s.net ++ [.taskDec (da % 2 ^ 43) s.issuer []] ∧ t.me = { s.me with pc := s.me.pc + 4, wait := none, prog := .none, stalls := [] }) ∧
        (∀ v p i, (s.x a).toNat % 4 = 0 → s.opB b = .ok v → s.myPop = some p →
          (s.freeSlot c p false = none → SetsX (.spawn d a b) s d (BitVec.allOnes 64)) ∧
          (s.freeSlot c p false = some i → i ≠ s.cur.slot → ∃ t, exec (.spawn d a b) s = .next t ∧ SameBytes s t ∧
            t.slotAt { core := s.cur.core, slot := i } = Slot.start p.part p.id (BitVec.allOnes 32) (s.x a) v 0 0 0 ∧
            t.me = { s.me.setX d (BitVec.ofNat 64 i.val) with pc := s.me.pc + 4, wait := none, prog := .none, stalls := [] }))) ∧
      (s.isSup = false → s.me.evo = true → s.hasSpace c .escrow 1 = true →
        let held (i : Instr) (act : EscAct) : Prop := ∃ t e, exec i s = .next t ∧ SameBytes s t ∧ t.net = s.net ∧
          t.myDie.escrow = s.myDie.escrow ++ [e] ∧ e.act = act ∧ e.owner = s.cur ∧ e.lvt = s.me.lvt ∧ e.pop = s.me.popid ∧ t.me.pc = s.me.pc + 4
        (∀ da, s.translate (s.x a) .w 64 = .ok da → held (.taskdec a) (.taskDec da)) ∧
        ∀ (v : Word) (da : Nat), s.opB b = .ok v → s.translate (s.x a) .rw 64 = .ok da → da / 2 ^ 43 = s.pkg →
          let q := da % 2 ^ 43
          let n := v.toNat % 2 ^ 32
          inVault q = true → 0x10000 ≤ q % 2 ^ 24 → s.touchable (s.x a) da 40 true = .ok () →
          s.num q 8 % 4 = 0 → s.taskState q ≠ 1 → s.taskState q ≠ 2 →
          held (.tasknew d a b) (.taskNew q (BitVec.ofNat 64 (n + 2 ^ 32 * (if n = 0 then 2 else 1) + 2 ^ 36 * s.me.part.val)) (n == 0))) ∧
      (∀ da p i, s.isSup = false → s.translate (s.x a) .r 1 = .ok da → inVault (da % 2 ^ 43) = true → s.me.vcnt = 0 →
        s.me.opt = false → s.me.prot = false → s.myPop = some p →
        let to_ := vaultCore (da % 2 ^ 43)
        (to_ = c → Reads (.migr d a) s (·.setX d 1)) ∧
        (to_ ≠ c → s.freeSlot to_ p = none → Reads (.migr d a) s (·.setX d 0)) ∧
        (to_ ≠ c → s.freeSlot to_ p = some i → ∃ t g, exec (.migr d a) s = .next t ∧
          t.net = s.net ++ [.migrate { core := Fin.ofNat 1024 to_, slot := i } g] ∧ g.from_ = s.cur ∧ g.xd = d ∧ g.slot.x = s.me.x ∧
          g.slot.pc = s.me.pc + 4 ∧ g.slot.popid = s.me.popid ∧ t.me.state = .transit ∧
          (t.slotAt { core := Fin.ofNat 1024 to_, slot := i }).state = .transit)) ∧
      (let i : SlotId := Fin.ofNat 16 (s.x a).toNat
       let k := s.myCore.slots[i.val]
       let part := if i.val = 15 then none else s.myCore.partOf i
       let mine := s.isSup = false ∧ part = some s.me.part ∧ k.state ≠ .free
       SetsX (.slotq d a) s d (BitVec.ofNat 64 (k.state.code + (match part with | some p => 16 * p.val + 128 | none => 0) +
         (if mine then 2 ^ 32 * k.popid.toNat else 0)))) ) ∧
    (∀ (n : Nat) (q : Nat) (by_ : Issuer) (l : List Stall), s.net[n]? = some (.taskDec q by_ l) →
      (∀ k, s.lockedAt q = some k → freedFrom l k = false →
        exec (.taskDecrement n) s = .next { s with net := s.net.set n (.taskDec q by_ (meets l [k])) }) ∧
      ((∀ k, s.lockedAt q = some k → freedFrom l k = true) →
      let w := s.num (q + 0x18) 8
      let home := vaultCore q
      let does (f : State → Prop) : Prop := ∃ t, exec (.taskDecrement n) s = .next t ∧ t.net = s.net.eraseIdx n ∧ f t
      (inVault q = true → s.taskState q = 1 → w % 2 ^ 32 ≠ 1 → does fun t =>
        t.num (q + 0x18) 4 = (w % 2 ^ 32 + 2 ^ 32 - 1) % 2 ^ 32 ∧ t.taskState q = 1 ∧ (t.core home).runList = (s.core home).runList) ∧
      (inVault q = true → s.taskState q = 1 → w % 2 ^ 32 = 1 → (s.core home).runList.length < 257 → does fun t =>
        t.num (q + 0x18) 4 = 0 ∧ t.taskState q = 2 ∧ (t.core home).runList = (s.core home).runList ++ [q]) ∧
      (inVault q = true → s.taskState q ≠ 1 → does fun t => (t.die (dieOf home)).etask = (s.die (dieOf home)).etask + 1 ∧ SameBytes s t))) ∧
    (∀ (c : CoreId) (q : Nat) (rest : List Nat) (p : Pop) (i : SlotId), (s.core c.val).runList = q :: rest →
      s.pop? (BitVec.ofNat 32 (s.num (q + 0x20) 4)) = some p → s.freeSlot c.val p = some i →
      ∃ t, exec (.taskStart c) s = .next t ∧ (t.core c.val).runList = rest ∧ t.taskState q = 3 ∧ BytesBut (span (q + 0x18) 8) s t ∧
        t.slotAt { core := c, slot := i } = Slot.start p.part p.id (BitVec.allOnes 32) (s.word q) (s.word (q + 8)) (s.word (q + 16)) 0 0) ∧
    (∀ (c : CoreId) (mb : Mbox) (p : Pop) (i : SlotId),
      let w (j : Nat) := s.mboxWord c.val mb.val j
      let run := bits (w 5) 32 4
      let occ := bits (w 5) 0 13
      bits (w 2) 0 1 = 1 → bits (w 2) 5 12 < occ → run < bits (w 2) 1 4 →
      bits (w 4) 63 1 = 0 ∨ bits (s.mboxWord (bits (w 4) 4 10) (bits (w 4) 0 4) 5) 0 13 ≤ bits (w 4) 14 12 →
      s.pop? (BitVec.ofNat 32 (w 2 / 2 ^ 32)) = some p → s.freeSlot c.val p = some i →
      ∃ t, exec (.stageHandlerStart c mb) s = .next t ∧ bits (t.mboxWord c.val mb.val 5) 32 4 = run + 1 ∧
        t.slotAt { core := c, slot := i } = { Slot.start p.part p.id (BitVec.allOnes 32) (BitVec.ofNat 64 (w 3)) (BitVec.ofNat 64 mb.val)
          (BitVec.ofNat 64 occ) 0 0 with stage := some (c, mb) }) ∧
    ∀ (n : Nat) (dst : Place) (g : Carried), s.net[n]? = some (.migrate dst g) → g.slot.stopping = false → g.slot.intr = none →
      g.from_ ≠ dst → g.slot.seen.toNat ≤ (s.die (dieOf dst.core.val)).tsc.toNat →
      ∃ t, exec (.migrationArrival n) s = .next t ∧ t.net = s.net.eraseIdx n ∧ SameBytes s t ∧
        t.slotAt dst = { g.slot.setX g.xd 1 with
          state := .ready, fflags := g.slot.fflags ||| (s.slotAt dst).fflags, refused := g.slot.refused + (s.slotAt dst).refused } ∧
        ((s.slotAt g.from_).state = .transit → (s.slotAt g.from_).popid = g.slot.popid →
          s.othersStay g.from_ g.slot.popid = false → t.slotAt g.from_ = Slot.empty)

/-- 18_tables R312-R314: `barnew` makes a barrier in the lowest free entry with a new generation; an arrival counts, and
the last one begins the next round; `bararr` returns the round, `barwait` waits for the end of one, `bararw` arrives and
waits; `barfree` clears V. In an open event, and in any state with TS.EVO = 1, those that change a barrier trap MBOX 16; a
handle that is not valid traps BARGEN before a second operand is read. -/
def Obligations.Barriers : Prop :=
  ∀ (s : State) (d a : XReg) (b : OpB), s.calm → s.isSup = false → Memory.wf s.mem = true →
    let p := s.me.part.val
    let h := s.x a
    let i := h.toNat % 4096
    let q := s.barAt p i
    let round := s.barWord p i 1 / 2 ^ 16 % 2 ^ 16
    let after := s.barWord p i 1 % 2 ^ 16 + 1
    let moved (t : State) (v : Word) : Prop := t.me.x = s.me.x.set d.val v ∧ t.me.pc = s.me.pc + 4
    (s.me.evo = true → ∀ i ∈ ([.barnew d a, .bararr d a, .bararw d a, .barfree a] : List Instr), exec i s = .next (s.takeTrap s.cur .mbox 0 16)) ∧
    (s.barValid p h = false → exec (.barwait a b) s = .next (s.takeTrap s.cur .bargen 0 h) ∧
      (s.me.evo = false → ∀ i ∈ ([.bararr d a, .bararw d a, .barfree a] : List Instr), exec i s = .next (s.takeTrap s.cur .bargen 0 h))) ∧
    (s.me.evo = false →
      (∀ n j, h.toNat = n → 1 ≤ n → n ≤ 15360 → (List.range 4096).find? (fun j => bits (s.barWord p j 0) 63 1 == 0) = some j →
        let old := bits (s.barWord p j 0) 0 20
        let gen := if old = 2 ^ 20 - 1 then 1 else old + 1
        ∃ t, exec (.barnew d a) s = .next t ∧ moved t (BitVec.ofNat 64 (gen * 4096 + j)) ∧
          t.barWord p j 0 = gen + n * 2 ^ 32 + 2 ^ 63 ∧ t.barWord p j 1 = s.me.popid.toNat * 2 ^ 32 ∧ BytesBut (span (s.barAt p j) 16) s t) ∧
      (h.toNat = 0 ∨ 15360 < h.toNat ∨ (∀ j < 4096, bits (s.barWord p j 0) 63 1 = 1) → SetsX (.barnew d a) s d 0) ∧
      (s.barValid p h = true → s.travelling s.cur 2 = false → after < 2 ^ 16 →
        let last := after = bits (s.barWord p i 0) 32 16
        let counted (t : State) : Prop := BytesBut (span (q + 8) 4) s t ∧
          t.num (q + 8) 4 = if last then (round + 1) % 2 ^ 16 * 2 ^ 16 else after + round * 2 ^ 16
        (∃ t, exec (.bararr d a) s = .next t ∧ moved t (BitVec.ofNat 64 round) ∧ counted t) ∧
        ((∀ r, s.me.prog ≠ .joined r) → last → ∃ t, exec (.bararw d a) s = .next t ∧ moved t (BitVec.ofNat 64 round) ∧ counted t) ∧
        ((∀ r, s.me.prog ≠ .joined r) → ¬ last → ∃ t, exec (.bararw d a) s = .next t ∧ counted t ∧ t.me.pc = s.me.pc ∧
          t.me.state = .wait ∧ t.me.wait = some (.barrier h (BitVec.ofNat 16 round)) ∧ t.me.prog = .joined (BitVec.ofNat 16 round))) ∧
      (∀ r : BitVec 16, s.barValid p h = true → s.me.prog = .joined r → r.toNat ≠ round →
        SetsX (.bararw d a) s d (BitVec.ofNat 64 r.toNat)) ∧
      (s.barValid p h = true → ∃ t, exec (.barfree a) s = .next t ∧ t.barWord p i 0 = s.barWord p i 0 % 2 ^ 63 ∧
        BytesBut (span q 8) s t ∧ t.me.pc = s.me.pc + 4)) ∧
    ∀ v, s.opB b = .ok v → s.barValid p h = true →
      (v.toNat % 2 ^ 16 ≠ round → Goes (.barwait a b) s (s.me.pc + 4) id) ∧
      (v.toNat % 2 ^ 16 = round → exec (.barwait a b) s =
        .next (s.modMe fun k => { k with state := .wait, wait := some (.barrier h (BitVec.ofNat 16 round)), stalls := [] }))

/-- 18_tables R315-R317: a `tkget` takes the entry's next number and writes it to the ticket word, CALLED where CALL has
passed it; a `tkdone` raises CALL and writes the word of each number that it calls; `tkwait` returns a called word and
waits for one that is not; `fdrain` returns the refusals of the thread once nothing of it is outstanding. Requests of
other packages act in the same way. With TS.EVO = 1 `tkget` and `tkdone` trap MBOX 16. The refusal at an undefined entry and the
packets to other packages are the model's (notes/assumptions/25, 58), and so is how long a word counts as a ticket word
(notes/assumptions/70). -/
def Obligations.Tickets : Prop :=
  ∀ (s : State), Memory.wf s.mem = true →
    (∀ (d a b : XReg) (o : OpB), s.calm →
      (s.outstandingAt s.cur = false → Goes (.fdrain d) s (s.me.pc + 4) fun k => { k.setX d (BitVec.ofNat 64 s.me.refused) with refused := 0 }) ∧
      (s.outstandingAt s.cur = true → exec (.fdrain d) s = .next (s.modMe fun k => { k with state := .wait, wait := some .acked, stalls := [] })) ∧
      (∀ da, s.translate (s.x a) .r 8 = .ok da → s.touchable (s.x a) da 8 true = .ok () →
        let q := da % 2 ^ 43
        inCtl q = false →
        ((s.word q).getLsbD 63 = true → ∃ t, exec (.tkwait d a) s = .next t ∧ SameBytes s t ∧
          t.ticketWords = s.ticketWords.filter (· ≠ q) ∧
          t.me = { s.me.setX d (s.word q) with pc := s.me.pc + 4, wait := none, prog := .none, stalls := [] }) ∧
        ((s.word q).getLsbD 63 = false → ∃ t, exec (.tkwait d a) s = .next t ∧ SameBytes s t ∧
          t.me = { s.me with state := .wait, wait := some (.ticket q), stalls := [] })) ∧
      (s.isSup = false → s.me.evo = true → (s.x a).toNat < 2 ^ 29 → bits (s.x a).toNat 12 4 = 0 →
        exec (.tkdone a o) s = .next (s.takeTrap s.cur .mbox 0 16) ∧
        ∀ da, s.translate (s.x b) .w 8 = .ok da → da / 2 ^ 43 = s.pkg → exec (.tkget a b) s = .next (s.takeTrap s.cur .mbox 0 16)) ∧
      (s.isSup = false → s.me.evo = false → s.tickets = [] →
        let x := (s.x a).toNat
        let part := s.me.part.val
        x < 2 ^ 29 → bits x 12 4 = 0 → bits x 16 13 = s.pkg →
        ∀ q, s.ticketAt part (x % 4096) = some q →
          let next := s.num q 4
          let call := s.num (q + 4) 4
          let w1 := s.num (q + 8) 8
          let log := Nat.min 16 (bits w1 0 5)
          let ring (n : Nat) := bits w1 12 44 * 2 ^ 12 + 8 * (n % 2 ^ log)
          let list (n : Nat) := ring n % 2 ^ 43
          bits w1 63 1 = 1 → (∀ r, span q 16 r → ∀ c, ¬ s.table c r) →
          (∀ da, s.translate (s.x b) .w 8 = .ok da → da / 2 ^ 43 = s.pkg → (next + 2 ^ 32 - call) % 2 ^ 32 ≠ 2 ^ log →
            let word := da % 2 ^ 43
            s.plain word 8 → (∀ r, span word 8 r → ¬ span q 16 r) →
            (next < call ∨ (ring next / 2 ^ 43 = s.pkg ∧ s.plain (list next) 8 ∧ ∀ r, span (list next) 8 r → ∀ c, ¬ s.table c r)) →
            ∃ t, exec (.tkget a b) s = .next t ∧ word ∈ t.ticketWords ∧ t.me.pc = s.me.pc + 4 ∧
              (next < call → t.num word 8 = next + 2 ^ 62 + 2 ^ 63 ∧ t.num q 4 = (next + 1) % 2 ^ 32 ∧
                BytesBut (fun r => span q 4 r ∨ span word 8 r) s t) ∧
              (call ≤ next → s.offTables word 8 → (∀ r, span (list next) 8 r → ¬ span q 16 r ∧ ¬ span word 8 r) →
                t.num word 8 = next + 2 ^ 62 ∧ t.num q 4 = (next + 1) % 2 ^ 32 ∧ t.num (list next) 8 = da ∧
                BytesBut (fun r => span q 4 r ∨ span word 8 r ∨ span (list next) 8 r) s t)) ∧
          (∀ v, s.opB o = .ok v → 1 ≤ v.toNat → v.toNat ≤ 65535 →
            (next ≤ call → call + v.toNat < 2 ^ 32 → ∃ t, exec (.tkdone a o) s = .next t ∧ t.num (q + 4) 4 = call + v.toNat ∧
              BytesBut (span (q + 4) 4) s t ∧ t.me.pc = s.me.pc + 4) ∧
            (call + 1 = next → call + v.toNat < 2 ^ 32 → ring call / 2 ^ 43 = s.pkg → (∀ r, span (list call) 8 r → ¬ span q 16 r) →
              let da := s.num (list call) 8
              let word := da % 2 ^ 43
              da / 2 ^ 43 = s.pkg → s.plain word 8 → (∀ r, span word 8 r → ¬ span q 16 r) →
              ∃ t, exec (.tkdone a o) s = .next t ∧ t.num (q + 4) 4 = call + v.toNat ∧ t.num word 8 = call + 2 ^ 62 + 2 ^ 63 ∧
                BytesBut (fun r => span (q + 4) 4 r ∨ span word 8 r) s t ∧ t.me.pc = s.me.pc + 4)))) ∧
    ∀ (r : TicketIn) (q : Nat), s.tickets = [] → s.ticketAt r.part.val r.idx.toNat = some q →
      let next := s.num q 4
      let call := s.num (q + 4) 4
      let w1 := s.num (q + 8) 8
      let word := r.word % 2 ^ 43
      s.boot.recovery = false → bits w1 63 1 = 1 → (∀ b, span q 16 b → ∀ c, ¬ s.table c b) →
      (r.word / 2 ^ 43 = s.pkg → s.plain word 8 → (∀ b, span word 8 b → ¬ span q 16 b) →
        (next + 2 ^ 32 - call) % 2 ^ 32 ≠ 2 ^ Nat.min 16 (bits w1 0 5) → next < call →
        ∃ t, exec (.ticketRequest r) s = .next t ∧ t.num word 8 = next + 2 ^ 62 + 2 ^ 63 ∧ t.num q 4 = (next + 1) % 2 ^ 32 ∧
          BytesBut (fun b => span q 4 b ∨ span word 8 b) s t) ∧
      (next ≤ call → call + r.adv.toNat < 2 ^ 32 → ∃ t, exec (.ticketAdvance r) s = .next t ∧ t.num (q + 4) 4 = call + r.adv.toNat ∧
        BytesBut (span (q + 4) 4) s t)

/-! ### Shapes, protected contexts, the link -/

/-- 18_tables R306, R322, 20_counters R343-R347, 21_prog_preempt R348-R350: the supervisor's `shdef` writes its image into a shape
record, whose Reserved bits read 0 (00_scope R4); `ctxkey` defines, shows, binds and frees a context key; `ctxsave` seals the header, the context that `sret` would resume and
the region under the next count of the key and stores them at X[xa], after which `ctxsave.evict` leaves the slot empty and reserved;
an image on another package is whole once its writes are acknowledged. `ctxload` puts an image that opens into a FREE slot of its
partition, bound to its key. The key that `ctxkey.new` draws is a free value (notes/assumptions/5), and that an image into control
space traps is the model's choice (notes/assumptions/81). -/
def Obligations.ContextInstructions : Prop :=
  ∀ (s : State) (d a : XReg), s.calm → s.isSup = true → Memory.wf s.mem = true →
    let x := (s.x d).toNat
    let y := (s.x a).toNat
    let l : SlotId := Fin.ofNat 16 x
    let p : Place := { core := s.cur.core, slot := l }
    let q := s.slotAt p
    let moved (t : State) : Prop := t.me.pc = s.me.pc + 4
    (∀ o, y % 32 = 0 → x < 2 ^ 19 → let part := x / 2 ^ 16
      let i := x % 2 ^ 16
      bits (s.partWord part 0) 63 1 = 1 → i < s.partWord part 6 → s.translateHere (s.x a) .r 32 = .ok o →
      s.touchable (s.x a) (s.pkg * 2 ^ 43 + o) 32 true = .ok () →
      let image := s.bytes o 32
      let valid := bits (ofBytes image) 63 1
      valid = 0 ∨ shapeImageOk (ofBytes image) = true →
      ∃ t, Edits (.shdef d a) s t (span (s.shapeAt part i) 32) id ∧ ofBytes (t.bytes (s.shapeAt part i) 32) =
        (let v := ofBytes image
         bits v 0 5 + 2 ^ 8 * bits v 8 2 + 2 ^ 63 * bits v 63 1 + 2 ^ 64 * bits v 64 96)) ∧
    (∀ i, y < 8 → (List.range 1024).find? (fun i => !(s.keyEntry i).v) = some i → ∃ t, exec (.ctxkeyNew d a) s = .next t ∧ SameBytes s t ∧
      moved t ∧ t.x d = BitVec.ofNat 64 i ∧ t.myCore.keySel.toNat = i ∧ (t.keyEntry i).v = true ∧ (t.keyEntry i).live = false ∧
      (t.keyEntry i).part.val = y ∧ ∀ j, j ≠ i → t.keyEntry j = s.keyEntry j) ∧
    (y < 8 → (∀ i < 1024, (s.keyEntry i).v = true) → SetsX (.ctxkeyNew d a) s d (BitVec.allOnes 64)) ∧
    (y < 1024 → (s.keyEntry y).v = true →
      (∃ t, exec (.ctxkeySel a) s = .next t ∧ SameBytes s t ∧ moved t ∧ t.myCore.keySel.toNat = y ∧ t.keys = s.keys) ∧
      ((s.keyEntry y).live = false → ∃ t, exec (.ctxkeyFree a) s = .next t ∧ SameBytes s t ∧ moved t ∧ t.myCore.keySel.toNat = y ∧
        t.keyEntry y = { s.keyEntry y with v := false, key := 0 } ∧ ∀ j, j ≠ y → t.keyEntry j = s.keyEntry j)) ∧
    (∀ da0 da1 w0 base, s.translate (s.x a) .r 8 = .ok da0 → s.load (s.x a) da0 8 0 = .ok w0 → s.translate (s.x a + 8) .r 8 = .ok da1 →
      s.load (s.x a + 8) da1 8 1 = .ok base →
      let k := w0 % 2 ^ 10
      let len := w0 / 2 ^ 32
      w0 < 2 ^ 48 → bits w0 10 22 = 0 → regionOk base len = true → base < 2 ^ 24 → s.regionIn s.myId q.part.val base len = true →
      (s.keyEntry k).v = true → (s.keyEntry k).live = false → (s.keyEntry k).part = q.part → l ≠ 15 → q.state = .parked → q.prot = false →
      ∃ t, exec (.ctxkeyBind d a) s = .next t ∧ SameBytes s t ∧ moved t ∧
        t.slotAt p = { q with prot := true, binding := some { key := BitVec.ofNat 10 k, base := BitVec.ofNat 64 base, len } } ∧
        t.keyEntry k = { s.keyEntry k with live := true } ∧ t.myCore.keySel.toNat = k) ∧
    (∀ (b : Binding) (pages : Pages), q.binding = some b → l ≠ 15 → q.state = .parked → q.prot = true → s.withheld = [] →
      let n := 64 + 256 + 128 * q.vcnt + b.len + 16
      let region := vaultBase s.myId + b.base.toNat
      let e := s.keyEntry b.key.toNat
      let left (t : State) : Prop := t.slotAt p =
          { Slot.empty with reserved := !q.evicting, evicting := q.evicting, state := if q.evicting then .transit else .free } ∧
        t.bytes region b.len = List.replicate b.len 0
      (s.me.prog = .sealed → Goes (.ctxsave d a) s (s.me.pc + 4) id ∧
        ∃ t, exec (.ctxsaveEvict d a) s = .next t ∧ moved t ∧ left t ∧ t.keyEntry b.key.toNat = { e with live := false }) ∧
      (s.me.prog ≠ .sealed → y % 64 = 0 →
        (s.flagsOut p = true → ∀ i ∈ ([.ctxsave d a, .ctxsaveEvict d a] : List Instr),
          exec i s = .next (s.modMe fun t => { t with state := .stalled, wait := some (.flags p), stalls := [] })) ∧
        (s.flagsOut p = false → s.pages (s.x a) .w n = .ok pages → s.touchImage pages (s.x a) n false = .ok () →
          let u := s.publishFor p region b.len
          u.touchable b.base (s.pkg * 2 ^ 43 + region) b.len true = .ok () →
          let here := pages.all fun g => g.2 / 2 ^ 43 == s.pkg
          let count := e.sc + 1
          let c := s.resumed p
          let head := imageHeader b.key.toNat e.part.val l.val count.toNat q.vcnt b.len b.base.toNat n
          let body := gcmSeal (keyNumber e.key) (imageIv b.key.toNat count.toNat) head
            (c.frame SlotState.ready.code ++ c.vectorBytes ++ u.bytes region b.len)
          let whole (t : State) : Prop := t.getPages pages (s.x a) n = head ++ body.1 ++ body.2
          (here = true → ∃ t, exec (.ctxsave d a) s = .next t ∧ moved t ∧ t.slotAt p = { q with monitor := none } ∧
            t.keyEntry b.key.toNat = { e with sc := count } ∧ (u.imageRoom pages (s.x a) n → whole t)) ∧
          (here = true → ∃ t, exec (.ctxsaveEvict d a) s = .next t ∧ moved t ∧ left t ∧
            t.keyEntry b.key.toNat = { e with sc := count, live := false } ∧
            (u.imageRoom pages (s.x a) n → (∀ o ∈ rangePieces pages (s.x a) n, ∀ r, span (o.1 % 2 ^ 43) o.2 r → ¬ span region b.len r) → whole t)) ∧
          (here = false → ∀ i ∈ ([.ctxsave d a, .ctxsaveEvict d a] : List Instr), ∃ t, exec i s = .next t ∧ t.me.pc = s.me.pc ∧
            t.me.state = .wait ∧ t.me.wait = some .acked ∧ t.me.prog = .sealed ∧ t.slotAt p = { q with monitor := none } ∧
            t.keyEntry b.key.toNat = { e with sc := count })))) ∧
    ∀ (da : Nat) (e : ImageHead) (pages : Pages) (text : List Byte),
      let h := (List.range 8).flatMap fun i => s.portBytes (da % 2 ^ 43 + 8 * i) 8
      let k := s.keyEntry e.key
      let n := 64 + 256 + 128 * e.vcnt + e.len + 16
      let body := (s.getPages pages (s.x a) n).drop 64
      let region := vaultBase s.myId + e.base
      let asked := s.myCore.request s.cur.slot e.vcnt
      s.translate (s.x a) .r 64 = .ok da → s.touchable (s.x a) da 64 true = .ok () → l ≠ 15 → q.state = .free →
      s.myCore.partOf l = some (Fin.ofNat 8 e.part) → imageHead h = some e → k.v = true → k.part.val = e.part → k.live = false →
      k.sc.toNat = e.sc → s.pages (s.x a) .r n = .ok pages → s.touchImage pages (s.x a) n true = .ok () →
      gcmOpen (keyNumber k.key) (imageIv e.key e.sc) h (body.take (n - 80)) (body.drop (n - 80)) = some text →
      (asked.granted s.cur.slot e.vcnt = false → ∃ t, exec (.ctxload d a) s = .next t ∧ SameBytes s t ∧ t.me.pc = s.me.pc ∧
        t.me.state = .wait ∧ t.me.wait = some (.regs e.vcnt) ∧ t.myCore.grants = asked.grants ∧ t.slotAt p = q ∧ t.keys = s.keys) ∧
      (asked.granted s.cur.slot e.vcnt = true →
        let w (o : Nat) : Nat := ofBytes ((text.drop o).take 8)
        ∃ t, exec (.ctxload d a) s = .next t ∧ moved t ∧ t.keyEntry e.key = { k with live := true } ∧
          BytesBut (span region e.len) s t ∧ t.bytes region e.len = (text.drop (256 + 128 * e.vcnt)).take e.len ∧
          (let r := t.slotAt p
           r.state = .transit ∧ r.prot = true ∧ r.binding = some { key := BitVec.ofNat 10 e.key, base := BitVec.ofNat 64 e.base, len := e.len } ∧
           r.reserved = q.reserved ∧ r.vcnt = bits (w 0xD0) 8 7 ∧ r.pc = BitVec.ofNat 64 (w 0x80 / 4 * 4) ∧
           r.x = Vector.ofFn fun i => BitVec.ofNat 64 (w (8 * i.val))))

/-- 18_tables R318-R321, 19_prog_link R324-R327: `lkey` loads a key slot that is not in use, `lksw` sends a marker, for which it
waits where the replay buffer is full, and switches the sending slot, `lkinj` arms an injection and `lkstat` reports. The port seals what it owes under a count that
rises by one; a flit that opens in order is accepted once, one that does not open is dropped, counted and NAKed; an
acknowledged flit leaves the replay buffer; a lost port holds no key. The packet encodings, the order of the salt and the
handling of acknowledgements are the model's (notes/assumptions/25, 31, 61), and so are which SEQs count as sent (notes/assumptions/61),
the refusal of `lksw` by a slot that has sealed its last marker (notes/assumptions/83), that a flit of TYPE 4 or above stands in the
order of SEQ as a data flit does (notes/assumptions/88), and that training says what lies beyond the port (notes/assumptions/10). -/
def Obligations.Link : Prop :=
  ∀ (s : State) (p : Port), Memory.wf s.mem = true →
    let k := s.port p.val
    let up (i : Instr) (f : State → LinkPort → Prop) : Prop := ∃ t, exec i s = .next t ∧ f t (t.port p.val)
    (∀ (d a : XReg) (i : Fin 2), s.calm → s.isSup = true →
      let va := s.x a
      let q := vaultBase s.myId + va.toNat
      let on := i.val = 1
      let loaded : KeySlot := { key := BitVec.ofNat 256 (s.num q 32), txsalt := BitVec.ofNat 32 (s.num (q + 32) 4),
                                rxsalt := BitVec.ofNat 32 (s.num (q + 36) 4), rxlast := 0, loaded := true, due := false, spent := false }
      (va.toNat % 64 = 0 → inSystemArea va.toNat 64 = true → s.touchable va (s.pkg * 2 ^ 43 + q) 64 true = .ok () →
        s.bytes (q + 40) 24 = List.replicate 24 0 →
        (k.txs = decide on ∨ k.rxs = decide on ∨ k.swp = true → SetsX (.lkey d a i p) s d 1) ∧
        (k.txs ≠ decide on → k.rxs ≠ decide on → k.swp = false → up (.lkey d a i p) fun t e => SameBytes s t ∧ t.x d = 0 ∧
          t.me.pc = s.me.pc + 4 ∧
          e = { k with lkc := k.lkc.set i.val 0, keys := k.keys.set i.val loaded })) ∧
      ((k.key (!k.txs)).loaded = false ∨ k.swp = true ∨ (k.key k.txs).spent = true → SetsX (.lksw d p) s d 1) ∧
      ((k.key (!k.txs)).loaded = true → k.swp = false → (k.key k.txs).spent = false → 512 ≤ k.replay.length →
        exec (.lksw d p) s = .next (s.modMe fun t => { t with state := .stalled, wait := some (.replayRoom p), stalls := [] })) ∧
      ((k.key (!k.txs)).loaded = true → k.swp = false → (k.key k.txs).spent = false → k.replay.length < 512 → up (.lksw d p) fun t e => t.x d = 0 ∧ t.me.pc = s.me.pc + 4 ∧ e.txs = !k.txs ∧
        e.swp = true ∧ e.next = k.next + 1 ∧ e.replay = k.replay ++ [{ kind := 2, seq := k.next, payload := List.replicate 224 0 }]) ∧
      up (.lkinj a p) (fun t e => t.me.pc = s.me.pc + 4 ∧ e = { k with
        inject := some ((s.x a).setWidth 32, let seq : BitVec 32 := (s.x a).setWidth 32
          if k.wrapped then decide ((seq - k.next).toNat < 2 ^ 31) else decide (k.next.toNat ≤ seq.toNat)) }) ∧
      SetsX (.lkstat d p) s d (BitVec.ofNat 64 (k.txs.toNat + 2 * k.rxs.toNat + 4 * k.swp.toNat + 8 * k.keys[0].loaded.toNat +
        16 * k.keys[1].loaded.toNat + 32 * k.up.toNat + 2 ^ 8 * k.inject.isSome.toNat + 2 ^ 16 * (k.replay.length % 1024)))) ∧
    (k.up = true → (k.key k.txs).loaded = true → k.count k.txs < 2 ^ 48 - 2 →
      let sealed (e : LinkPort) : Prop := e.count k.txs = k.count k.txs + 1 ∧ e.wire.length = k.wire.length + 1 ∧ e.owed = none
      (k.nak = true → up (.flitSeal p) fun _ e => sealed e ∧ e.nak = false ∧ e.replay = k.replay ∧ e.txq = k.txq) ∧
      (∀ f rest, k.nak = false → k.again = f :: rest → up (.flitSeal p) fun _ e =>
        sealed e ∧ e.again = rest ∧ e.lkrt = k.lkrt + 1 ∧ e.replay = k.replay) ∧
      (∀ g rest, k.nak = false → k.again = [] → k.txq = g :: rest → k.replay.length < 512 → up (.flitSeal p) fun _ e =>
        sealed e ∧ e.txq = rest ∧ e.next = k.next + 1 ∧
        e.replay = k.replay ++ [{ kind := 0, seq := k.next, payload := s.packetBytes g }]) ∧
      (∀ at_, k.owed = some at_ → at_.toNat + 2000 ≤ s.time.toNat → k.count k.txs < k.lkth.toNat →
        up (.linkAckTimeout p) fun _ e => sealed e ∧ e.replay = k.replay ∧ e.next = k.next)) ∧
    (∀ f : List Byte, k.up = true →
      let kind := (f.headD 0).toNat
      let fails (i : Instr) : Prop := k.openFlit f = none → up i fun t e => SameBytes s t ∧ e.lkaf = k.lkaf + 1 ∧ e.nak = true ∧ e.expect = k.expect
      let left (ack : BitVec 32) : List Flit := k.replay.filter fun e => decide ((e.seq - ack).toNat < 2 ^ 31)
      (kind = 0 ∨ 4 ≤ kind → fails (.linkDataFlit p f)) ∧ (kind = 2 → fails (.linkMarkerFlit p f)) ∧
      (kind = 1 → fails (.linkAckFlit p f)) ∧ (kind = 3 → fails (.linkNakFlit p f)) ∧
      ∀ r, k.openFlit f = some r →
        (kind = 0 ∨ 4 ≤ kind → r.seq = k.expect → up (.linkDataFlit p f) fun _ e => e.expect = k.expect + 1 ∧
          (e.key r.key).rxlast = BitVec.ofNat 48 r.inv ∧ e.failed = 0) ∧
        (kind = 0 ∨ 4 ≤ kind → r.seq ≠ k.expect → exec (.linkDataFlit p f) s = .next s) ∧
        (kind = 2 → r.seq = k.expect → up (.linkMarkerFlit p f) fun _ e => e.rxs = !k.rxs ∧ e.expect = k.expect + 1 ∧
          (e.key r.key).rxlast = BitVec.ofNat 48 r.inv) ∧
        (kind = 1 → up (.linkAckFlit p f) fun _ e => e.replay = left r.ack ∧ e.expect = k.expect ∧
          (e.key r.key).rxlast = BitVec.ofNat 48 r.inv) ∧
        (kind = 3 → up (.linkNakFlit p f) fun _ e => e.again = left r.ack ∧ e.replay = left r.ack ∧ e.expect = k.expect)) ∧
    (∀ beyond, k.up = false → s.boot.recovery = false → up (.linkTraining { port := p, beyond }) fun _ e =>
      e = { k with next := 0, wrapped := false, expect := 0, up := true, beyond }) ∧
    (k.up = true → up (.linkLoss p) fun t e => e.up = false ∧ e.replay = [] ∧ (∀ i : Bool, (e.key i).loaded = false ∧ (e.key i).key = 0) ∧
      ∃ r ∈ (t.core (128 * (p.val % 8))).records, r.cause = .link ∧ r.async = true ∧ r.slot = 15)

/-! ### What the cores do between instructions -/

/-- 08_slots R134, R139, R140, R143, R149, R155, 04_registers R78-R80, 07_vector R117, 23_system R357: a waiting slot wakes when its
condition holds, as does one that is stalled on flags or on the replay buffer, and a slot in TRANSIT leaves it; a timer past its deadline is a boundary trap INTR of the lowest-numbered slot that qualifies, or a core event; a
population that is silent for its window is reported; a store of BLOCK unlocks the banks it names no more, whose stalled
slots go on, and a lock ends after 256 cycles; XINV drops the translations it names; a stopped supervisor restarts. The
address of the firmware entry is the model's choice (notes/assumptions/2), named and not valued here; so are LAST and the window of a
population that occupies no slot (notes/assumptions/44), TS_WRITE by its operands (notes/assumptions/46), what a translation cache
holds and drops (notes/assumptions/33), that WAIT_WAKE ends a TRANSIT (notes/assumptions/85), and that the timer passes over a slot in
which an INTR is due (notes/assumptions/90). -/
def Obligations.SlotEvents : Prop :=
  ∀ (s : State) (c : CoreId) (l : SlotId),
    let p : Place := { core := c, slot := l }
    let k := s.core c.val
    let q := s.slotAt p
    let now := (s.die (dieOf c.val)).tsc
    let core (i : Instr) (f : Core → Prop) : Prop := ∃ t, exec i s = .next t ∧ SameBytes s t ∧ f (t.core c.val)
    let event (cause : Cause) (v : Word) : TrapRec :=
      { pop := 0, cause, sub := 0, slot := 15, async := true, tval := v, tpc := 0, tts := 0 }
    let quiet (cause : Cause) : Prop := ∀ r ∈ k.records, ¬ (r.cause = cause ∧ r.async = true ∧ r.slot = 15)
    (∀ w, q.state = .wait → q.wait = some w → q.pending = none → q.antiOut = 0 → s.holds p w = true →
      core (.waitWake c l) fun j => j = k.modSlot l fun r => { r with state := .ready, wait := none }) ∧
    (∀ w, q.state = .stalled → q.wait = some w → ((∃ o, w = .flags o) ∨ ∃ o, w = .replayRoom o) → q.pending = none → q.antiOut = 0 →
      s.holds p w = true → core (.waitWake c l) fun j => j = k.modSlot l fun r => { r with state := .ready, wait := none }) ∧
    (∀ st, q.state = .transit → q.into = some st → q.seen.toNat ≤ now.toNat → k.relocIn = false → q.calm →
      (st = .held → (s.die (dieOf c.val)).gvt.toNat ≤ q.lvt.toNat) →
      core (.waitWake c l) fun j => j = k.modSlot l fun r => { r with state := st, into := none }) ∧
    (let can (j : SlotId) : Prop := j.val < 15 ∧ k.slots[j.val].intr = none ∧
       (k.slots[j.val].state = .ready ∨ k.slots[j.val].state = .stalled ∨ (k.slots[j.val].state = .wait ∧ k.slots[j.val].mint.isSome))
     k.timer ≠ 0 → k.timer.toNat ≤ now.toNat →
      (can l → (∀ j : SlotId, j.val < l.val → ¬ can j) →
        (q.state = .ready → q.released = false → s.flagsOut p = false → q.mint = none → core (.timerDeadline c) fun j =>
          j.timer = 0 ∧ j.slots[l.val].state = .parked ∧ j.records = k.records ++ [{ pop := q.popid, cause := .intr, sub := 0, slot := l, async := true, tval := 0, tpc := q.pc, tts := q.ts }]) ∧
        (q.state ≠ .ready ∨ q.released = true ∨ s.flagsOut p = true → core (.timerDeadline c) fun j =>
          j = { k.modSlot l fun r => { r with intr := some 0 } with timer := 0 })) ∧
      ((∀ j, ¬ can j) → quiet .intr → core (.timerDeadline c) fun j =>
        j = { k with timer := 0, records := k.records ++ [event .intr 0] })) ∧
    (∀ i : Fin 15, let e := k.watch[i.val]
      s.still = false → e.v = true → e.win ≠ 0 →
      (s.occupied e.pop = true → 1000 * e.win.toNat ≤ now.toNat - e.last.toNat - e.idle.toNat → quiet .watchdog →
        core (.watchdog c i) fun j => j = { k with
          watch := k.watch.set i.val { e with last := now, win := k.wdwin, idle := 0 }, fires := k.fires + 1
          records := k.records ++ [event .watchdog (e.pop.setWidth 64)] }) ∧
      (s.occupied e.pop = false ∨ now.toNat - e.last.toNat - e.idle.toNat < 1000 * e.win.toNat → exec (.watchdog c i) s = .next s)) ∧
    (∀ m : BitVec 16,
      (core (.bankLockStore c m) fun j => j.lock = m) ∧
      ∀ b, q.wait = some (.bank c b) → k.lock.getLsbD b.toNat = true → m.getLsbD b.toNat = false →
        core (.bankLockStore c m) fun j => j.slots[l.val] = { q with
          state := .ready, wait := none
          stalls := q.stalls.map (Stall.release c.val (k.lock &&& ~~~m)) ++ [{ core := c, bank := b, freed := true }] }) ∧
    (let late (b : Nat) : Bool := k.lock.getLsbD b && decide (SMap.get k.cycle k.lockAt b + 256 ≤ k.cycle)
     (∃ b < 16, late b = true) → quiet .locktime → ∃ m : BitVec 16, (∀ b < 16, m.getLsbD b = late b) ∧
       core (.bankLockTimeout c) fun j => j.lock = k.lock &&& ~~~ m ∧ j.records = k.records ++ [event .locktime (m.setWidth 64)]) ∧
    (k.fwdV = true → k.fwdAt.toNat + 1000000 ≤ now.toNat → core (.fwdExpiry c) fun j => j = { k with fwdV := false }) ∧
    (∀ opt : Bool, (q.state ≠ .ready ∨ q.pending ≠ none ∨ q.antiOut ≠ 0 → core (.tsWrite c l opt) fun j => j.slots[l.val] = q) ∧
      (q.state = .ready → q.pending = none → q.antiOut = 0 → ¬ (q.opt = true ∧ q.evo = true) → q.prog ≠ .ended →
        core (.tsWrite c l opt) fun j => j.slots[l.val] = { q with opt })) ∧
    (let final := decide (q.lvt.toNat < (s.die (dieOf c.val)).gvt.toNat)
     q.state = .ready → q.pending = none → q.antiOut = 0 → q.opt = true → q.evo = true → core (.tsWrite c l false) fun j => j.slots[l.val] =
       { q with evo := false, range := none, opt := !final, prog := if final then q.prog else .ended }) ∧
    (k.slots[15].state = .stopped → k.restop = false → k.current = none → ∃ t, exec (.supervisorRestart c) s = .next t ∧
      let j := t.core c.val
      SameBytes s t ∧ j.slots[15].state = .ready ∧ j.slots[15].pc = Config.firmwareEntry ∧ j.trap.tcause = 0 ∧ j.hidden = none ∧
        (∀ i : SlotId, i.val < 15 → j.slots[i.val].reserved = false) ∧ j.records = k.records ∧ bits t.events[2].toNat 63 1 = 1 ∧ t.events[2].toNat % 2 ^ 56 = c.val) ∧
    ∀ (d : DieId) (v : Word), let k := s.die d.val
      (k.xbusy = false → v.toNat % 8 < 4 → ∃ t, exec (.xinvStart d v) s = .next t ∧ t.die d.val =
        { k with xscope := BitVec.ofNat 3 v.toNat, xpart := Fin.ofNat 8 (v.toNat / 16), xpage := BitVec.ofNat 45 (v.toNat / 2 ^ 12), xbusy := true }) ∧
      (k.xbusy = true → ∃ t, exec (.xinvDone d) s = .next t ∧ (t.die d.val).xbusy = false ∧
        ∀ e, e ∈ (t.die d.val).cache ↔ e ∈ k.cache ∧ ¬ (k.xscope = 0 ∨ (e.part = k.xpart ∧
          (k.xscope = 1 ∨ (k.xscope = 2 ∧ ((e.base ≤ k.xpage.toNat * 4096 ∧ k.xpage.toNat * 4096 < e.base + e.size) ∨
            (e.range = true ∧ (rangeMap (s.rangeEntry e.part.val e.at_).toList (k.xpage.toNat * 4096)).isSome = true))) ∨
           (3 ≤ k.xscope.toNat ∧ e.range = true)))))

/-- 08_slots R134, R149-R151, R153, 09_memories R162, 18_tables R303: a store of ROT starts a rotation and one of RELOC a relocation, or is
refused, and either waits while the one before it is under way. A slot that is to rotate, from the first cycle that it owns after
the store, leaves its context in the frame of its partition and is in TRANSIT, and then takes the one of the incoming frame; a
protected context is parked first. In a relocation the slots of the core enter TRANSIT together, and then its threads, its partition
map and tables and its vault are on the target, which answers for the core from then on, while its buffered stores stay where they were
made. A target that exists no longer refuses the relocation (23_system R361). What a rotation waits for, what a relocation
moves, that a HELD protected thread is parked and that a store of RELOC waits are the model's (notes/assumptions/28, 29, 78, 79). -/
def Obligations.RotationAndRelocation : Prop :=
  ∀ (s : State) (c : CoreId) (l : SlotId), Memory.wf s.mem = true → l.val < 15 →
    let p : Place := { core := c, slot := l }
    let k := s.core c.val
    let q := s.slotAt p
    (k.absent = true → (∀ v, exec (.rotStore c v) s = .next s ∧ exec (.relocStore c v) s = .next s) ∧ exec (.slotRotation c l) s = .next s) ∧
    (∀ v : Word, (k.rotLeft ≠ 0 → exec (.rotStore c v) s = .next s) ∧
      (k.rotLeft = 0 → k.absent = false → ∃ t, exec (.rotStore c v) s = .next t ∧ t.core c.val = { k with
        rotAt := k.cycle, rotSlots := BitVec.ofNat 15 v.toNat, rotPart := Fin.ofNat 8 (v.toNat / 2 ^ 16), rotLeft := BitVec.ofNat 15 v.toNat })) ∧
    (∀ (v : Word) (to_ : Nat), v.toNat % 1024 = to_ →
      let no := to_ = c.val ∨ to_ / 128 ≠ c.val / 128 ∨ (s.core to_).absent = true ∨
        (∃ i : SlotId, i.val < 15 ∧ ((s.core to_).slots[i.val].state ≠ .free ∨ (s.core to_).slots[i.val].reserved = true)) ∨ ∃ e ∈ (s.core to_).mail, e.2 ≠ []
      (k.relocBusy = true → exec (.relocStore c v) s = .next s) ∧
      (k.relocBusy = false → k.absent = false → no → ∃ t, exec (.relocStore c v) s = .next t ∧ t.core c.val = { k with relocTo := BitVec.ofNat 10 to_, relocErr := true }) ∧
      (k.relocBusy = false → k.absent = false → ¬ no → ∃ t, exec (.relocStore c v) s = .next t ∧
        t.core c.val = { k with relocTo := BitVec.ofNat 10 to_, relocErr := false, relocBusy := true })) ∧
    (k.absent = false → k.rotLeft.getLsbD l.val = true →
      let turns (f : State → Prop) : Prop := ∃ t, exec (.slotRotation c l) s = .next t ∧ f t
      let w (o n : Nat) := s.num (s.frameAt k.rotPart p + o) n
      let taken (t : State) : Prop := SameBytes s t ∧ (t.core c.val).partOf l = some k.rotPart ∧
        (t.core c.val).rotLeft = k.rotLeft &&& ~~~ BitVec.ofNat 15 (2 ^ l.val)
      (k.rotFrom l < k.cycle → q.atBoundary = true → q.intr = none → s.stopLocked p = false → q.mint = none →
        (∀ out, q.reserved = false → q.prot = false → q.state ≠ .free → q.state ≠ .done → q.v.length ≤ 64 → k.partOf l = some out → turns fun t =>
          let f := s.frameAt out p
          BytesBut (span f 0x2100) s t ∧ (∀ i : XReg, t.num (f + 8 * i.val) 8 = q.x[i.val].toNat) ∧ t.num (f + 0x80) 8 = q.pc.toNat ∧
            t.num (f + 0x88) 8 = q.ts.toNat ∧ t.num (f + 0xD0) 8 = q.p.toNat + 2 ^ 8 * q.v.length + 2 ^ 16 * q.state.code + 2 ^ 63 ∧
            t.num (f + 0xD8) 8 = q.popid.toNat + 2 ^ 32 * q.thidx.toNat ∧
            (∀ i < q.v.length, some (BitVec.ofNat 1024 (t.num (f + 0x100 + 128 * i) 128)) = q.v[i]?) ∧
            t.slotAt p = { Slot.empty with state := .transit, evicting := true } ∧ (t.core c.val).rotLeft = k.rotLeft) ∧
        (∀ out, q.reserved = false → q.state = .free ∨ q.state = .done → k.partOf l = some out → turns fun t =>
          let f := s.frameAt out p + 0xD0
          BytesBut (span f 8) s t ∧ t.num f 8 = s.num f 8 % 2 ^ 63 ∧ t.slotAt p = { Slot.empty with state := .transit, evicting := true }) ∧
        (q.reserved = false → q.state = .free → k.partOf l = none → turns fun t =>
          SameBytes s t ∧ t.slotAt p = { Slot.empty with state := .transit, evicting := true }) ∧
        (q.reserved = true → q.prot = false → exec (.slotRotation c l) s = .next s) ∧
        (q.prot = true → q.state ≠ .free → q.state ≠ .done → s.flagsOut p = false → turns fun t => SameBytes s t ∧
          (t.slotAt p).state = .parked ∧ (t.slotAt p).evicting = true ∧ (t.core c.val).rotLeft = k.rotLeft ∧
          (t.core c.val).records = k.records ++
            [{ pop := q.popid, cause := .intr, sub := 1, slot := l, async := true, tval := 0, tpc := q.pc, tts := q.ts }])) ∧
      (q.state = .transit → q.evicting = true → q.reserved = false →
        ((w 0xD0 8).testBit 63 = false → turns fun t => taken t ∧ t.slotAt p = Slot.empty) ∧
        ((w 0xD0 8).testBit 63 = true → k.freeVectors < bits (w 0xD0 8) 8 7 → exec (.slotRotation c l) s = .next s) ∧
        ((w 0xD0 8).testBit 63 = true → bits (w 0xD0 8) 8 7 ≤ k.freeVectors → turns fun t => taken t ∧
          let r := t.slotAt p
          r.state = .transit ∧ (∀ i : XReg, r.x[i.val].toNat = w (8 * i.val) 8) ∧ r.pc.toNat = w 0x80 8 / 4 * 4 ∧
            r.into = some (if bits (w 0xD0 8) 16 3 = SlotState.held.code then .held else .ready) ∧
            r.popid.toNat = w 0xD8 4 ∧ r.thidx.toNat = w 0xDC 4 ∧ r.opt = (w 0x88 8).testBit 0 ∧ r.v.length = bits (w 0xD0 8) 8 7 ∧
            ∀ i < r.v.length, r.v[i]? = some (BitVec.ofNat 1024 (w (0x100 + 128 * i) 128))))) ∧
    ∀ to_ : CoreId, to_ ≠ c → k.relocBusy = true → k.relocTo.toNat = to_.val →
      ((s.core to_.val).absent = true → ∃ t, exec (.relocationComplete c) s = .next t ∧ SameBytes s t ∧
        t.core c.val = { k with relocErr := true, relocBusy := false, relocIn := false }) ∧
      ((s.core to_.val).absent = false →
      (k.relocIn = false → s.canDepart c to_ = true → (∀ i : SlotId, i.val < 15 → k.slots[i.val].mint = none) →
        ∃ t, exec (.relocationComplete c) s = .next t ∧ SameBytes s t ∧ (t.core c.val).relocIn = true ∧
          (t.slotAt { core := to_, slot := l }).state = .transit ∧ (t.slotAt { core := to_, slot := l }).into = none ∧
          let r := t.slotAt p
          r.state = .transit ∧ r.into = some (if q.state = .wait then .ready else q.state) ∧ r.monitor = none ∧
            r.x = q.x ∧ r.pc = q.pc ∧ r.v = q.v ∧ r.p = q.p ∧ r.m = q.m ∧ r.popid = q.popid ∧ r.ts = q.ts) ∧
      (k.relocIn = true → ∃ t, exec (.relocationComplete c) s = .next t ∧
        (t.core c.val).fwdV = true ∧ (t.core c.val).fwdTo = k.relocTo ∧ (t.core c.val).relocBusy = false ∧ (t.core c.val).partmap = 0 ∧
        (let j := t.core to_.val
         j.partmap = k.partmap ∧ j.ttb = k.ttb ∧ j.mbt = k.mbt ∧ j.ulogb = k.ulogb ∧ j.ulogl = k.ulogl ∧ j.slogb = k.slogb ∧ j.slogl = k.slogl ∧
           j.buffer.map (fun e => { e with left := none }) = (s.core to_.val).buffer.map (fun e => { e with left := none }) ∧
           j.spill.map (fun e => (e.1, { e.2 with left := none })) = (s.core to_.val).spill.map fun e => (e.1, { e.2 with left := none })) ∧
        (∀ e ∈ k.buffer, e.inbound = false → e.left = none → q.into ≠ some .free → e.who = { pop := q.popid, thidx := q.thidx, slot := l } →
          { e with left := some to_ } ∈ (t.core c.val).buffer) ∧
        t.slotAt p = { Slot.empty with reserved := q.reserved } ∧
        (let r := t.slotAt { core := to_, slot := l }
         r.x = q.x ∧ r.pc = q.pc ∧ r.v = q.v ∧ r.p = q.p ∧ r.m = q.m ∧ r.popid = q.popid ∧ r.ts = q.ts ∧
           r.state = match q.into with | some .free => .free | some .done => .done | _ => q.state) ∧
        let kept (b : Nat) : Prop := ¬ span (vaultBase to_.val + k.mbt.toNat % 2 ^ 24 / 4096 * 4096) 1024 b ∧
          ∀ e ∈ (s.core to_.val).spill, ¬ span (s.spillAt to_.val e.1) 96 b
        (∀ o, 0x10000 ≤ o → o < 2 ^ 24 → kept (vaultBase to_.val + o) →
          Memory.get t.mem (vaultBase to_.val + o) = Memory.get s.mem (vaultBase c.val + o)) ∧
        ∀ q ∈ windowsOf to_.val, (∀ b, span (q + 0x7C0) 64 b → kept b) →
          t.num (q + 8 * 248) 8 = to_.val ∧ t.num (q + 8 * 250) 8 = dieOf to_.val ∧ t.num (q + 8 * 254) 8 = s.pkg * 2 ^ 43 + vaultBase to_.val))

/-- 09_memories R172, 10_access R187, 08_slots R138: a phase ends once every member has arrived, one of them by `phase`: every
buffered store of the population is applied, and no entry of it is left. -/
def Clauses.PhaseEnds : Prop :=
  ∀ (s : State) (p : Pop), Memory.wf s.mem = true → s.pop? p.id = some p → s.withheld = [] →
    (∀ e ∈ s.threads p, e.1 ∈ p.arrived ∨ e.2.state = .held ∨ e.2.opt = true) → (∃ e ∈ s.threads p, e.1 ∈ p.arrived) →
    let mine (e : Entry) : Prop := ∃ c ∈ s.cores, e.who.pop = p.id ∧ (e ∈ c.2.buffer ∨ ∃ n, (n, e) ∈ c.2.spill)
    let covers (e : Entry) (r : Nat) : Prop := ∃ i < 64, r = e.da % 2 ^ 43 + i ∧ e.mask.getLsbD i = true
    ∃ t, exec (.phaseComplete p.id) s = .next t ∧ t.pop? p.id = some { p with phase := p.phase + 1, arrived := [] } ∧
      (∀ c, ∀ e ∈ (t.core c).buffer ++ (t.core c).spill.map Prod.snd, e.who.pop ≠ p.id) ∧
      (∀ r, (∀ e, mine e → ¬ covers e r) → Memory.get t.mem r = Memory.get s.mem r) ∧
      ∀ e i, mine e → i < 64 → e.mask.getLsbD i = true → e.da % 64 = 0 → s.plain (e.da % 2 ^ 43) 64 →
        (∀ e' r, mine e' → covers e' r → s.offTables r 1) → (∀ e', mine e' → covers e' (e.da % 2 ^ 43 + i) → e' = e) →
        Memory.get t.mem (e.da % 2 ^ 43 + i) = e.data.extractLsb' (8 * i) 8

/-- 09_memories R172, 10_access R187: how a phase is reached and how it ends. That a phase needs one arrival by `phase` and
that an arrival outlives a trap are the model's readings (notes/assumptions/45, 64). -/
def Obligations.Phases : Prop := Clauses.PhaseArrivesThenCompletes ∧ Clauses.PhaseEnds

/-! ### The fabric and the front ports -/

/-- 09_memories R159, R164, R175, 01_device R18, 10_access R181, 05_numbers R98: an inbound write to memory that its partition
may write commits its bytes and is acknowledged; one to a shared range of a running population is held for its next phase,
and one that no record can hold is withheld; one to a mailbox window is a message; another is refused and changes nothing.
A posted atomic applies its operation, and is refused on a poisoned word. An answer ends what waits for it: an
acknowledgement brings a float atomic's flags, to the thread or to its context while it is out of its slot, a refusal is FABERR. In
recovery nothing reaches the package (23_system R354). A write in several packets is answered once, by its last one. The core that holds
a line of a shared range, the port that an answer leaves by and the marks of a packet are the model's choice (notes/assumptions/26, 10,
25). -/
def Obligations.FabricEvents : Prop :=
  ∀ s : State, Memory.wf s.mem = true →
    (∀ w : InWrite, w.front = false →
      let q := w.addr % 2 ^ 43
      let n := w.data.length
      let from_ := ∀ e ∈ s.withheld, ¬ (e.1.srcPkg = w.srcPkg ∧ e.1.srcCore = w.srcCore ∧ e.1.front = w.front)
      let does (f : State → Prop) : Prop := ∃ t, exec (.inboundFabricWrite w) s = .next t ∧ f t
      let acks (t : State) : Prop := (w.tag.getLsbD 61 = true → t.ports = s.ports) ∧
        (w.tag.getLsbD 61 = false → s.isBroken w.srcPkg w.tag = false → answers s t w.srcPkg 2 w.tag)
      (s.boot.recovery = true → exec (.inboundFabricWrite w) s = .next s) ∧
      (s.boot.recovery = false →
      (s.ordinary w → (q / 64 = (q + n - 1) / 64 ∨ s.offTables q n) →
        does fun t => t.bytes q n = w.data ∧ BytesBut (span q n) s t ∧ acks t) ∧
      (from_ → 0 < n → inMbox q = false → inCtl q = false → s.inboundOk w.part q n = false →
        does fun t => SameBytes s t ∧ answers s t w.srcPkg 3 w.tag) ∧
      (from_ → 0 < n → q / 64 = (q + n - 1) / 64 → inMbox q = false → s.plain q n → s.inboundOk w.part q n = true →
        (∀ e ∈ s.cores, ∀ i : ZoneId, let z := e.2.zones[i.val]; z.v = true → q + n ≤ z.base ∨ z.base + z.size ≤ q) →
        ∀ p, s.sharedBy (q / 64 * 64) = some p →
          let c := if inVault q then vaultCore q else p.home.val
          (n = 8 → q % 8 = 0 → s.ticketWords.contains q = true → does fun t => t.bytes q n = w.data ∧ BytesBut (span q n) s t ∧ acks t) ∧
          ((∀ i, span q n i → s.ticketWords.contains (i / 8 * 8) = false) →
          (∀ r, (s.core c).spillFree = some r → does fun t =>
            BytesBut (fun b => span (s.spillAt c r) 96 b ∨ span (s.spillAt c (r / 42 * 42) + 4032) 64 b) s t ∧ acks t ∧
            ∃ e, (t.core c).spill = (s.core c).spill ++ [(r, e)] ∧ e.who.pop = p.id ∧ e.inbound = true ∧ e.da = s.pkg * 2 ^ 43 + q / 64 * 64 ∧
              ∀ i : Fin n, e.mask.getLsbD (q % 64 + i.val) = true ∧ e.data.extractLsb' (8 * (q % 64 + i.val)) 8 = w.data[i.val]) ∧
          ((s.core c).spillFree = none → does fun t => t = { s with withheld := s.withheld ++ [(w, writeAck w)] }))) ∧
      (from_ → inMbox q = true → n = 64 → q % 64 = 0 → does fun t => SameBytes s t ∧ ∃ m : Msg,
        t.net = s.net ++ [.msg (Fin.ofNat 1024 ((q - Config.mboxBase) / 1024)) (Fin.ofNat 16 ((q - Config.mboxBase) / 64)) false false m] ∧
        m.h0.toNat = ofBytes (w.data.take 8) ∧ m.h1.toNat = ofBytes ((w.data.drop 8).take 8) ∧ m.part = w.part ∧ m.ack = writeAck w))) ∧
    (∀ a : InAtomic,
      let q := a.addr % 2 ^ 43
      let size := if a.fn.toNat < 16 then 4 else 8
      let n := 8 * size
      (s.boot.recovery = true → exec (.postedAtomic a) s = .next s) ∧
      (s.boot.recovery = false → s.plain q (if a.vec then 32 else size) →
      (a.vec = false → a.fn.toNat % 16 < 9 → q % size = 0 → s.inboundOk a.part q size = true →
        (s.poisonedAt q size = none → s.lostAt q size = none → ∃ t, exec (.postedAtomic a) s = .next t ∧
          t.num q size = (amoResult n (BitVec.ofNat n (s.num q size)) (BitVec.ofNat n (ofBytes a.data)) (a.fn.toNat % 16)).toNat ∧
          BytesBut (span q size) s t ∧ answers s t a.srcPkg 2 a.tag) ∧
        ((s.poisonedAt q size).isSome → ∃ t, exec (.postedAtomic a) s = .next t ∧ SameBytes s t ∧ answers s t a.srcPkg 3 a.tag)) ∧
      (a.vec = true → a.fn.toNat < 12 → q % 32 = 0 → s.inboundOk a.part q 32 = true → s.poisonedAt q 32 = none → s.lostAt q 32 = none →
        ∃ t, exec (.postedAtomic a) s = .next t ∧ BytesBut (span q 32) s t ∧
          let o := VamoOp.ofCode a.fn.toNat
          let w := 8 * o.size
          let lane (i : Nat) := o.apply (Mode.ofFrm a.mode.toNat) (bits (s.num q 32) (w * i) w) (bits (ofBytes a.data) (w * i) w)
          let flags : Flags := (List.range (32 / o.size)).foldl (fun fl i => fl ||| (lane i).2) 0
          answers s t a.srcPkg 2 a.tag (if o.isFloat then [BitVec.ofNat 8 flags.toNat] else []) ∧
            ∀ i < 32 / o.size, t.num (q + o.size * i) o.size = (lane i).1 % 2 ^ w))) ∧
    ∀ (tag : Word) (o : Outstanding), s.out.find? (fun o => bareTag o.tag == bareTag tag) = some o → o.anti = false →
      let q := s.slotAt o.place
      let here := q.popid = o.pop ∧ q.state ≠ .free ∧ o.gone = false
      let rest := s.out.eraseP fun o => bareTag o.tag == bareTag tag
      (∀ fl, ∃ t, exec (.fabricAck tag fl) s = .next t ∧ SameBytes s t ∧ t.out = rest ∧
        (here → q.intr = none → t.slotAt o.place = { q with fflags := if o.float then q.fflags ||| fl else q.fflags }) ∧
        (¬ (q.popid = o.pop ∧ q.state ≠ .free) → o.gone = false → o.float = true → ∀ p, s.pop? o.pop = some p →
          ∃ p', t.pop? o.pop = some p' ∧ p'.away = p.away.map fun a =>
            if a.place = o.place then { a with slot := { a.slot with fflags := a.slot.fflags ||| fl } } else a)) ∧
      (o.mint = none → ∃ t, exec (.fabricRefusal tag) s = .next t ∧ SameBytes s t ∧ t.out = rest ∧
        (here → t.slotAt o.place = { q with refused := q.refused + 1 }) ∧
        (∀ p, s.pop? o.pop = some p → ∃ p', t.pop? o.pop = some p' ∧ p'.faberr = true ∧ p'.fails = p.fails + 1) ∧
        ((∀ r ∈ (s.core o.place.core.val).records, ¬ (r.cause = .faberr ∧ r.async = true ∧ r.slot = 15)) →
          (t.core o.place.core.val).records = (s.core o.place.core.val).records ++
            [{ pop := 0, cause := .faberr, sub := 0, slot := 15, async := true, tval := o.addr, tpc := 0, tts := 0 }]))

/-- 10_access R188, R189, 05_numbers R99: a contribution that fits the cell's header is counted in the round of its unit; a
second one of its source is held, and one that does not fit is refused. A complete round is applied at the home port as
one atomic of the contributions merged in ascending package id, DONE rises, and each is acknowledged; a poisoned unit
stays, and each is refused. In recovery no contribution counts (23_system R354). The port that an answer leaves by, and that the two
halves of a unit of 4-byte contributions merge each on its own within one round, are the model's choice (notes/assumptions/10, 87). -/
def Obligations.ReductionRounds : Prop :=
  ∀ s : State, Memory.wf s.mem = true →
    (∀ a : InAtomic,
      let q := a.addr % 2 ^ 43
      let cell := Config.redBase + (q - Config.redBase) / 128 * 128
      let size := if a.vec then 32 else if a.fn.toNat < 16 then 4 else 8
      let off := q % (if a.vec then 32 else 8)
      let unit := q - off
      let k : Contribution := { pkg := a.srcPkg, tag := a.tag, core := a.srcCore, off, data := a.data }
      let fits (h : Nat) : Prop := bits h 63 1 = 1 ∧ 1 ≤ bits h 0 13 ∧ bits h 0 13 ≤ 4608 ∧ 32 ≤ q % 128 ∧ q % size = 0 ∧
        bits h 16 5 = a.fn.toNat ∧ bits h 24 1 = (if a.vec then 1 else 0) ∧ (if a.vec then a.fn.toNat < 12 else a.fn.toNat % 16 < 8)
      let on (i : Instr) : Prop := inRed q = true →
        (s.rounds.find? (fun r => r.unit == unit) = none →
          (fits (s.num cell 8) → exec i s =
            .next { s with rounds := s.rounds ++ [{ unit, head := s.word cell, given := [k], held := [] }] }) ∧
          (¬ fits (s.num cell 8) → ∃ t, exec i s = .next t ∧ SameBytes s t ∧ t.rounds = s.rounds ∧ answers s t a.srcPkg 3 a.tag)) ∧
        (∀ r, s.rounds = [r] → r.unit = unit → fits r.head.toNat →
          ((∀ g ∈ r.given, g.pkg ≠ a.srcPkg) → r.given.length < bits r.head.toNat 0 13 →
            exec i s = .next { s with rounds := [{ r with given := r.given ++ [k] }] }) ∧
          ((∃ g ∈ r.given, g.pkg = a.srcPkg) → exec i s = .next { s with rounds := [{ r with held := r.held ++ [k] }] }))
      (s.boot.recovery = true → exec (.reductionContribution a) s = .next s) ∧
      (s.boot.recovery = false → on (.reductionContribution a) ∧ on (.postedAtomic a))) ∧
    ∀ (n : Nat) (r : Round) (x y : Contribution), s.rounds[n]? = some r → r.held = [] → bits r.head.toNat 0 13 = 2 →
      r.given = [x, y] ∨ r.given = [y, x] → x.pkg.toNat < y.pkg.toNat →
      inRed r.unit = true → 32 ≤ r.unit % 128 → bits r.head.toNat 24 1 = 0 → r.unit % 8 = 0 →
      let cell := Config.redBase + (r.unit - Config.redBase) / 128 * 128
      let op (a b : BitVec 64) : BitVec 64 := amoResult 64 a b (bits r.head.toNat 16 4)
      let v (c : Contribution) : BitVec 64 := BitVec.ofNat 64 (ofBytes c.data)
      let half (a b : BitVec 32) : BitVec 32 := amoResult 32 a b (bits r.head.toNat 16 4)
      let u (c : Contribution) : BitVec 32 := BitVec.ofNat 32 (ofBytes c.data)
      (s.poisonedAt r.unit 8 = none → bits r.head.toNat 20 1 = 0 → x.off = 0 → y.off = 4 →
        ∃ t, exec (.reductionResultApply n) s = .next t ∧ t.rounds = s.rounds.eraseIdx n ∧
          t.num r.unit 4 = (half (BitVec.ofNat 32 (s.num r.unit 4)) (u x)).toNat ∧
          t.num (r.unit + 4) 4 = (half (BitVec.ofNat 32 (s.num (r.unit + 4) 4)) (u y)).toNat ∧
          t.num (cell + 4) 2 = (s.num (cell + 4) 2 + 1) % 2 ^ 16 ∧ BytesBut (fun b => span r.unit 8 b ∨ span (cell + 4) 2 b) s t) ∧
      (s.poisonedAt r.unit 8 = none → bits r.head.toNat 20 1 = 1 → x.off = 0 → y.off = 0 →
        ∃ t, exec (.reductionResultApply n) s = .next t ∧ t.rounds = s.rounds.eraseIdx n ∧
        t.word r.unit = op (s.word r.unit) (op (v x) (v y)) ∧ t.num (cell + 4) 2 = (s.num (cell + 4) 2 + 1) % 2 ^ 16 ∧
        BytesBut (fun b => span r.unit 8 b ∨ span (cell + 4) 2 b) s t ∧
        ∀ m, s.route x.pkg.toNat = some m → s.route y.pkg.toNat = some m → (t.port m).txq.length = (s.port m).txq.length + 2 ∧ ∀ k ∈ (t.port m).txq.drop (s.port m).txq.length, k.kind = 2) ∧
      ((s.poisonedAt r.unit 8).isSome → ∃ t, exec (.reductionResultApply n) s = .next t ∧ t.rounds = s.rounds.eraseIdx n ∧ SameBytes s t ∧
        ∀ m, s.route x.pkg.toNat = some m → s.route y.pkg.toNat = some m → (t.port m).txq.length = (s.port m).txq.length + 2 ∧ ∀ k ∈ (t.port m).txq.drop (s.port m).txq.length, k.kind = 3)

/-- 14_queues R250, R261-R264: a datagram with a bad checksum or for no enabled queue set is dropped. A request whose header breaks
the layout is answered NAK FORMAT and one of another generation NAK RESET. A WRITE commits its bytes, a RINGPUT writes the
record of its index and notifies the ring, unless it is a duplicate or the ring is full, and a NOTIFY notifies it; each is
answered ACK. A reply ends the retransmission of its datagram, whose place in the transmit queue a waiting one takes (R250), and an ECE echo halves RATE, which rises by 400 in each 100
µs without one; a reply whose header breaks the layout is answered NAK FORMAT. The generation in a reply, and that one that comes is not
compared, are the model's (notes/assumptions/57, 76). -/
def Obligations.KdaEvents : Prop :=
  ∀ s : State, Memory.wf s.mem = true →
    (∀ (g : Datagram) (p : Part),
      let k := s.partition p.val
      let f (i n : Nat) := ofBytes ((g.bytes.drop i).take n)
      let id := BitVec.ofNat 64 (f 8 8)
      let reply (i : Instr) (op code : Nat) (h : State → Prop) : Prop :=
        ∃ t, exec i s = .next t ∧ t.replies = kdaHeader op code k.gen.toNat id g.ce :: s.replies ∧ h t
      let request (i : Instr) (op : Nat) (len : Nat → Prop) (good : Prop) : Prop :=
        (s.kdaPart g = none → exec i s = .next s) ∧
        (s.kdaPart g = some p → f 1 1 = op →
          (kdaWhole g = false → reply i 5 4 fun t => t.mem = s.mem) ∧
          (kdaWhole g = true → f 4 4 ≠ k.gen.toNat → reply i 5 1 fun t => t.mem = s.mem) ∧
          (f 0 1 = 1 → f 2 2 = 0 → len (f 24 4) → g.bytes.length = 32 + f 24 4 → f 28 4 = 0 → f 4 4 = k.gen.toNat → good))
      let r : RingId := Fin.ofNat 1024 (f 16 8)
      let ring := s.ring r.val
      let i := f 32 8
      let slot := ring.recordAt i
      request (.kdaWrite g) 1 (fun n => 8 ≤ n ∧ n ≤ 8192 ∧ n % 8 = 0)
        (∀ w : InWrite, w.addr = f 16 8 → w.addr < 2 ^ 43 → w.data = g.bytes.drop 32 → w.part = p → w.front = true → w.isEnd = false →
          w.srcPkg.toNat = s.pkg % 2 ^ 13 → w.srcCore = 0 → s.offTables w.addr w.data.length →
          s.ordinary w → reply (.kdaWrite g) 4 0 fun t => t.bytes w.addr w.data.length = w.data ∧ BytesBut (span w.addr w.data.length) s t) ∧
      request (.kdaRingput g) 2 (fun n => n = 72)
        ((ring.part ≠ p ∨ ring.ext = false ∨ ring.v = false → reply (.kdaRingput g) 5 3 fun t => t.mem = s.mem) ∧
         (ring.part = p → ring.ext = true → ring.v = true →
          let tagged := bits (s.num slot 8) 16 48 = i % 2 ^ 48
          (i < ring.rd.toNat ∨ tagged → reply (.kdaRingput g) 4 0 fun t => t.mem = s.mem ∧ t.rings = s.rings) ∧
          (¬ tagged → ring.rd.toNat + 2 ^ ring.log.toNat ≤ i → reply (.kdaRingput g) 5 2 fun t => t.mem = s.mem) ∧
          (¬ tagged → ring.rd.toNat ≤ i → i < ring.rd.toNat + 2 ^ ring.log.toNat → reply (.kdaRingput g) 4 0 fun t =>
            t.bytes slot 64 = g.bytes.drop 40 ∧ BytesBut (span slot 64) s t ∧ (t.ring r.val).lrn = s.time))) ∧
      request (.kdaNotify g) 3 (fun n => n = 0)
        ((ring.part ≠ p → reply (.kdaNotify g) 5 3 fun t => t.mem = s.mem) ∧
         (ring.part = p → reply (.kdaNotify g) 4 0 fun t => t.mem = s.mem ∧ (t.ring r.val).lrn = s.time)) ∧
      (s.kdaPart g = some p → f 1 1 = 0 ∨ 5 < f 1 1 → reply (.kdaWrite g) 5 4 fun t => t.mem = s.mem) ∧
      (s.kdaPart g = some p → kdaWhole g = false →
        (f 1 1 = 4 → reply (.kdaAck g) 5 4 fun t => t.mem = s.mem) ∧ (f 1 1 = 5 → reply (.kdaNak g) 5 4 fun t => t.mem = s.mem)) ∧
      (s.kdaPart g = some p → kdaWhole g = true →
        let heard (i : Instr) : Prop := ∃ t, exec i s = .next t ∧ t.mem = s.mem ∧
          (let k' := t.partition p.val
           let rest := k.txq.filter (fun d => d.id ≠ id)
           k'.txq = rest ++ (k.txwait.take (256 - rest.length)).map
             (fun b => { id := BitVec.ofNat 64 (ofBytes ((b.drop 8).take 8)), bytes := b, sent := false }) ∧
           k'.txwait = k.txwait.drop (256 - rest.length) ∧
           (f 2 2 = 0 → k'.rate = k.rate) ∧
           (f 2 2 = 1 → k.halved = 0 ∨ 100000 ≤ s.time.toNat - k.halved.toNat → k'.rate.toNat = max 100 (k.rate.toNat / 2) ∧ k'.halved = s.time) ∧
           (f 2 2 = 1 → ¬ (k.halved = 0 ∨ 100000 ≤ s.time.toNat - k.halved.toNat) → k'.rate = k.rate))
        (f 1 1 = 4 → heard (.kdaAck g)) ∧ (f 1 1 = 5 → heard (.kdaNak g)))) ∧
    ∀ p : Part,
      let k := s.partition p.val
      (∀ d : TxGram, k.txq.find? (fun e => e.id == d.id && e.sent) = some d →
        exec (.kdaRetransmit p d.id) s = .next { s with replies := d.bytes :: s.replies }) ∧
      (∀ (pre post : List TxGram) (d : TxGram), k.txq = pre ++ d :: post → (∀ e ∈ pre, e.sent = true) → d.sent = false →
        ∃ t, exec (.kdaTransmit p) s = .next t ∧ t.replies = d.bytes :: s.replies ∧
          (t.partition p.val).txq = pre ++ { d with sent := true } :: post) ∧
      (100000 ≤ s.time.toNat - k.raised.toNat → k.rate.toNat ≤ 1600000 → ∃ t, exec (.kdaRateRaise p) s = .next t ∧
        (t.partition p.val).rate.toNat = min 1600000 (k.rate.toNat + 400) ∧ (t.partition p.val).raised = s.time)

/-! ### Rings, records and populations -/

/-- 14_queues R252, R255, R260: a store to word 0 of a ring's entry defines it and clears RD and ERRC; of a ring that holds an active slot
it waits until the slot is idle, and the ring then gives it back, or until an error unmaps the ring, which it then defines anew. A notify
sets LRN;
a ring that holds no active slot takes the lowest free one, or the idle one of least LRN, and waits with PEND where it
finds none or its partition has MAXSLOTS. A pending ring takes a slot later. The idle slot of the ring's own partition is
the model's reading (notes/assumptions/18). -/
def Obligations.RingMapping : Prop :=
  ∀ (s : State) (r : RingId),
    let k := s.ring r.val
    let free (n : Nat) : Prop := n < 32 ∧ (s.active n).ring = none
    let idle (n : Nat) (o : RingId) : Prop := n < 32 ∧ (s.active n).ring = some o ∧ s.published (s.ring o.val) = false ∧ (s.active n).head = none
    let lrn (n : Nat) : Word := ((s.active n).ring.map fun o => (s.ring o.val).lrn).getD 0
    let takes (i : Instr) (n : Nat) (f : State → Prop) : Prop := ∃ t, exec i s = .next t ∧ (t.active n).ring = some r ∧ (t.active n).head = none ∧
      (t.ring r.val).mapped = true ∧ (t.ring r.val).pend = false ∧ (t.ring r.val).slot = BitVec.ofNat 5 n ∧ t.mem = s.mem ∧ f t
    let below := s.activeOf k.part < (s.partition k.part.val).maxs.toNat
    (∀ v : Word, k.mapped = false → exec (.ringDefine r v) s =
      .next (s.modRing r.val fun k => { k with base := v &&& 0x00FFFFFFFFFFF000, v := v.getLsbD 63, rd := 0, errc := 0 })) ∧
    (∀ v : Word, k.mapped = true → s.idle k.slot.toNat = false → exec (.ringDefine r v) s = .next (s.modRing r.val fun k => { k with held := k.held ++ [v] })) ∧
    (∀ v : Word, k.mapped = true → k.held = [] → idle k.slot.toNat r → ∃ t, exec (.ringDefine r v) s = .next t ∧ t.mem = s.mem ∧
      (t.active k.slot.toNat).ring = none ∧ t.ring r.val =
        { k with base := v &&& 0x00FFFFFFFFFFF000, v := v.getLsbD 63, rd := 0, errc := 0, mapped := false }) ∧
    (∀ (a : ActiveId) (v : Word) (m : Nat), (s.active a.val).ring = some r → (s.active a.val).head = none → k.mapped = true → k.held = [v] →
      k.ok = true → 0 < m → m * 2 ^ k.log.toNat < 2 ^ 47 →
      bits (s.num (k.recordAt k.rd.toNat) 8) 16 48 = (k.rd.toNat + m * 2 ^ k.log.toNat) % 2 ^ 48 →
      ∃ t, exec (.recordAccept a) s = .next t ∧ t.mem = s.mem ∧ t.ring r.val =
        { k with base := v &&& 0x00FFFFFFFFFFF000, v := v.getLsbD 63, rd := 0, errc := 0, mapped := false, held := [] }) ∧
    (k.ok = false ∨ k.mapped = true → exec (.ringNotify r k.part) s = .next (s.modRing r.val fun k => { k with lrn := s.time })) ∧
    (k.ok = true → k.mapped = false → (∀ n, (s.active n).ring ≠ some r) →
      (∀ n, below → free n → (∀ m < n, ¬ free m) → takes (.ringNotify r k.part) n fun t => (t.ring r.val).lrn = s.time) ∧
      (∀ n o, below → (∀ m, ¬ free m) → idle n o → (∀ m o', idle m o' → m ≠ n → (lrn n).toNat < (lrn m).toNat) → (s.ring o.val).mapped = true →
        (s.ring o.val).slot.toNat = n → takes (.ringNotify r k.part) n fun t => (t.ring o.val).mapped = false ∧ (t.ring r.val).lrn = s.time) ∧
      (¬ below ∨ (∀ m, ¬ free m ∧ ∀ o, ¬ idle m o) → k.pend = false → ∃ t, exec (.ringNotify r k.part) s = .next t ∧ t.mem = s.mem ∧
        t.pendingRings = s.pendingRings ++ [r] ∧ (t.ring r.val).pend = true ∧ (t.ring r.val).lrn = s.time) ∧
      (∀ n rest, s.pendingRings = r :: rest → below → free n → (∀ m < n, ¬ free m) → takes .mapperMapPending n fun t => r ∉ t.pendingRings))

/-- 14_queues R253, R254, R256, R259, R260: an active slot accepts the published record at RD: its journal entry is written,
RD rises, and the copy in the control block with it; the record stands at the head of the slot, or is rejected with its
reason. A full journal makes the ring wait, an overrun and a control block that does not translate stop it. WAITQ, SIGNAL
and MARK complete as the table says. (Where no store of the ring's V waits: `RingMapping` says what one does.) The journal's place before
its block is written, and which of several failing checks rejects a record, are the model's choice (notes/assumptions/67, 95). -/
def Obligations.RecordsRun : Prop :=
  ∀ (s : State) (a : ActiveId) (r : RingId), Memory.wf s.mem = true → (s.active a.val).ring = some r → (s.ring r.val).held = [] →
    let k := s.ring r.val
    let rd := k.rd.toNat
    let slot := k.recordAt rd
    let h := s.num slot 8
    let kind := bits h 0 4
    let word (i : Nat) := s.num (slot + 8 * i) 8
    let j := s.jhead.toNat
    let e := s.journalAt j
    let cbAt := BitVec.ofNat 64 (2 ^ 63 + bits k.cb.toNat 6 50 * 64)
    ((s.active a.val).head = none → k.ok = true →
      (∀ m, 0 < m → m * 2 ^ k.log.toNat < 2 ^ 47 → bits h 16 48 = (rd + m * 2 ^ k.log.toNat) % 2 ^ 48 →
        ∃ t, exec (.recordAccept a) s = .next t ∧ (t.ring r.val).errc = 1 ∧ (t.ring r.val).mapped = false ∧ t.mem = s.mem) ∧
      (kind ≠ 0 → bits h 16 48 = rd % 2 ^ 48 →
        (s.jhead.toNat - s.jcons.toNat = 2 ^ s.jlog.toNat → ∃ t, exec (.recordAccept a) s = .next t ∧ (t.active a.val).wait = 4 ∧
          (t.active a.val).head = none ∧ t.rings = s.rings ∧ t.mem = s.mem) ∧
        (s.jhead.toNat - s.jcons.toNat ≠ 2 ^ s.jlog.toNat →
          (∀ x, s.translateFor k.part cbAt .w 64 = .error x → ∃ t, exec (.recordAccept a) s = .next t ∧
            (t.ring r.val).errc = 2 ∧ (t.ring r.val).mapped = false ∧ t.mem = s.mem) ∧
          (∀ cb, s.translateFor k.part cbAt .w 64 = .ok cb →
            (∀ b, span e 64 b → ¬ span (cb + 8) 8 b) →
            let accepted (t : State) (w0 : Nat) : Prop := exec (.recordAccept a) s = .next t ∧ t.jhead = s.jhead + 1 ∧ (t.ring r.val).rd = k.rd + 1 ∧
              t.num e 8 = w0 ∧ t.num (e + 8) 8 = rd ∧ t.num (e + 0x10) 8 = s.time.toNat ∧ t.num (e + 0x18) 8 = s.time.toNat ∧
              t.num (e + 0x38) 8 = j ∧ t.num (cb + 8) 8 = (rd + 1) % 2 ^ 64
            let stands (p : Nat × List Word) : Prop := ∃ t x, accepted t (r.val + 2 ^ 12 + 2 ^ 16 * kind) ∧ (t.active a.val).head = some x ∧
              x.kind.toNat = kind ∧ x.journal = s.jhead ∧ x.index = k.rd ∧ (∀ i : Fin 8, x.words[i.val].toNat = word i.val) ∧ (x.at_, x.image) = p
            let rejected (reason : Nat) : Prop := ∃ t,
              accepted t (r.val + 2 ^ 12 * 3 + 2 ^ 16 * kind + 2 ^ 24 * 4 + 2 ^ 32 * reason) ∧ (t.active a.val).head = none
            let ws := (List.range 8).map fun i => word i
            (∀ p, s.checkRecord k.part ws = .ok p → stands p) ∧
            (∀ x, kind ≠ 1 → s.checkRecord k.part ws = .error x → rejected x.1) ∧
            (kind = 4 → bits h 4 12 = 0 → (∀ i, 2 ≤ i → i < 8 → word i = 0) → stands (0, [])) ∧
            (4 < kind ∨ (kind ≠ 1 ∧ bits h 4 12 ≠ 0) → rejected 1) ∧
            (kind = 2 ∨ kind = 3 → bits h 4 12 = 0 → word 1 % 8 ≠ 0 → rejected 1) ∧
            (kind = 1 → ∀ x c, s.checkRecord k.part ws = .error x → word 2 % 64 = 0 → s.translateFor k.part (BitVec.ofNat 64 (word 2)) .w 64 = .ok c →
              (∀ b, span c 64 b → ¬ span e 64 b ∧ ¬ span (cb + 8) 8 b) → ∃ t,
              accepted t (r.val + 2 ^ 12 * 3 + 2 ^ 16 + 2 ^ 24 * 4 + 2 ^ 32 * x.1) ∧ (t.active a.val).head = none ∧
              t.num c 8 = 4 + 2 ^ 24 * x.1 + 2 ^ 63 ∧ t.num (c + 8) 8 = 0 ∧ t.num (c + 0x38) 8 = word 3))))) ∧
    ∀ x, (s.active a.val).head = some x →
      let je := s.journalAt x.journal.toNat
      let closes (i : Instr) (ws : Nat → Prop) (f : State → Prop) : Prop := ∃ t, exec i s = .next t ∧ t.active a.val = { ring := some r, wait := 0, head := none } ∧
        BytesBut (fun b => ws b ∨ span je 32 b) s t ∧
        (s.num (je + 0x38) 8 = x.journal.toNat → (∀ b, span je 64 b → ¬ ws b) →
          t.num je 8 = r.val + 2 ^ 12 * 3 + 2 ^ 16 * x.kind.toNat ∧ t.num (je + 0x18) 8 = s.time.toNat ∧ f t)
      let now := s.num x.at_ 8
      let value := x.words[2].toNat
      let mode := x.words[3].toNat
      let first := SMap.get [] s.running r.val = []
      (x.kind = 2 → inCtl x.at_ = false →
        let holds := (mode = 0 ∧ value ≤ now) ∨ (mode = 1 ∧ now = value) ∨ (mode = 2 ∧ now ≠ value)
        (holds → closes (.waitq a) (fun _ => False) fun _ => True) ∧ (mode ≤ 2 → ¬ holds → exec (.waitq a) s = .next s)) ∧
      (x.kind = 3 →
        (¬ first → exec (.signal a) s = .next s) ∧
        (first → s.plain x.at_ 8 → closes (.signal a) (span x.at_ 8) fun t =>
          t.num x.at_ 8 = if mode = 0 then value else (now + value) % 2 ^ 64)) ∧
      (x.kind = 4 → (first → closes (.mark a) (fun _ => False) fun _ => True) ∧ (¬ first → exec (.mark a) s = .next s))

/-- 01_device R16, R17, 04_registers R80, 14_queues R256-R258, 20_counters R330: a LAUNCH waits at the head of its slot until every
core of its set has its quota of free slots and a free window; its population is then placed whole: each thread starts at
the entry with its seed words and its index, in TRANSIT until it is whole (08_slots R134), each window takes the user words and the words of its core, the home core
watches the population, and the journal says PLACED. A shared range that does not translate by then rejects the LAUNCH (09_memories
R175), with the range's base as the record gives it in TVAL. That the windows in use are those of the cores that launch records name is
the model's choice (notes/assumptions/89). -/
def Obligations.Placement : Prop :=
  ∀ (s : State) (a : ActiveId) (r : RingId) (x : Running), Memory.wf s.mem = true →
    s.active a.val = { ring := some r, wait := (s.active a.val).wait, head := some x } → x.kind = 1 → (s.ring r.val).held = [] →
    let p := (s.ring r.val).part
    let im := x.image
    let w (i : Nat) := (im.getD i 0).toNat
    let quota := bits (w 1) 0 4
    let cores := launchCores im
    let je := s.journalAt x.journal.toNat
    let room (c : CoreId) : Prop := quota ≤ ((s.core c.val).freeFor p).length ∧ ∀ o ∈ s.pops, ¬ (o.part = p ∧ c ∈ o.cores)
    (¬ (∀ c ∈ cores, room c) → (∃ t, exec (.launch a) s = .next t ∧ t = s.setActive a.val { s.active a.val with wait := 1 }) ∧
      exec (.populationPlacement a) s = .next s) ∧
    (∀ (home : CoreId) (shared : List (Nat × Nat)) (users : List Word), cores.head? = some home → (∀ c ∈ cores, room c) →
      (∃ i : Fin 15, (s.core home.val).watch[i.val].v = false) →
      (bits (w 1) 32 1 = 1 → ∀ c ∈ cores, (s.die (c.val / 128)).domV = true → (s.die (c.val / 128)).dom.toNat = bits (w 1) 16 16) →
      exec (.launch a) s = .next s ∧
      (∀ reason v, s.launchRanges p im = .error (reason, v) → (∀ b, span je 64 b → ¬ span x.at_ 64 b) → ∃ t,
        exec (.populationPlacement a) s = .next t ∧ t.active a.val = { ring := some r, wait := 0, head := none } ∧ t.pops = s.pops ∧
        t.num x.at_ 8 = (4 + 2 ^ 24 * reason + 2 ^ 63) % 2 ^ 64 ∧ t.num (x.at_ + 8) 8 = 0 ∧ t.num (x.at_ + 0x10) 8 = v % 2 ^ 64 ∧
        t.num (x.at_ + 0x38) 8 = x.words[3].toNat ∧
        (s.num (je + 0x38) 8 = x.journal.toNat → t.num je 8 = (r.val + 2 ^ 12 * 3 + 2 ^ 16 + 2 ^ 24 * 4 + 2 ^ 32 * reason) % 2 ^ 64)) ∧
      (s.launchRanges p im = .ok shared → s.wordsFor p (w 6) (bits (w 1) 8 8) = .ok users → inHbm je = true → ∃ t,
        exec (.populationPlacement a) s = .next t ∧ t.active a.val = { ring := some r, wait := 0, head := none } ∧ t.nextPop = s.nextPop + 1 ∧
        (∃ g, t.pops = s.pops ++ [g] ∧ g.id = s.nextPop ∧ g.part = p ∧ g.cores = cores ∧ g.home = home ∧ g.phase = 0 ∧ g.shared = shared ∧
          g.dom = (if bits (w 1) 32 1 = 1 then some (BitVec.ofNat 16 (bits (w 1) 16 16)) else none) ∧
          g.tag = x.words[3] ∧ g.placed = s.time ∧ g.status = 0 ∧ g.compl = x.at_) ∧
        (∃ i : Fin 15, (t.core home.val).watch[i.val].v = true ∧ (t.core home.val).watch[i.val].pop = s.nextPop) ∧
        (s.num (je + 0x38) 8 = x.journal.toNat → t.num je 8 = r.val + 2 ^ 12 * 2 + 2 ^ 16 ∧ t.num (je + 0x20) 8 = s.nextPop.toNat) ∧
        ∀ (n : Nat) (c : CoreId), cores[n]? = some c →
          let win (i : Nat) := t.num (vaultBase c.val + 0xC000 + 0x800 * p.val + 8 * i) 8
          (∀ (m : Nat) (l : SlotId), m < quota → ((s.core c.val).freeFor p)[m]? = some l →
            let q := t.slotAt { core := c, slot := l }
            q.state = .transit ∧ q.into = some .ready ∧ q.part = p ∧ q.popid = s.nextPop ∧ q.thidx = BitVec.ofNat 32 (quota * n + m) ∧ q.pc.toNat = w 0 / 4 * 4 ∧
              (∀ i : XReg, q.x[i.val].toNat = if i.val < 4 then w (2 + i.val) else 0) ∧ q.p = 1 ∧ q.lvt = 0 ∧ q.v = []) ∧
          (∀ i < users.length, i < 248 → win i = (users.getD i 0).toNat) ∧
          (users.length ≤ 248 → (∀ i, users.length ≤ i → i < 248 → win i = 0) ∧ win 248 = c.val ∧
            win 249 = (((s.core c.val).freeFor p).headD 0).val ∧ win 250 = c.val / 128 ∧ win 251 = s.pkg ∧ win 252 = s.nextPop.toNat ∧
            win 253 = p.val ∧ win 254 = s.pkg * 2 ^ 43 + vaultBase c.val ∧ win 255 = quota * n)))

/-- 01_device R18, 08_slots R134, 14_queues R258, R259, 23_system R358: a population whose threads have halted and whose writes are
all answered finishes: its completion record is written, its journal entry closed, and its slots are free. A system call
that a supervisor forwards is an event, and its reply an INTR at its core. -/
def Obligations.PopulationsFinish : Prop :=
  ∀ s : State, Memory.wf s.mem = true →
    (∀ p : Pop, s.pop? p.id = some p → s.threads p = [] → s.unsettled p.id = false →
      ∃ t, exec (.populationFinish p.id) s = .next t ∧ t.pop? p.id = none ∧
        (∀ q : Place, (s.slotAt q).popid = p.id → (s.slotAt q).state = .done → (t.slotAt q).state = .free) ∧
        let c := p.compl
        let e := s.journalAt p.journal.toNat
        let apart (b : Nat) : Prop := (∀ i < 4096, ¬ span (s.barAt p.part.val i) 16 b) ∧
          ∀ c, ¬ s.table c b ∧ ¬ span (s.mboxAt c 0 0) 1024 b
        (s.withheld = [] → (∀ k ∈ s.cores, ∀ x ∈ k.2.buffer ++ k.2.spill.map Prod.snd, x.who.pop ≠ p.id) →
          (∀ b, span c 64 b → ¬ span e 64 b ∧ apart b) → (∀ b, span e 64 b → apart b) →
          t.num c 8 = p.status.toNat + 2 ^ 8 * p.cause.toNat + (if p.faberr then 2 ^ 16 else 0) + 2 ^ 63 ∧
          t.num (c + 0x08) 8 = p.id.toNat ∧ t.num (c + 0x10) 8 = p.tval.toNat ∧ t.num (c + 0x18) 8 = p.failAt.toNat ∧
          t.num (c + 0x20) 8 = p.fails.toNat ∧ t.num (c + 0x28) 8 = p.placed.toNat ∧ t.num (c + 0x30) 8 = s.time.toNat ∧
          t.num (c + 0x38) 8 = p.tag.toNat ∧
          (s.num (e + 0x38) 8 = p.journal.toNat → t.num e 8 = p.ring.val + 2 ^ 12 * 3 + 2 ^ 16 + 2 ^ 24 * p.status.toNat))) ∧
    ∀ v : Word,
      (∃ t, exec (.syscallDoorbell v) s = .next t ∧ posted s t 6 v.toNat) ∧
      (let q := s.fwdRecord v.toNat
       let c := s.num q 8 % 1024
       s.num (q + 0x30) 8 ≠ 2 → (∀ r ∈ (s.core c).records, ¬ (r.cause = .intr ∧ r.async = true ∧ r.slot = 15)) →
       ∃ t, exec (.syscallReply v) s = .next t ∧ SameBytes s t ∧ (t.core c).records = (s.core c).records ++
         [{ pop := 0, cause := .intr, sub := 2, slot := 15, async := true, tval := v, tpc := 0, tts := 0 }])

/-! ### The Treasury, the group clock and the service side -/

/-- 20_counters R331, R335-R342, 04_registers R80, 08_slots R149: a TSC counts nanoseconds, none or two at most once in 1,000, within 20
ns of every other die's; a refill grants the head of the queue; a limit that falls takes effect 100
µs later and one that rises at the round boundary by which every member has acknowledged it, before or after the LIMIT; joins and leaves
take effect at RND + 2; a member that is silent for 500 µs sets the floor, until it is heard again, and one silent for 5 ms is expelled. A
ceiling that rises because a member is gone, or is heard again, waits for the acknowledgements of a raise. The form of a raise, what is
announced when a silence ends, the group that a package speaks to, an unknown member's limit and that only a JOIN brings an expelled
package back are the model's readings (notes/assumptions/13), and so is the tick of a die's TSC by an operand (notes/assumptions/40). -/
def Obligations.ClockGroup : Prop :=
  ∀ s : State,
    let g := s.group
    let rnd := s.time.toNat / 1000000
    let does (i : Instr) (f : State → Prop) : Prop := ∃ t, exec i s = .next t ∧ SameBytes s t ∧ f t
    (∀ d : DieId, let k := s.die d.val
      (∀ n : Fin 3,
        let m := if n = 1 ∨ 1000 ≤ k.steady then n.val else 1
        ((∀ e : DieId, k.tsc.toNat + m ≤ (s.die e.val).tsc.toNat + 20) → does (.timeStampCounterTick d n) fun t =>
          t.die d.val = { k with tsc := k.tsc + BitVec.ofNat 64 m, steady := if m = 1 then min 1000 (k.steady + 1) else 0 } ∧
          ∀ (c : CoreId) (i : Fin 15), c.val / 128 = d.val → let w := (s.core c.val).watch[i.val]
            (t.core c.val).watch[i.val].idle =
              if w.v = true ∧ (s.still = true ∨ s.occupied w.pop = false) then w.idle + BitVec.ofNat 64 m else w.idle) ∧
        ((∃ e : DieId, (s.die e.val).tsc.toNat + 20 < k.tsc.toNat + m) → exec (.timeStampCounterTick d n) s = .next s)) ∧
      (s.still = true → k.tsc.toNat % 1000 = 0 →
        does (.treasuryRefill d) fun t => t.die d.val = { k with trsy := k.trbud } ∧ t.cores = s.cores) ∧
      (s.still = false → k.tsc.toNat % 1000 = 0 →
        (k.asks = [] → does (.treasuryRefill d) fun t => t.die d.val = { k with trsy := k.trbud }) ∧
        (∀ a, k.asks = [a] → does (.treasuryRefill d) fun t => (t.slotAt a.place).prog = .granted ∧
          t.die d.val = { k with trsy := k.trbud - BitVec.ofNat 32 (min a.cost k.trbud.toNat), asks := [], trgr := k.trgr + 1 })) ∧
      does (.ceilingChange d) (fun t => t.die d.val =
          { k with sched := k.sched.filter fun e => k.tsc.toNat < e.1.toNat, clkc := (t.die d.val).clkc } ∧
        let c := (t.die d.val).clkc.toNat
        (∀ m ∈ g.inForce, c ≤ (m.at_ k.tsc.toNat).toNat) ∧ (g.others.any Member.silent → c ≤ 1200) ∧
        (g.cap = none → c = 3300 ∨ (c = 1200 ∧ g.others.any Member.silent) ∨ ∃ m ∈ g.inForce, c = (m.at_ k.tsc.toNat).toNat))) ∧
    (let limits (i : Instr) (clkl own : Nat) (f : State → Prop) : Prop :=
       let new := max 1200 (min 3300 (min clkl own))
       let old := g.self.settled.toNat
       let e := (s.time.toNat + 100000 + 999) / 1000 * 1000
       let tells (t : State) (time : Nat) : Prop :=
         t.group.sent = match g.talksTo with | some d => s.groupWrite d 1 new time :: g.sent | none => g.sent
       (new < old ∨ (new = old ∧ g.self.raise ≠ none) → does i fun t => f t ∧ tells t e ∧ t.group.self.raise = none ∧
           t.group.self.changes = g.self.changes ++ [(BitVec.ofNat 64 e, BitVec.ofNat 16 new)]) ∧
         (old < new → (∃ m ∈ g.others, m.pkg ≠ s.pkg16) → does i fun t => f t ∧ tells t ((rnd + 1) * 1000000) ∧
           t.group.self.raise = some (BitVec.ofNat 16 new, BitVec.ofNat 64 (rnd + 1)) ∧ t.group.self.changes = g.self.changes) ∧
         (old < new → g.others = [] → does i fun t => f t ∧ tells t ((rnd + 1) * 1000000) ∧ t.group.self.raise = none ∧
           t.group.self.changes = g.self.changes ++ [(BitVec.ofNat 64 ((rnd + 1) * 1000000), BitVec.ofNat 16 new)]) ∧
         (old = new → does i f)
     (∀ v : Word, limits (.clklWrite v) (v.toNat % 2 ^ 16) g.own.toNat fun t => ∀ d : DieId, (t.die d.val).clkl.toNat = v.toNat % 2 ^ 16) ∧
     (∀ v : BitVec 16, limits (.thermalPowerLimitChange v) (s.die 0).clkl.toNat v.toNat fun t => t.group.own = v)) ∧
    (∀ v : Word,
      let want : Option (BitVec 16) := if v.getLsbD 63 then some (v.setWidth 16) else none
      (want = g.aim → does (.groupReqStore v) fun t => t.group = { g with gid := v.setWidth 16 }) ∧
      (want ≠ g.aim → does (.groupReqStore v) fun t => t.group.gid = v.setWidth 16 ∧ t.group.eff = BitVec.ofNat 48 (rnd + 2) ∧
        t.group.status = (if v.getLsbD 63 then 1 else 3) ∧ t.group.self.pend = g.self.pend ++ [(BitVec.ofNat 64 (rnd + 2), want)] ∧
        t.group.sent = (match want with | some d => [s.groupWrite d 3 0 (rnd + 2)] | none => []) ++
          (match g.aim with | some o => [s.groupWrite o 4 0 (rnd + 2)] | none => []) ++ g.sent)) ∧
    (∀ w : GroupMsg, g.self.in_ = true → w.gid = g.self.gid → w.pad = true → w.src ≠ s.pkg16 →
      ((∀ m ∈ g.members, m.pkg ≠ w.src) →
        (w.src ∈ g.out → exec (.groupBeat w) s = .next s) ∧
        does (.groupJoin w) fun t => ∃ m ∈ t.group.members, m.pkg = w.src ∧ m.in_ = false ∧ m.pend = [(w.time, some w.gid)]) ∧
      ∀ m ∈ g.members, m.pkg = w.src → (∀ n ∈ g.members, n.pkg = w.src → n = m) →
      let becomes (i : Instr) (f : Member → Prop) : Prop := does i fun t => ∃ m' ∈ t.group.members, m'.pkg = w.src ∧ f m'
      (w.mhz.toNat < m.settled.toNat → becomes (.groupLimit w) fun m' =>
        m' = { m with changes := m.changes ++ [(w.time, w.mhz)], raise := none, acks := [] }) ∧
      let round := BitVec.ofNat 64 (w.time.toNat / 1000000)
      (m.settled.toNat ≤ w.mhz.toNat → (∃ n ∈ g.others, n.pkg ≠ w.src ∧ n.pkg ≠ s.pkg16 ∧ (n.pkg, round) ∉ g.heard) →
        does (.groupLimit w) fun t => t.group.sent = s.groupWrite g.self.gid 2 0 (w.time.toNat / 1000000) :: g.sent ∧
          ∃ m' ∈ t.group.members, m'.pkg = w.src ∧ m'.changes = m.changes ∧ m'.raise = some (w.mhz, round)) ∧
      (m.settled.toNat ≤ w.mhz.toNat → (∀ n ∈ g.others, n.pkg = w.src ∨ n.pkg = s.pkg16 ∨ (n.pkg, round) ∈ g.heard) →
        becomes (.groupLimit w) fun m' => m'.raise = none ∧
          m'.changes = m.changes ++ [(BitVec.ofNat 64 ((w.time.toNat / 1000000).max (rnd + 1) * 1000000), w.mhz)]) ∧
      (∀ l, g.self.raise = some (l, w.time) →
        ((∀ n ∈ g.others, n.pkg ≠ s.pkg16 → n.pkg ∈ w.src :: g.self.acks) → does (.groupAck w) fun t => t.group.self.raise = none ∧
          t.group.self.changes = g.self.changes ++ [(BitVec.ofNat 64 (w.time.toNat.max (rnd + 1) * 1000000), l)]) ∧
        ((∃ n ∈ g.others, n.pkg ≠ s.pkg16 ∧ n.pkg ∉ w.src :: g.self.acks) → does (.groupAck w) fun t =>
          t.group.self.raise = g.self.raise ∧ t.group.self.acks = w.src :: g.self.acks)) ∧
      does (.groupAck w) (fun t => (w.src, w.time) ∈ t.group.heard) ∧
      becomes (.groupJoin w) (fun m' => m' = { m with pend := m.pend ++ [(w.time, some w.gid)] }) ∧
      becomes (.groupLeave w) (fun m' => m' = { m with pend := m.pend ++ [(w.time, none)] }) ∧
      becomes (.groupBeat w) (fun m' => m'.beat = s.time ∧ m'.silent = false) ∧
      (m ∈ g.others → m.silent = true → does (.groupBeat w) fun t => t.group.cap = some (g.ceiling s.time.toNat) ∧
        t.group.sent = s.groupWrite g.self.gid 1 g.self.settled.toNat ((rnd + 1) * 1000000) :: g.sent)) ∧
    (g.self.in_ = true → 100000 ≤ s.time.toNat - g.lastBeat.toNat → does .beatSend fun t =>
      t.group = { g with lastBeat := s.time, sent := s.groupWrite g.self.gid 5 0 0 :: g.sent }) ∧
    (∀ m ∈ g.others, m.silent = false → 500000 ≤ s.time.toNat - m.beat.toNat → does (.memberSilent m.pkg) fun t =>
      (∃ m' ∈ t.group.members, m' = { m with silent := true }) ∧ ∀ d : DieId, (t.die d.val).clkc.toNat ≤ 1200) ∧
    (∀ m ∈ g.others, m.silent = true → 5000000 ≤ s.time.toNat - m.beat.toNat → does (.memberExpel m.pkg) fun t =>
      (∀ n ∈ t.group.members, n.pkg ≠ m.pkg) ∧ m.pkg ∈ t.group.out ∧ t.group.expel = g.expel + 1 ∧
      t.group.cap = some (g.ceiling s.time.toNat) ∧ posted s t 1 m.pkg.toNat) ∧
    (∀ r d, g.self.pend = [(r, some d)] → r.toNat ≤ rnd → does .membershipEffect fun t =>
      t.group.status = 2 ∧ t.group.self.in_ = true ∧ t.group.self.gid = d) ∧
    (∀ r, g.self.pend = [(r, none)] → r.toNat ≤ rnd → does .membershipEffect fun t =>
      t.group.status = 0 ∧ t.group.self.in_ = false ∧ t.group.members = []) ∧
    (g.self.in_ = true → g.self.pend = [] → ∀ m ∈ g.members,
      (∀ r d, m.pend = [(r, some d)] → r.toNat ≤ rnd → does .membershipEffect fun t =>
        ∃ m' ∈ t.group.members, m'.pkg = m.pkg ∧ m'.in_ = true ∧ m'.gid = d ∧ m'.pend = []) ∧
      (∀ r, m.pend = [(r, none)] → r.toNat ≤ rnd → (∀ n ∈ g.members, n.pkg = m.pkg → n = m) → does .membershipEffect fun t =>
        (∀ m' ∈ t.group.members, m'.pkg ≠ m.pkg) ∧ m.pkg ∈ t.group.out ∧ (m ∈ g.others → t.group.cap = some (g.ceiling s.time.toNat))) ∧
      (m.in_ = true → (∀ e ∈ m.pend, rnd < e.1.toNat) → does .membershipEffect fun t =>
        ∃ m' ∈ t.group.members, m'.pkg = m.pkg ∧ m'.in_ = true ∧ m'.gid = m.gid ∧ m'.pend = m.pend))

/-- 23_system R353-R357, R359-R363, 20_counters R329, 09_memories R163: the package boots the first firmware slot that the
root of trust accepts, or waits in recovery for an image; a partition reset ends what the partition runs, and posts its
event; an error of service data stops the partitions until the warm restart, or resets them after 2 s; a core or a page
that is retired goes on as a spare; a thermal hold stops issue until the thermal resume. What the root of trust accepts is
an opaque predicate, and when a core or page retires, which spare it takes and the steps of a reset are the model's
(notes/assumptions/7, 60, 62). -/
def Obligations.ServiceEvents : Prop :=
  ∀ s : State, Memory.wf s.mem = true →
    let b := s.boot
    let does (i : Instr) (f : State → Prop) : Prop := ∃ t, exec i s = .next t ∧ f t
    let good (f : Option Firmware) : Prop := ∃ i, f = some i ∧ Config.signed (slotBytes i) = true
    let boots (x y : Option Firmware) (t : State) : Prop :=
      t.mem = [] ∧ t.cores = [] ∧ t.pops = [] ∧ t.parts = [] ∧ t.rings = [] ∧ t.events = Vector.replicate 7 0 ∧
      t.boot.slotA = x ∧ t.boot.slotB = y ∧ (good x → t.boot.accepted = x) ∧ (¬ good x → good y → t.boot.accepted = y) ∧
      (¬ good x → ¬ good y → t.boot.accepted = none) ∧ (t.boot.recovery = true ↔ ¬ good x ∧ ¬ good y) ∧
      (∀ f, t.boot.accepted = some f → t.boot.record = f.record) ∧
      ∀ d : DieId, (t.die d.val).trbud = t.boot.record.trbud ∧ (t.die d.val).trsy = t.boot.record.trbud
    does .packageReset (boots b.slotA b.slotB) ∧
    (∀ fw : Firmware, b.recovery = true → fw.bytes.length ≤ 2 ^ 26 → Config.signed (slotBytes fw) = true →
      does (.recoveryImage fw) (boots (some fw) (some fw))) ∧
    does .spdmMeasurementRequest (fun t => t = { s with boot := { b with measured := b.accepted.map fun f => Config.digest (slotBytes f) } }) ∧
    (∀ p : Part,
      ((s.partition p.val).busy = false → (s.partition p.val).go = false → b.quiet = none → does (.partitionReset p) fun t => wiped s t p ∧ posted s t 0 p.val ∧
        (t.partition p.val).busy = false ∧
        ∀ q : Place, q.slot.val < 15 → (s.core q.core.val).partOf q.slot = some p → (s.slotAt q).state ≠ .free → (t.slotAt q).state = .free) ∧
      ((s.partition p.val).busy = true → (s.partition p.val).go = false →
        does (.partitionReset p) fun t => posted s t 0 p.val ∧ (t.partition p.val).busy = false) ∧
      ((s.partition p.val).busy = true → (s.partition p.val).go = true → b.quiet = none →
        does (.partitionReset p) fun t => wiped s t p ∧ (t.partition p.val).busy = true ∧ (t.partition p.val).go = false) ∧
      ((s.partition p.val).go = false → does (.serviceDataError (some p)) fun t => wiped s t p ∧ posted s t 0 p.val)) ∧
    (b.quiet = none → does (.serviceDataError none) fun t => SameBytes s t ∧ t.boot.quiet = some s.time ∧ t.still = true ∧ t.cores = s.cores) ∧
    (∀ since, b.quiet = some since →
      does .warmRestartComplete (fun t => t.boot.quiet = none ∧ (b.hot = false → t.still = false) ∧
        ∀ i ∈ s.fwdPending, t.num (s.fwdRecord i + 0x30) 8 = 3 ∧ t.num (s.fwdRecord i + 0x38) 8 = 2 ^ 64 - 2) ∧
      (b.lapsed = false → since.toNat + 2000000000 ≤ s.time.toNat → does .restartTimeout fun t => t.boot.lapsed = true ∧
        ∀ p : Part, bits (s.partWord p.val 0) 63 1 = 1 → wiped s t p)) ∧
    (∀ (e : Fin 7) (v : Word), does (.eventBlockClear e v) fun t => t = { s with events := t.events } ∧
      t.events = s.events.set e.val (s.events[e.val] &&& ~~~ (v &&& 0xC000000000000000))) ∧
    (∀ (c : CoreId) (w : BitVec 21), let d := c.val / 128
      (does (.vaultSoftError c w true) fun t => SameBytes s t ∧ (vaultBase c.val + 8 * w.toNat) / 8 ∈ t.poison ∧
        (t.die d).seuc = (s.die d).seuc + 1) ∧
      does (.vaultSoftError c w false) fun t => SameBytes s t ∧ t.poison = s.poison ∧ (t.die d).secc = (s.die d).secc + 1) ∧
    (∀ c : CoreId, let d := s.die (c.val / 128)
      (s.core c.val).absent = false → s.failing c.val = true →
      (∀ l : SlotId, l.val < 15 → ((s.core c.val).slots[l.val].atBoundary = true ∧ s.stopLocked { core := c, slot := l } = false) ∨ (s.core c.val).slots[l.val].state = .parked) →
      (∀ i < 8, d.spares.getLsbD i = true → (∀ j < i, d.spares.getLsbD j = false) → does (.coreRetirement c) fun t =>
        SMap.get 0 (t.die (c.val / 128)).phys (c.val % 128) = BitVec.ofNat 8 (128 + i) ∧ (t.die (c.val / 128)).spares.getLsbD i = false ∧
        posted s t 3 c.val ∧ ((∀ l : SlotId, (s.core c.val).slots[l.val].mint = none) → SameBytes s t) ∧ ∀ l : SlotId, l.val < 15 →
          let q := (s.core c.val).slots[l.val]
          let r := (t.core c.val).slots[l.val]
          r.x = q.x ∧ r.pc = q.pc ∧ r.v = q.v ∧ r.state = if q.state = .wait then .ready else q.state) ∧
      (d.spares = 0 → (∀ p : Part, (s.partition p.val).go = false) → does (.coreRetirement c) fun t => (t.core c.val).absent = true ∧
        (t.core c.val).partmap = 0 ∧ (t.core c.val).rotLeft = 0 ∧
        (∃ u : State, u.events[3] = s.events[3] ∧ posted u t 3 (c.val + 2 ^ 16)) ∧ ∀ l : SlotId, ∀ p, l.val < 15 → (s.core c.val).partOf l = some p → wiped s t p)) ∧
    (∀ (page : BitVec 28) (failed : BitVec 512) (spare : Bool),
      let q := (Config.hbmBase + 4096 * page.toNat) / 8
      let errs := (s.hbmErrs.filter fun e => decide (s.time.toNat ≤ e.2.toNat + 1000000000)) ++ [(page.toNat, s.time)]
      let due := failed ≠ 0 ∨ b.record.corLim < (errs.filter fun e => e.1 == page.toNat).length
      (due → does (.pageRetirement page failed spare) fun t => SameBytes s t ∧
        posted s t 4 (4096 * page.toNat + if spare then 0 else 2 ^ 55) ∧
        ∀ i < 512, failed.getLsbD i = true → if spare then (q + i) / 32 ∈ t.lost ∧ t.poison = s.poison else q + i ∈ t.poison ∧ t.lost = s.lost) ∧
      (¬ due → exec (.pageRetirement page failed spare) s = .next { s with hbmErrs := errs })) ∧
    (b.hot = false → does .thermalHold fun t => SameBytes s t ∧ t.cores = s.cores ∧ t.boot.hot = true ∧ t.still = true ∧ posted s t 5 1) ∧
    (b.hot = true → b.quiet = none → does .thermalResume fun t => SameBytes s t ∧ t.boot.hot = false ∧ t.still = false ∧ t.group.own = 1200 ∧
      posted s t 5 0)

/-! ### The machine as a whole -/

/-- 02_encoding R43, R44, R29: words of the spec's worked encodings decode to the instructions they stand for, and the words that
it names as no instruction do not decode. -/
def Obligations.DecodeWords : Prop :=
  decode 0x04C48000 = .ok (.add 3 1 (.reg 2)) ∧ decode 0x41770002 = .ok (.ld 5 .d (.off 13 2)) ∧
  decode 0x61C3FFFB = .ok (.br 3 true 0x3FFFB) ∧ decode 0x0000010A = .ok .fenceL ∧ decode 0xA4204214 = .ok (.mmaz 2 1 0 20) ∧
  decode 0x00000001 = .ok .nop ∧ decode 0x00000005 = .ok .sret ∧ decode 0xE0480000 = .ok (.ctxsave 1 2) ∧
  decode 0xC980_0001 = .ok (.vtgetLvt 6) ∧ decode 0xD0140400 = .ok (.barfree 5) ∧
  (∀ w ∈ ([0x00000000, 0xFFFFFFFF, 0x00000012, 0x000001CA, 0x04000101, 0xE000003F] : List (BitVec 32)), ∃ e, decode w = .error e)

/-- 02_encoding R28-R43: every instruction has a word, and the steps of the device have none; decode reads back the word of every
well-formed instruction, with every operand at every value that the encoding admits. -/
def Obligations.DecodeEncode : Prop :=
  (∀ i : Instr, (encode i).isSome = !isEvent i) ∧
  ∀ i : Instr, i.wellFormed = true → ∀ w, encode i = some w → decode w = .ok i

/-- 02_encoding R28-R31, R43, R46, 08_slots R135, 14_queues R250, 23_system R353, R354: with nothing scheduled, the slot that owns the cycle issues where it can; a
fetch that passes its checks gives the word at the PC, and a word that decodes is executed as exec says, in the state in
which only caches and the thread's kept words have changed; a word that does not decode traps ILLOP, and a fetch that fails
traps. A core's turn in the schedule does the same; a step of the device there is executed as exec says, a store of a service
core acts, and a datagram of the service OS joins the transmit queue of its partition or waits for room in it. In
recovery nothing acts but the two recovery paths and the management sideband. The schedule, and the free choice of
the word fetched before `fence.cb`, are the model's (notes/assumptions/4, 5, 66). -/
def Obligations.StepRunsDecoded : Prop :=
  ∀ (s : State) (c : CoreId),
    let u : State := { s with fresh := s.fresh + 1 }
    let runs (v : State) (c : CoreId) : Prop := ∀ r,
      (∀ t q w, v.choose c = (some t, r) → t.fetchAt = .ok q → t.fetchable q = [w] →
        w = BitVec.ofNat 32 (ofBytes (t.portBytes q 4)) ∧ ∃ m, fetched t m ∧
        (∀ i, decode w = .ok i → step s = exec i m) ∧ (∀ e, decode w = .error e → step s = exec (.illegalInstruction w) m)) ∧
      (∀ t e, v.choose c = (some t, r) → t.fetchAt = .error e → step s = exec .instructionFetchFault t) ∧
      (∀ o : SlotId, let k := v.core c.val
        v.issues c = true → k.cycle % 16 = o.val → k.slots[o.val].state = .ready → k.slots[o.val].pending = none →
        k.slots[o.val].yielded = false → k.rotLeft.getLsbD o.val = false →
        (v.choose c).1 = some { v.setCore c.val { k with cycle := k.cycle + 1 } with cur := { core := c, slot := o } })
    (s.schedule = [] → runs u s.cur.core) ∧
    ∀ x rest, s.schedule = x :: rest →
      let v : State := { u with schedule := rest }
      let admitted : Prop := s.boot.recovery = false ∨ (∃ c, x = .core c) ∨ (∃ fw, x = .event (.recoveryImage fw)) ∨
        x = .event .packageReset ∨ x = .event .spdmMeasurementRequest
      (¬ admitted → step s = .next v) ∧
      (x = .core c → runs v c) ∧
      (∀ i, encode i = none → x = .event i → (∀ w, i ≠ .illegalInstruction w) → i ≠ .instructionFetchFault → admitted → step s = exec i v) ∧
      (∀ off n w, x = .service off n w → s.boot.recovery = false → step s = .next (v.serviceStore off n w)) ∧
      ∀ (p : Part) bytes, x = .datagram p bytes → s.boot.recovery = false → ∃ m, step s = .next m ∧ m = { v with parts := m.parts } ∧
        (∀ o : Part, o ≠ p → m.partition o.val = v.partition o.val) ∧
        let k := v.partition p.val
        let n := 256 - k.txq.length
        let wait := k.txwait ++ [bytes]
        m.partition p.val = { k with
          txq := k.txq ++ (wait.take n).map fun b => { id := BitVec.ofNat 64 (ofBytes ((b.drop 8).take 8)), bytes := b, sent := false }
          txwait := wait.drop n }

/-- 02_encoding R29: the words 0x00000000 and 0xFFFFFFFF are illegal: the first has the reserved function 0 of SYS and the second the
reserved major 0x3F, and a core that fetches either traps ILLOP precisely, with the word. -/
def Obligations.IllegalWords : Prop :=
  decode 0 = .error .reservedFunction ∧ decode 0xFFFFFFFF = .error .reservedMajor ∧
  ∀ (s t r : State) (q : Nat) (w : BitVec 32), w = 0 ∨ w = 0xFFFFFFFF → s.schedule = [] →
    ({ s with fresh := s.fresh + 1 } : State).choose s.cur.core = (some t, r) → t.fetchAt = .ok q → t.fetchable q = [w] →
    ∃ m, fetched t m ∧ step s = .next (m.takeTrap m.cur .illop 0 (w.setWidth 64))

/-- 04_registers R71, R78-R82, 08_slots R133, 09_memories R156, 14_queues R252, R261, 18_tables R319, 20_counters R329: right after reset every
tenant slot is FREE and slot 15 READY, every control register holds the reset value of its row, and memory reads 0. -/
def Obligations.ResetState : Prop :=
  let s := State.reset
  (∀ q, Memory.get s.mem q = 0) ∧
  (∀ (c : CoreId) (i : SlotId),
    let k := s.core c.val
    let q := k.slots[i.val]
    q.state = (if i.val = 15 then .ready else .free) ∧ q.p = 1 ∧ q.v = [] ∧ q.ts = 0 ∧ q.frm = 0 ∧ q.fflags = 0 ∧ q.prvb = 0 ∧ q.prvl = 0 ∧
    q.lvt = 0 ∧ q.evsb = 0 ∧ q.evsl = 0 ∧ q.evid = 0 ∧ q.popid = 0 ∧ q.thidx = 0 ∧
    k.ttb = 0 ∧ k.mbt = 0 ∧ k.ulogb = 0 ∧ k.ulogl = 0 ∧ k.slogb = 0 ∧ k.slogl = 0 ∧ k.weight = 1 ∧ k.phbuf = 0 ∧ k.partmap = 0 ∧
    k.timer = 0 ∧ k.wdwin = 10000 ∧ k.fwdTo = 0 ∧ k.fwdV = false ∧ k.trap = { tcause := 0, tval := 0, tpc := 0, tts := 0 } ∧
    k.records = [] ∧ k.buffer = [] ∧ k.keySel = 0 ∧ k.matrixQ = [] ∧ k.copyQ = [] ∧ k.decQ = [] ∧ k.runList = [] ∧ k.mail = []) ∧
  (∀ d : DieId, let k := s.die d.val
    k.gvt = 0 ∧ k.dom = 0 ∧ k.domV = false ∧ k.tsc = 0 ∧ k.clkc = 1200 ∧ k.clkl = 3300 ∧ k.trsy = k.trbud ∧ k.asks = [] ∧ k.escrow = [] ∧
    k.rolls = 0 ∧ k.annih = 0 ∧ k.gvtr = 1000 ∧ k.xscope = 0 ∧ k.xpart = 0 ∧ k.xpage = 0 ∧ k.xbusy = false ∧ k.trgr = 0 ∧ k.trwt = 0) ∧
  (∀ p : Port, let k := s.port p.val
    k.lkc = Vector.replicate 2 0 ∧ k.lkth = 0x10000000000 ∧ k.lkaf = 0 ∧ k.lkrt = 0 ∧ k.txs = false ∧ k.rxs = false ∧ k.swp = false ∧
    k.up = false ∧ k.keys[0].loaded = false ∧ k.keys[1].loaded = false ∧ k.replay = []) ∧
  (∀ i : Fin 1024, (s.keyEntry i.val).sc = 0 ∧ (s.keyEntry i.val).v = false) ∧
  (∀ p : Part, let k := s.partition p.val
    k.addr = 0 ∧ k.uport = 50560 ∧ k.gen = 0 ∧ k.en = false ∧ k.maxs = 4 ∧ k.rate = 1600000) ∧
  ∀ r : RingId, let k := s.ring r.val
    k.base = 0 ∧ k.v = false ∧ k.log = 0 ∧ k.part = 0 ∧ k.ext = false ∧ k.errc = 0 ∧ k.cb = 0 ∧ k.rd = 0 ∧ k.slot = 0 ∧ k.mapped = false ∧
      k.pend = false ∧ k.lrn = 0 ∧ k.held = []

/-- 09_memories R156, R166: committed memory is in its canonical form at reset, with nothing listed. -/
def Obligations.ResetMemoryWf : Prop := State.reset.mem = [] ∧ Memory.wf State.reset.mem = true

/-- 09_memories R156, R166: every step of the machine keeps the canonical form of committed memory, from every state that has it: an
instruction, a trap, a step of a device or a store of a service core. -/
def Obligations.StepKeepsMemoryWf : Prop :=
  ∀ s t : State, Memory.wf s.mem = true → step s = .next t → Memory.wf t.mem = true
end

