-- ==== Sys2Proof/Laws/State.lean ====
section
/-! SUPPORT. What each update of the state leaves: one small lemma for each field and each update, so that no proof
unfolds a record update; and what a map, a core and a slot read as after an update of one of them. -/

namespace Sys2Proof.Machine

/-! ### Maps -/

@[simp] theorem SMap.get_set_self {α : Type} (d : α) (m : SMap α) (q : Nat) (v : α) : SMap.get d (SMap.set m q v) q = v := by
  induction m with
  | nil => simp [SMap.set, SMap.get]
  | cons e t ih =>
    obtain ⟨k, w⟩ := e
    unfold SMap.set
    split
    · simp [SMap.get]
    · split
      · simp [SMap.get]
      · rename_i h _; simp [SMap.get, h, ih]

theorem SMap.get_set_ne {α : Type} (d : α) (m : SMap α) {q r : Nat} (v : α) (h : r ≠ q) :
    SMap.get d (SMap.set m q v) r = SMap.get d m r := by
  induction m with
  | nil => simp [SMap.set, SMap.get, h.symm]
  | cons e t ih =>
    obtain ⟨k, w⟩ := e
    unfold SMap.set
    split
    · rename_i hk; subst hk; simp [SMap.get, h.symm]
    · split
      · simp [SMap.get, h.symm]
      · by_cases hk : k = r
        · simp [SMap.get, hk]
        · simp [SMap.get, hk, ih]

@[simp] theorem SMap.set_set {α : Type} (m : SMap α) (q : Nat) (v w : α) : SMap.set (SMap.set m q v) q w = SMap.set m q w := by
  induction m with
  | nil => simp [SMap.set]
  | cons e t ih =>
    obtain ⟨k, u⟩ := e
    by_cases h1 : k = q
    · simp [SMap.set, h1]
    · by_cases h2 : q < k
      · simp [SMap.set, h1, h2]
      · simp [SMap.set, h1, h2, ih]

/-! ### The fields of the state -/

@[simp] theorem State.setCore_cur (s : State) (c : Nat) (k : Core) : (s.setCore c k).cur = s.cur := rfl
@[simp] theorem State.setCore_schedule (s : State) (c : Nat) (k : Core) : (s.setCore c k).schedule = s.schedule := rfl
@[simp] theorem State.setCore_fresh (s : State) (c : Nat) (k : Core) : (s.setCore c k).fresh = s.fresh := rfl
@[simp] theorem State.setCore_mem (s : State) (c : Nat) (k : Core) : (s.setCore c k).mem = s.mem := rfl
@[simp] theorem State.setCore_poison (s : State) (c : Nat) (k : Core) : (s.setCore c k).poison = s.poison := rfl
@[simp] theorem State.setCore_lost (s : State) (c : Nat) (k : Core) : (s.setCore c k).lost = s.lost := rfl
@[simp] theorem State.setCore_dies (s : State) (c : Nat) (k : Core) : (s.setCore c k).dies = s.dies := rfl
@[simp] theorem State.setCore_parts (s : State) (c : Nat) (k : Core) : (s.setCore c k).parts = s.parts := rfl
@[simp] theorem State.setCore_pops (s : State) (c : Nat) (k : Core) : (s.setCore c k).pops = s.pops := rfl
@[simp] theorem State.setCore_nextPop (s : State) (c : Nat) (k : Core) : (s.setCore c k).nextPop = s.nextPop := rfl
@[simp] theorem State.setCore_net (s : State) (c : Nat) (k : Core) : (s.setCore c k).net = s.net := rfl
@[simp] theorem State.setCore_out (s : State) (c : Nat) (k : Core) : (s.setCore c k).out = s.out := rfl
@[simp] theorem State.setCore_nextTag (s : State) (c : Nat) (k : Core) : (s.setCore c k).nextTag = s.nextTag := rfl
@[simp] theorem State.setCore_rings (s : State) (c : Nat) (k : Core) : (s.setCore c k).rings = s.rings := rfl
@[simp] theorem State.setCore_actives (s : State) (c : Nat) (k : Core) : (s.setCore c k).actives = s.actives := rfl
@[simp] theorem State.setCore_pendingRings (s : State) (c : Nat) (k : Core) : (s.setCore c k).pendingRings = s.pendingRings := rfl
@[simp] theorem State.setCore_running (s : State) (c : Nat) (k : Core) : (s.setCore c k).running = s.running := rfl
@[simp] theorem State.setCore_jbase (s : State) (c : Nat) (k : Core) : (s.setCore c k).jbase = s.jbase := rfl
@[simp] theorem State.setCore_jlog (s : State) (c : Nat) (k : Core) : (s.setCore c k).jlog = s.jlog := rfl
@[simp] theorem State.setCore_jhead (s : State) (c : Nat) (k : Core) : (s.setCore c k).jhead = s.jhead := rfl
@[simp] theorem State.setCore_jcons (s : State) (c : Nat) (k : Core) : (s.setCore c k).jcons = s.jcons := rfl
@[simp] theorem State.setCore_potb (s : State) (c : Nat) (k : Core) : (s.setCore c k).potb = s.potb := rfl
@[simp] theorem State.setCore_keys (s : State) (c : Nat) (k : Core) : (s.setCore c k).keys = s.keys := rfl
@[simp] theorem State.setCore_ports (s : State) (c : Nat) (k : Core) : (s.setCore c k).ports = s.ports := rfl
@[simp] theorem State.setCore_rounds (s : State) (c : Nat) (k : Core) : (s.setCore c k).rounds = s.rounds := rfl
@[simp] theorem State.setCore_tickets (s : State) (c : Nat) (k : Core) : (s.setCore c k).tickets = s.tickets := rfl
@[simp] theorem State.setCore_ticketWords (s : State) (c : Nat) (k : Core) : (s.setCore c k).ticketWords = s.ticketWords := rfl
@[simp] theorem State.setCore_withheld (s : State) (c : Nat) (k : Core) : (s.setCore c k).withheld = s.withheld := rfl
@[simp] theorem State.setCore_replies (s : State) (c : Nat) (k : Core) : (s.setCore c k).replies = s.replies := rfl
@[simp] theorem State.setCore_group (s : State) (c : Nat) (k : Core) : (s.setCore c k).group = s.group := rfl
@[simp] theorem State.setCore_events (s : State) (c : Nat) (k : Core) : (s.setCore c k).events = s.events := rfl
@[simp] theorem State.setCore_fwrb (s : State) (c : Nat) (k : Core) : (s.setCore c k).fwrb = s.fwrb := rfl
@[simp] theorem State.setCore_fwrlog (s : State) (c : Nat) (k : Core) : (s.setCore c k).fwrlog = s.fwrlog := rfl
@[simp] theorem State.setCore_fwrrsv (s : State) (c : Nat) (k : Core) : (s.setCore c k).fwrrsv = s.fwrrsv := rfl
@[simp] theorem State.setCore_fwrdone (s : State) (c : Nat) (k : Core) : (s.setCore c k).fwrdone = s.fwrdone := rfl
@[simp] theorem State.setCore_boot (s : State) (c : Nat) (k : Core) : (s.setCore c k).boot = s.boot := rfl
@[simp] theorem State.setCore_tasks (s : State) (c : Nat) (k : Core) : (s.setCore c k).tasks = s.tasks := rfl
@[simp] theorem State.setCore_hbmErrs (s : State) (c : Nat) (k : Core) : (s.setCore c k).hbmErrs = s.hbmErrs := rfl
@[simp] theorem State.setCore_broken (s : State) (c : Nat) (k : Core) : (s.setCore c k).broken = s.broken := rfl
@[simp] theorem State.setCore_raised (s : State) (c : Nat) (k : Core) : (s.setCore c k).raised = s.raised := rfl
@[simp] theorem State.setCore_domains (s : State) (c : Nat) (k : Core) : (s.setCore c k).domains = s.domains := rfl
@[simp] theorem State.setCore_works (s : State) (c : Nat) (k : Core) : (s.setCore c k).works = s.works := rfl

@[simp] theorem State.modCore_cur (s : State) (c : Nat) (f : Core → Core) : (s.modCore c f).cur = s.cur := rfl
@[simp] theorem State.modCore_schedule (s : State) (c : Nat) (f : Core → Core) : (s.modCore c f).schedule = s.schedule := rfl
@[simp] theorem State.modCore_fresh (s : State) (c : Nat) (f : Core → Core) : (s.modCore c f).fresh = s.fresh := rfl
@[simp] theorem State.modCore_mem (s : State) (c : Nat) (f : Core → Core) : (s.modCore c f).mem = s.mem := rfl
@[simp] theorem State.modCore_poison (s : State) (c : Nat) (f : Core → Core) : (s.modCore c f).poison = s.poison := rfl
@[simp] theorem State.modCore_lost (s : State) (c : Nat) (f : Core → Core) : (s.modCore c f).lost = s.lost := rfl
@[simp] theorem State.modCore_dies (s : State) (c : Nat) (f : Core → Core) : (s.modCore c f).dies = s.dies := rfl
@[simp] theorem State.modCore_parts (s : State) (c : Nat) (f : Core → Core) : (s.modCore c f).parts = s.parts := rfl
@[simp] theorem State.modCore_pops (s : State) (c : Nat) (f : Core → Core) : (s.modCore c f).pops = s.pops := rfl
@[simp] theorem State.modCore_nextPop (s : State) (c : Nat) (f : Core → Core) : (s.modCore c f).nextPop = s.nextPop := rfl
@[simp] theorem State.modCore_net (s : State) (c : Nat) (f : Core → Core) : (s.modCore c f).net = s.net := rfl
@[simp] theorem State.modCore_out (s : State) (c : Nat) (f : Core → Core) : (s.modCore c f).out = s.out := rfl
@[simp] theorem State.modCore_nextTag (s : State) (c : Nat) (f : Core → Core) : (s.modCore c f).nextTag = s.nextTag := rfl
@[simp] theorem State.modCore_rings (s : State) (c : Nat) (f : Core → Core) : (s.modCore c f).rings = s.rings := rfl
@[simp] theorem State.modCore_actives (s : State) (c : Nat) (f : Core → Core) : (s.modCore c f).actives = s.actives := rfl
@[simp] theorem State.modCore_pendingRings (s : State) (c : Nat) (f : Core → Core) : (s.modCore c f).pendingRings = s.pendingRings := rfl
@[simp] theorem State.modCore_running (s : State) (c : Nat) (f : Core → Core) : (s.modCore c f).running = s.running := rfl
@[simp] theorem State.modCore_jbase (s : State) (c : Nat) (f : Core → Core) : (s.modCore c f).jbase = s.jbase := rfl
@[simp] theorem State.modCore_jlog (s : State) (c : Nat) (f : Core → Core) : (s.modCore c f).jlog = s.jlog := rfl
@[simp] theorem State.modCore_jhead (s : State) (c : Nat) (f : Core → Core) : (s.modCore c f).jhead = s.jhead := rfl
@[simp] theorem State.modCore_jcons (s : State) (c : Nat) (f : Core → Core) : (s.modCore c f).jcons = s.jcons := rfl
@[simp] theorem State.modCore_potb (s : State) (c : Nat) (f : Core → Core) : (s.modCore c f).potb = s.potb := rfl
@[simp] theorem State.modCore_keys (s : State) (c : Nat) (f : Core → Core) : (s.modCore c f).keys = s.keys := rfl
@[simp] theorem State.modCore_ports (s : State) (c : Nat) (f : Core → Core) : (s.modCore c f).ports = s.ports := rfl
@[simp] theorem State.modCore_rounds (s : State) (c : Nat) (f : Core → Core) : (s.modCore c f).rounds = s.rounds := rfl
@[simp] theorem State.modCore_tickets (s : State) (c : Nat) (f : Core → Core) : (s.modCore c f).tickets = s.tickets := rfl
@[simp] theorem State.modCore_ticketWords (s : State) (c : Nat) (f : Core → Core) : (s.modCore c f).ticketWords = s.ticketWords := rfl
@[simp] theorem State.modCore_withheld (s : State) (c : Nat) (f : Core → Core) : (s.modCore c f).withheld = s.withheld := rfl
@[simp] theorem State.modCore_replies (s : State) (c : Nat) (f : Core → Core) : (s.modCore c f).replies = s.replies := rfl
@[simp] theorem State.modCore_group (s : State) (c : Nat) (f : Core → Core) : (s.modCore c f).group = s.group := rfl
@[simp] theorem State.modCore_events (s : State) (c : Nat) (f : Core → Core) : (s.modCore c f).events = s.events := rfl
@[simp] theorem State.modCore_fwrb (s : State) (c : Nat) (f : Core → Core) : (s.modCore c f).fwrb = s.fwrb := rfl
@[simp] theorem State.modCore_fwrlog (s : State) (c : Nat) (f : Core → Core) : (s.modCore c f).fwrlog = s.fwrlog := rfl
@[simp] theorem State.modCore_fwrrsv (s : State) (c : Nat) (f : Core → Core) : (s.modCore c f).fwrrsv = s.fwrrsv := rfl
@[simp] theorem State.modCore_fwrdone (s : State) (c : Nat) (f : Core → Core) : (s.modCore c f).fwrdone = s.fwrdone := rfl
@[simp] theorem State.modCore_boot (s : State) (c : Nat) (f : Core → Core) : (s.modCore c f).boot = s.boot := rfl
@[simp] theorem State.modCore_tasks (s : State) (c : Nat) (f : Core → Core) : (s.modCore c f).tasks = s.tasks := rfl
@[simp] theorem State.modCore_hbmErrs (s : State) (c : Nat) (f : Core → Core) : (s.modCore c f).hbmErrs = s.hbmErrs := rfl
@[simp] theorem State.modCore_broken (s : State) (c : Nat) (f : Core → Core) : (s.modCore c f).broken = s.broken := rfl
@[simp] theorem State.modCore_raised (s : State) (c : Nat) (f : Core → Core) : (s.modCore c f).raised = s.raised := rfl
@[simp] theorem State.modCore_domains (s : State) (c : Nat) (f : Core → Core) : (s.modCore c f).domains = s.domains := rfl
@[simp] theorem State.modCore_works (s : State) (c : Nat) (f : Core → Core) : (s.modCore c f).works = s.works := rfl

@[simp] theorem State.modSlot_cur (s : State) (p : Place) (f : Slot → Slot) : (s.modSlot p f).cur = s.cur := rfl
@[simp] theorem State.modSlot_schedule (s : State) (p : Place) (f : Slot → Slot) : (s.modSlot p f).schedule = s.schedule := rfl
@[simp] theorem State.modSlot_fresh (s : State) (p : Place) (f : Slot → Slot) : (s.modSlot p f).fresh = s.fresh := rfl
@[simp] theorem State.modSlot_mem (s : State) (p : Place) (f : Slot → Slot) : (s.modSlot p f).mem = s.mem := rfl
@[simp] theorem State.modSlot_poison (s : State) (p : Place) (f : Slot → Slot) : (s.modSlot p f).poison = s.poison := rfl
@[simp] theorem State.modSlot_lost (s : State) (p : Place) (f : Slot → Slot) : (s.modSlot p f).lost = s.lost := rfl
@[simp] theorem State.modSlot_dies (s : State) (p : Place) (f : Slot → Slot) : (s.modSlot p f).dies = s.dies := rfl
@[simp] theorem State.modSlot_parts (s : State) (p : Place) (f : Slot → Slot) : (s.modSlot p f).parts = s.parts := rfl
@[simp] theorem State.modSlot_pops (s : State) (p : Place) (f : Slot → Slot) : (s.modSlot p f).pops = s.pops := rfl
@[simp] theorem State.modSlot_nextPop (s : State) (p : Place) (f : Slot → Slot) : (s.modSlot p f).nextPop = s.nextPop := rfl
@[simp] theorem State.modSlot_net (s : State) (p : Place) (f : Slot → Slot) : (s.modSlot p f).net = s.net := rfl
@[simp] theorem State.modSlot_out (s : State) (p : Place) (f : Slot → Slot) : (s.modSlot p f).out = s.out := rfl
@[simp] theorem State.modSlot_nextTag (s : State) (p : Place) (f : Slot → Slot) : (s.modSlot p f).nextTag = s.nextTag := rfl
@[simp] theorem State.modSlot_rings (s : State) (p : Place) (f : Slot → Slot) : (s.modSlot p f).rings = s.rings := rfl
@[simp] theorem State.modSlot_actives (s : State) (p : Place) (f : Slot → Slot) : (s.modSlot p f).actives = s.actives := rfl
@[simp] theorem State.modSlot_pendingRings (s : State) (p : Place) (f : Slot → Slot) : (s.modSlot p f).pendingRings = s.pendingRings := rfl
@[simp] theorem State.modSlot_running (s : State) (p : Place) (f : Slot → Slot) : (s.modSlot p f).running = s.running := rfl
@[simp] theorem State.modSlot_jbase (s : State) (p : Place) (f : Slot → Slot) : (s.modSlot p f).jbase = s.jbase := rfl
@[simp] theorem State.modSlot_jlog (s : State) (p : Place) (f : Slot → Slot) : (s.modSlot p f).jlog = s.jlog := rfl
@[simp] theorem State.modSlot_jhead (s : State) (p : Place) (f : Slot → Slot) : (s.modSlot p f).jhead = s.jhead := rfl
@[simp] theorem State.modSlot_jcons (s : State) (p : Place) (f : Slot → Slot) : (s.modSlot p f).jcons = s.jcons := rfl
@[simp] theorem State.modSlot_potb (s : State) (p : Place) (f : Slot → Slot) : (s.modSlot p f).potb = s.potb := rfl
@[simp] theorem State.modSlot_keys (s : State) (p : Place) (f : Slot → Slot) : (s.modSlot p f).keys = s.keys := rfl
@[simp] theorem State.modSlot_ports (s : State) (p : Place) (f : Slot → Slot) : (s.modSlot p f).ports = s.ports := rfl
@[simp] theorem State.modSlot_rounds (s : State) (p : Place) (f : Slot → Slot) : (s.modSlot p f).rounds = s.rounds := rfl
@[simp] theorem State.modSlot_tickets (s : State) (p : Place) (f : Slot → Slot) : (s.modSlot p f).tickets = s.tickets := rfl
@[simp] theorem State.modSlot_ticketWords (s : State) (p : Place) (f : Slot → Slot) : (s.modSlot p f).ticketWords = s.ticketWords := rfl
@[simp] theorem State.modSlot_withheld (s : State) (p : Place) (f : Slot → Slot) : (s.modSlot p f).withheld = s.withheld := rfl
@[simp] theorem State.modSlot_replies (s : State) (p : Place) (f : Slot → Slot) : (s.modSlot p f).replies = s.replies := rfl
@[simp] theorem State.modSlot_group (s : State) (p : Place) (f : Slot → Slot) : (s.modSlot p f).group = s.group := rfl
@[simp] theorem State.modSlot_events (s : State) (p : Place) (f : Slot → Slot) : (s.modSlot p f).events = s.events := rfl
@[simp] theorem State.modSlot_fwrb (s : State) (p : Place) (f : Slot → Slot) : (s.modSlot p f).fwrb = s.fwrb := rfl
@[simp] theorem State.modSlot_fwrlog (s : State) (p : Place) (f : Slot → Slot) : (s.modSlot p f).fwrlog = s.fwrlog := rfl
@[simp] theorem State.modSlot_fwrrsv (s : State) (p : Place) (f : Slot → Slot) : (s.modSlot p f).fwrrsv = s.fwrrsv := rfl
@[simp] theorem State.modSlot_fwrdone (s : State) (p : Place) (f : Slot → Slot) : (s.modSlot p f).fwrdone = s.fwrdone := rfl
@[simp] theorem State.modSlot_boot (s : State) (p : Place) (f : Slot → Slot) : (s.modSlot p f).boot = s.boot := rfl
@[simp] theorem State.modSlot_tasks (s : State) (p : Place) (f : Slot → Slot) : (s.modSlot p f).tasks = s.tasks := rfl
@[simp] theorem State.modSlot_hbmErrs (s : State) (p : Place) (f : Slot → Slot) : (s.modSlot p f).hbmErrs = s.hbmErrs := rfl
@[simp] theorem State.modSlot_broken (s : State) (p : Place) (f : Slot → Slot) : (s.modSlot p f).broken = s.broken := rfl
@[simp] theorem State.modSlot_raised (s : State) (p : Place) (f : Slot → Slot) : (s.modSlot p f).raised = s.raised := rfl
@[simp] theorem State.modSlot_domains (s : State) (p : Place) (f : Slot → Slot) : (s.modSlot p f).domains = s.domains := rfl
@[simp] theorem State.modSlot_works (s : State) (p : Place) (f : Slot → Slot) : (s.modSlot p f).works = s.works := rfl

@[simp] theorem State.modMe_cur (s : State) (f : Slot → Slot) : (s.modMe f).cur = s.cur := rfl
@[simp] theorem State.modMe_schedule (s : State) (f : Slot → Slot) : (s.modMe f).schedule = s.schedule := rfl
@[simp] theorem State.modMe_fresh (s : State) (f : Slot → Slot) : (s.modMe f).fresh = s.fresh := rfl
@[simp] theorem State.modMe_mem (s : State) (f : Slot → Slot) : (s.modMe f).mem = s.mem := rfl
@[simp] theorem State.modMe_poison (s : State) (f : Slot → Slot) : (s.modMe f).poison = s.poison := rfl
@[simp] theorem State.modMe_lost (s : State) (f : Slot → Slot) : (s.modMe f).lost = s.lost := rfl
@[simp] theorem State.modMe_dies (s : State) (f : Slot → Slot) : (s.modMe f).dies = s.dies := rfl
@[simp] theorem State.modMe_parts (s : State) (f : Slot → Slot) : (s.modMe f).parts = s.parts := rfl
@[simp] theorem State.modMe_pops (s : State) (f : Slot → Slot) : (s.modMe f).pops = s.pops := rfl
@[simp] theorem State.modMe_nextPop (s : State) (f : Slot → Slot) : (s.modMe f).nextPop = s.nextPop := rfl
@[simp] theorem State.modMe_net (s : State) (f : Slot → Slot) : (s.modMe f).net = s.net := rfl
@[simp] theorem State.modMe_out (s : State) (f : Slot → Slot) : (s.modMe f).out = s.out := rfl
@[simp] theorem State.modMe_nextTag (s : State) (f : Slot → Slot) : (s.modMe f).nextTag = s.nextTag := rfl
@[simp] theorem State.modMe_rings (s : State) (f : Slot → Slot) : (s.modMe f).rings = s.rings := rfl
@[simp] theorem State.modMe_actives (s : State) (f : Slot → Slot) : (s.modMe f).actives = s.actives := rfl
@[simp] theorem State.modMe_pendingRings (s : State) (f : Slot → Slot) : (s.modMe f).pendingRings = s.pendingRings := rfl
@[simp] theorem State.modMe_running (s : State) (f : Slot → Slot) : (s.modMe f).running = s.running := rfl
@[simp] theorem State.modMe_jbase (s : State) (f : Slot → Slot) : (s.modMe f).jbase = s.jbase := rfl
@[simp] theorem State.modMe_jlog (s : State) (f : Slot → Slot) : (s.modMe f).jlog = s.jlog := rfl
@[simp] theorem State.modMe_jhead (s : State) (f : Slot → Slot) : (s.modMe f).jhead = s.jhead := rfl
@[simp] theorem State.modMe_jcons (s : State) (f : Slot → Slot) : (s.modMe f).jcons = s.jcons := rfl
@[simp] theorem State.modMe_potb (s : State) (f : Slot → Slot) : (s.modMe f).potb = s.potb := rfl
@[simp] theorem State.modMe_keys (s : State) (f : Slot → Slot) : (s.modMe f).keys = s.keys := rfl
@[simp] theorem State.modMe_ports (s : State) (f : Slot → Slot) : (s.modMe f).ports = s.ports := rfl
@[simp] theorem State.modMe_rounds (s : State) (f : Slot → Slot) : (s.modMe f).rounds = s.rounds := rfl
@[simp] theorem State.modMe_tickets (s : State) (f : Slot → Slot) : (s.modMe f).tickets = s.tickets := rfl
@[simp] theorem State.modMe_ticketWords (s : State) (f : Slot → Slot) : (s.modMe f).ticketWords = s.ticketWords := rfl
@[simp] theorem State.modMe_withheld (s : State) (f : Slot → Slot) : (s.modMe f).withheld = s.withheld := rfl
@[simp] theorem State.modMe_replies (s : State) (f : Slot → Slot) : (s.modMe f).replies = s.replies := rfl
@[simp] theorem State.modMe_group (s : State) (f : Slot → Slot) : (s.modMe f).group = s.group := rfl
@[simp] theorem State.modMe_events (s : State) (f : Slot → Slot) : (s.modMe f).events = s.events := rfl
@[simp] theorem State.modMe_fwrb (s : State) (f : Slot → Slot) : (s.modMe f).fwrb = s.fwrb := rfl
@[simp] theorem State.modMe_fwrlog (s : State) (f : Slot → Slot) : (s.modMe f).fwrlog = s.fwrlog := rfl
@[simp] theorem State.modMe_fwrrsv (s : State) (f : Slot → Slot) : (s.modMe f).fwrrsv = s.fwrrsv := rfl
@[simp] theorem State.modMe_fwrdone (s : State) (f : Slot → Slot) : (s.modMe f).fwrdone = s.fwrdone := rfl
@[simp] theorem State.modMe_boot (s : State) (f : Slot → Slot) : (s.modMe f).boot = s.boot := rfl
@[simp] theorem State.modMe_tasks (s : State) (f : Slot → Slot) : (s.modMe f).tasks = s.tasks := rfl
@[simp] theorem State.modMe_hbmErrs (s : State) (f : Slot → Slot) : (s.modMe f).hbmErrs = s.hbmErrs := rfl
@[simp] theorem State.modMe_broken (s : State) (f : Slot → Slot) : (s.modMe f).broken = s.broken := rfl
@[simp] theorem State.modMe_raised (s : State) (f : Slot → Slot) : (s.modMe f).raised = s.raised := rfl
@[simp] theorem State.modMe_domains (s : State) (f : Slot → Slot) : (s.modMe f).domains = s.domains := rfl
@[simp] theorem State.modMe_works (s : State) (f : Slot → Slot) : (s.modMe f).works = s.works := rfl

@[simp] theorem State.modMyCore_cur (s : State) (f : Core → Core) : (s.modMyCore f).cur = s.cur := rfl
@[simp] theorem State.modMyCore_schedule (s : State) (f : Core → Core) : (s.modMyCore f).schedule = s.schedule := rfl
@[simp] theorem State.modMyCore_fresh (s : State) (f : Core → Core) : (s.modMyCore f).fresh = s.fresh := rfl
@[simp] theorem State.modMyCore_mem (s : State) (f : Core → Core) : (s.modMyCore f).mem = s.mem := rfl
@[simp] theorem State.modMyCore_poison (s : State) (f : Core → Core) : (s.modMyCore f).poison = s.poison := rfl
@[simp] theorem State.modMyCore_lost (s : State) (f : Core → Core) : (s.modMyCore f).lost = s.lost := rfl
@[simp] theorem State.modMyCore_dies (s : State) (f : Core → Core) : (s.modMyCore f).dies = s.dies := rfl
@[simp] theorem State.modMyCore_parts (s : State) (f : Core → Core) : (s.modMyCore f).parts = s.parts := rfl
@[simp] theorem State.modMyCore_pops (s : State) (f : Core → Core) : (s.modMyCore f).pops = s.pops := rfl
@[simp] theorem State.modMyCore_nextPop (s : State) (f : Core → Core) : (s.modMyCore f).nextPop = s.nextPop := rfl
@[simp] theorem State.modMyCore_net (s : State) (f : Core → Core) : (s.modMyCore f).net = s.net := rfl
@[simp] theorem State.modMyCore_out (s : State) (f : Core → Core) : (s.modMyCore f).out = s.out := rfl
@[simp] theorem State.modMyCore_nextTag (s : State) (f : Core → Core) : (s.modMyCore f).nextTag = s.nextTag := rfl
@[simp] theorem State.modMyCore_rings (s : State) (f : Core → Core) : (s.modMyCore f).rings = s.rings := rfl
@[simp] theorem State.modMyCore_actives (s : State) (f : Core → Core) : (s.modMyCore f).actives = s.actives := rfl
@[simp] theorem State.modMyCore_pendingRings (s : State) (f : Core → Core) : (s.modMyCore f).pendingRings = s.pendingRings := rfl
@[simp] theorem State.modMyCore_running (s : State) (f : Core → Core) : (s.modMyCore f).running = s.running := rfl
@[simp] theorem State.modMyCore_jbase (s : State) (f : Core → Core) : (s.modMyCore f).jbase = s.jbase := rfl
@[simp] theorem State.modMyCore_jlog (s : State) (f : Core → Core) : (s.modMyCore f).jlog = s.jlog := rfl
@[simp] theorem State.modMyCore_jhead (s : State) (f : Core → Core) : (s.modMyCore f).jhead = s.jhead := rfl
@[simp] theorem State.modMyCore_jcons (s : State) (f : Core → Core) : (s.modMyCore f).jcons = s.jcons := rfl
@[simp] theorem State.modMyCore_potb (s : State) (f : Core → Core) : (s.modMyCore f).potb = s.potb := rfl
@[simp] theorem State.modMyCore_keys (s : State) (f : Core → Core) : (s.modMyCore f).keys = s.keys := rfl
@[simp] theorem State.modMyCore_ports (s : State) (f : Core → Core) : (s.modMyCore f).ports = s.ports := rfl
@[simp] theorem State.modMyCore_rounds (s : State) (f : Core → Core) : (s.modMyCore f).rounds = s.rounds := rfl
@[simp] theorem State.modMyCore_tickets (s : State) (f : Core → Core) : (s.modMyCore f).tickets = s.tickets := rfl
@[simp] theorem State.modMyCore_ticketWords (s : State) (f : Core → Core) : (s.modMyCore f).ticketWords = s.ticketWords := rfl
@[simp] theorem State.modMyCore_withheld (s : State) (f : Core → Core) : (s.modMyCore f).withheld = s.withheld := rfl
@[simp] theorem State.modMyCore_replies (s : State) (f : Core → Core) : (s.modMyCore f).replies = s.replies := rfl
@[simp] theorem State.modMyCore_group (s : State) (f : Core → Core) : (s.modMyCore f).group = s.group := rfl
@[simp] theorem State.modMyCore_events (s : State) (f : Core → Core) : (s.modMyCore f).events = s.events := rfl
@[simp] theorem State.modMyCore_fwrb (s : State) (f : Core → Core) : (s.modMyCore f).fwrb = s.fwrb := rfl
@[simp] theorem State.modMyCore_fwrlog (s : State) (f : Core → Core) : (s.modMyCore f).fwrlog = s.fwrlog := rfl
@[simp] theorem State.modMyCore_fwrrsv (s : State) (f : Core → Core) : (s.modMyCore f).fwrrsv = s.fwrrsv := rfl
@[simp] theorem State.modMyCore_fwrdone (s : State) (f : Core → Core) : (s.modMyCore f).fwrdone = s.fwrdone := rfl
@[simp] theorem State.modMyCore_boot (s : State) (f : Core → Core) : (s.modMyCore f).boot = s.boot := rfl
@[simp] theorem State.modMyCore_tasks (s : State) (f : Core → Core) : (s.modMyCore f).tasks = s.tasks := rfl
@[simp] theorem State.modMyCore_hbmErrs (s : State) (f : Core → Core) : (s.modMyCore f).hbmErrs = s.hbmErrs := rfl
@[simp] theorem State.modMyCore_broken (s : State) (f : Core → Core) : (s.modMyCore f).broken = s.broken := rfl
@[simp] theorem State.modMyCore_raised (s : State) (f : Core → Core) : (s.modMyCore f).raised = s.raised := rfl
@[simp] theorem State.modMyCore_domains (s : State) (f : Core → Core) : (s.modMyCore f).domains = s.domains := rfl
@[simp] theorem State.modMyCore_works (s : State) (f : Core → Core) : (s.modMyCore f).works = s.works := rfl

@[simp] theorem State.setX_cur (s : State) (r : XReg) (v : Word) : (s.setX r v).cur = s.cur := rfl
@[simp] theorem State.setX_schedule (s : State) (r : XReg) (v : Word) : (s.setX r v).schedule = s.schedule := rfl
@[simp] theorem State.setX_fresh (s : State) (r : XReg) (v : Word) : (s.setX r v).fresh = s.fresh := rfl
@[simp] theorem State.setX_mem (s : State) (r : XReg) (v : Word) : (s.setX r v).mem = s.mem := rfl
@[simp] theorem State.setX_poison (s : State) (r : XReg) (v : Word) : (s.setX r v).poison = s.poison := rfl
@[simp] theorem State.setX_lost (s : State) (r : XReg) (v : Word) : (s.setX r v).lost = s.lost := rfl
@[simp] theorem State.setX_dies (s : State) (r : XReg) (v : Word) : (s.setX r v).dies = s.dies := rfl
@[simp] theorem State.setX_parts (s : State) (r : XReg) (v : Word) : (s.setX r v).parts = s.parts := rfl
@[simp] theorem State.setX_pops (s : State) (r : XReg) (v : Word) : (s.setX r v).pops = s.pops := rfl
@[simp] theorem State.setX_nextPop (s : State) (r : XReg) (v : Word) : (s.setX r v).nextPop = s.nextPop := rfl
@[simp] theorem State.setX_net (s : State) (r : XReg) (v : Word) : (s.setX r v).net = s.net := rfl
@[simp] theorem State.setX_out (s : State) (r : XReg) (v : Word) : (s.setX r v).out = s.out := rfl
@[simp] theorem State.setX_nextTag (s : State) (r : XReg) (v : Word) : (s.setX r v).nextTag = s.nextTag := rfl
@[simp] theorem State.setX_rings (s : State) (r : XReg) (v : Word) : (s.setX r v).rings = s.rings := rfl
@[simp] theorem State.setX_actives (s : State) (r : XReg) (v : Word) : (s.setX r v).actives = s.actives := rfl
@[simp] theorem State.setX_pendingRings (s : State) (r : XReg) (v : Word) : (s.setX r v).pendingRings = s.pendingRings := rfl
@[simp] theorem State.setX_running (s : State) (r : XReg) (v : Word) : (s.setX r v).running = s.running := rfl
@[simp] theorem State.setX_jbase (s : State) (r : XReg) (v : Word) : (s.setX r v).jbase = s.jbase := rfl
@[simp] theorem State.setX_jlog (s : State) (r : XReg) (v : Word) : (s.setX r v).jlog = s.jlog := rfl
@[simp] theorem State.setX_jhead (s : State) (r : XReg) (v : Word) : (s.setX r v).jhead = s.jhead := rfl
@[simp] theorem State.setX_jcons (s : State) (r : XReg) (v : Word) : (s.setX r v).jcons = s.jcons := rfl
@[simp] theorem State.setX_potb (s : State) (r : XReg) (v : Word) : (s.setX r v).potb = s.potb := rfl
@[simp] theorem State.setX_keys (s : State) (r : XReg) (v : Word) : (s.setX r v).keys = s.keys := rfl
@[simp] theorem State.setX_ports (s : State) (r : XReg) (v : Word) : (s.setX r v).ports = s.ports := rfl
@[simp] theorem State.setX_rounds (s : State) (r : XReg) (v : Word) : (s.setX r v).rounds = s.rounds := rfl
@[simp] theorem State.setX_tickets (s : State) (r : XReg) (v : Word) : (s.setX r v).tickets = s.tickets := rfl
@[simp] theorem State.setX_ticketWords (s : State) (r : XReg) (v : Word) : (s.setX r v).ticketWords = s.ticketWords := rfl
@[simp] theorem State.setX_withheld (s : State) (r : XReg) (v : Word) : (s.setX r v).withheld = s.withheld := rfl
@[simp] theorem State.setX_replies (s : State) (r : XReg) (v : Word) : (s.setX r v).replies = s.replies := rfl
@[simp] theorem State.setX_group (s : State) (r : XReg) (v : Word) : (s.setX r v).group = s.group := rfl
@[simp] theorem State.setX_events (s : State) (r : XReg) (v : Word) : (s.setX r v).events = s.events := rfl
@[simp] theorem State.setX_fwrb (s : State) (r : XReg) (v : Word) : (s.setX r v).fwrb = s.fwrb := rfl
@[simp] theorem State.setX_fwrlog (s : State) (r : XReg) (v : Word) : (s.setX r v).fwrlog = s.fwrlog := rfl
@[simp] theorem State.setX_fwrrsv (s : State) (r : XReg) (v : Word) : (s.setX r v).fwrrsv = s.fwrrsv := rfl
@[simp] theorem State.setX_fwrdone (s : State) (r : XReg) (v : Word) : (s.setX r v).fwrdone = s.fwrdone := rfl
@[simp] theorem State.setX_boot (s : State) (r : XReg) (v : Word) : (s.setX r v).boot = s.boot := rfl
@[simp] theorem State.setX_tasks (s : State) (r : XReg) (v : Word) : (s.setX r v).tasks = s.tasks := rfl
@[simp] theorem State.setX_hbmErrs (s : State) (r : XReg) (v : Word) : (s.setX r v).hbmErrs = s.hbmErrs := rfl
@[simp] theorem State.setX_broken (s : State) (r : XReg) (v : Word) : (s.setX r v).broken = s.broken := rfl
@[simp] theorem State.setX_raised (s : State) (r : XReg) (v : Word) : (s.setX r v).raised = s.raised := rfl
@[simp] theorem State.setX_domains (s : State) (r : XReg) (v : Word) : (s.setX r v).domains = s.domains := rfl
@[simp] theorem State.setX_works (s : State) (r : XReg) (v : Word) : (s.setX r v).works = s.works := rfl

@[simp] theorem State.setP_cur (s : State) (r : PReg) (b : Bool) : (s.setP r b).cur = s.cur := rfl
@[simp] theorem State.setP_schedule (s : State) (r : PReg) (b : Bool) : (s.setP r b).schedule = s.schedule := rfl
@[simp] theorem State.setP_fresh (s : State) (r : PReg) (b : Bool) : (s.setP r b).fresh = s.fresh := rfl
@[simp] theorem State.setP_mem (s : State) (r : PReg) (b : Bool) : (s.setP r b).mem = s.mem := rfl
@[simp] theorem State.setP_poison (s : State) (r : PReg) (b : Bool) : (s.setP r b).poison = s.poison := rfl
@[simp] theorem State.setP_lost (s : State) (r : PReg) (b : Bool) : (s.setP r b).lost = s.lost := rfl
@[simp] theorem State.setP_dies (s : State) (r : PReg) (b : Bool) : (s.setP r b).dies = s.dies := rfl
@[simp] theorem State.setP_parts (s : State) (r : PReg) (b : Bool) : (s.setP r b).parts = s.parts := rfl
@[simp] theorem State.setP_pops (s : State) (r : PReg) (b : Bool) : (s.setP r b).pops = s.pops := rfl
@[simp] theorem State.setP_nextPop (s : State) (r : PReg) (b : Bool) : (s.setP r b).nextPop = s.nextPop := rfl
@[simp] theorem State.setP_net (s : State) (r : PReg) (b : Bool) : (s.setP r b).net = s.net := rfl
@[simp] theorem State.setP_out (s : State) (r : PReg) (b : Bool) : (s.setP r b).out = s.out := rfl
@[simp] theorem State.setP_nextTag (s : State) (r : PReg) (b : Bool) : (s.setP r b).nextTag = s.nextTag := rfl
@[simp] theorem State.setP_rings (s : State) (r : PReg) (b : Bool) : (s.setP r b).rings = s.rings := rfl
@[simp] theorem State.setP_actives (s : State) (r : PReg) (b : Bool) : (s.setP r b).actives = s.actives := rfl
@[simp] theorem State.setP_pendingRings (s : State) (r : PReg) (b : Bool) : (s.setP r b).pendingRings = s.pendingRings := rfl
@[simp] theorem State.setP_running (s : State) (r : PReg) (b : Bool) : (s.setP r b).running = s.running := rfl
@[simp] theorem State.setP_jbase (s : State) (r : PReg) (b : Bool) : (s.setP r b).jbase = s.jbase := rfl
@[simp] theorem State.setP_jlog (s : State) (r : PReg) (b : Bool) : (s.setP r b).jlog = s.jlog := rfl
@[simp] theorem State.setP_jhead (s : State) (r : PReg) (b : Bool) : (s.setP r b).jhead = s.jhead := rfl
@[simp] theorem State.setP_jcons (s : State) (r : PReg) (b : Bool) : (s.setP r b).jcons = s.jcons := rfl
@[simp] theorem State.setP_potb (s : State) (r : PReg) (b : Bool) : (s.setP r b).potb = s.potb := rfl
@[simp] theorem State.setP_keys (s : State) (r : PReg) (b : Bool) : (s.setP r b).keys = s.keys := rfl
@[simp] theorem State.setP_ports (s : State) (r : PReg) (b : Bool) : (s.setP r b).ports = s.ports := rfl
@[simp] theorem State.setP_rounds (s : State) (r : PReg) (b : Bool) : (s.setP r b).rounds = s.rounds := rfl
@[simp] theorem State.setP_tickets (s : State) (r : PReg) (b : Bool) : (s.setP r b).tickets = s.tickets := rfl
@[simp] theorem State.setP_ticketWords (s : State) (r : PReg) (b : Bool) : (s.setP r b).ticketWords = s.ticketWords := rfl
@[simp] theorem State.setP_withheld (s : State) (r : PReg) (b : Bool) : (s.setP r b).withheld = s.withheld := rfl
@[simp] theorem State.setP_replies (s : State) (r : PReg) (b : Bool) : (s.setP r b).replies = s.replies := rfl
@[simp] theorem State.setP_group (s : State) (r : PReg) (b : Bool) : (s.setP r b).group = s.group := rfl
@[simp] theorem State.setP_events (s : State) (r : PReg) (b : Bool) : (s.setP r b).events = s.events := rfl
@[simp] theorem State.setP_fwrb (s : State) (r : PReg) (b : Bool) : (s.setP r b).fwrb = s.fwrb := rfl
@[simp] theorem State.setP_fwrlog (s : State) (r : PReg) (b : Bool) : (s.setP r b).fwrlog = s.fwrlog := rfl
@[simp] theorem State.setP_fwrrsv (s : State) (r : PReg) (b : Bool) : (s.setP r b).fwrrsv = s.fwrrsv := rfl
@[simp] theorem State.setP_fwrdone (s : State) (r : PReg) (b : Bool) : (s.setP r b).fwrdone = s.fwrdone := rfl
@[simp] theorem State.setP_boot (s : State) (r : PReg) (b : Bool) : (s.setP r b).boot = s.boot := rfl
@[simp] theorem State.setP_tasks (s : State) (r : PReg) (b : Bool) : (s.setP r b).tasks = s.tasks := rfl
@[simp] theorem State.setP_hbmErrs (s : State) (r : PReg) (b : Bool) : (s.setP r b).hbmErrs = s.hbmErrs := rfl
@[simp] theorem State.setP_broken (s : State) (r : PReg) (b : Bool) : (s.setP r b).broken = s.broken := rfl
@[simp] theorem State.setP_raised (s : State) (r : PReg) (b : Bool) : (s.setP r b).raised = s.raised := rfl
@[simp] theorem State.setP_domains (s : State) (r : PReg) (b : Bool) : (s.setP r b).domains = s.domains := rfl
@[simp] theorem State.setP_works (s : State) (r : PReg) (b : Bool) : (s.setP r b).works = s.works := rfl

@[simp] theorem State.setV_cur (s : State) (r : VReg) (v : Vec) : (s.setV r v).cur = s.cur := rfl
@[simp] theorem State.setV_schedule (s : State) (r : VReg) (v : Vec) : (s.setV r v).schedule = s.schedule := rfl
@[simp] theorem State.setV_fresh (s : State) (r : VReg) (v : Vec) : (s.setV r v).fresh = s.fresh := rfl
@[simp] theorem State.setV_mem (s : State) (r : VReg) (v : Vec) : (s.setV r v).mem = s.mem := rfl
@[simp] theorem State.setV_poison (s : State) (r : VReg) (v : Vec) : (s.setV r v).poison = s.poison := rfl
@[simp] theorem State.setV_lost (s : State) (r : VReg) (v : Vec) : (s.setV r v).lost = s.lost := rfl
@[simp] theorem State.setV_dies (s : State) (r : VReg) (v : Vec) : (s.setV r v).dies = s.dies := rfl
@[simp] theorem State.setV_parts (s : State) (r : VReg) (v : Vec) : (s.setV r v).parts = s.parts := rfl
@[simp] theorem State.setV_pops (s : State) (r : VReg) (v : Vec) : (s.setV r v).pops = s.pops := rfl
@[simp] theorem State.setV_nextPop (s : State) (r : VReg) (v : Vec) : (s.setV r v).nextPop = s.nextPop := rfl
@[simp] theorem State.setV_net (s : State) (r : VReg) (v : Vec) : (s.setV r v).net = s.net := rfl
@[simp] theorem State.setV_out (s : State) (r : VReg) (v : Vec) : (s.setV r v).out = s.out := rfl
@[simp] theorem State.setV_nextTag (s : State) (r : VReg) (v : Vec) : (s.setV r v).nextTag = s.nextTag := rfl
@[simp] theorem State.setV_rings (s : State) (r : VReg) (v : Vec) : (s.setV r v).rings = s.rings := rfl
@[simp] theorem State.setV_actives (s : State) (r : VReg) (v : Vec) : (s.setV r v).actives = s.actives := rfl
@[simp] theorem State.setV_pendingRings (s : State) (r : VReg) (v : Vec) : (s.setV r v).pendingRings = s.pendingRings := rfl
@[simp] theorem State.setV_running (s : State) (r : VReg) (v : Vec) : (s.setV r v).running = s.running := rfl
@[simp] theorem State.setV_jbase (s : State) (r : VReg) (v : Vec) : (s.setV r v).jbase = s.jbase := rfl
@[simp] theorem State.setV_jlog (s : State) (r : VReg) (v : Vec) : (s.setV r v).jlog = s.jlog := rfl
@[simp] theorem State.setV_jhead (s : State) (r : VReg) (v : Vec) : (s.setV r v).jhead = s.jhead := rfl
@[simp] theorem State.setV_jcons (s : State) (r : VReg) (v : Vec) : (s.setV r v).jcons = s.jcons := rfl
@[simp] theorem State.setV_potb (s : State) (r : VReg) (v : Vec) : (s.setV r v).potb = s.potb := rfl
@[simp] theorem State.setV_keys (s : State) (r : VReg) (v : Vec) : (s.setV r v).keys = s.keys := rfl
@[simp] theorem State.setV_ports (s : State) (r : VReg) (v : Vec) : (s.setV r v).ports = s.ports := rfl
@[simp] theorem State.setV_rounds (s : State) (r : VReg) (v : Vec) : (s.setV r v).rounds = s.rounds := rfl
@[simp] theorem State.setV_tickets (s : State) (r : VReg) (v : Vec) : (s.setV r v).tickets = s.tickets := rfl
@[simp] theorem State.setV_ticketWords (s : State) (r : VReg) (v : Vec) : (s.setV r v).ticketWords = s.ticketWords := rfl
@[simp] theorem State.setV_withheld (s : State) (r : VReg) (v : Vec) : (s.setV r v).withheld = s.withheld := rfl
@[simp] theorem State.setV_replies (s : State) (r : VReg) (v : Vec) : (s.setV r v).replies = s.replies := rfl
@[simp] theorem State.setV_group (s : State) (r : VReg) (v : Vec) : (s.setV r v).group = s.group := rfl
@[simp] theorem State.setV_events (s : State) (r : VReg) (v : Vec) : (s.setV r v).events = s.events := rfl
@[simp] theorem State.setV_fwrb (s : State) (r : VReg) (v : Vec) : (s.setV r v).fwrb = s.fwrb := rfl
@[simp] theorem State.setV_fwrlog (s : State) (r : VReg) (v : Vec) : (s.setV r v).fwrlog = s.fwrlog := rfl
@[simp] theorem State.setV_fwrrsv (s : State) (r : VReg) (v : Vec) : (s.setV r v).fwrrsv = s.fwrrsv := rfl
@[simp] theorem State.setV_fwrdone (s : State) (r : VReg) (v : Vec) : (s.setV r v).fwrdone = s.fwrdone := rfl
@[simp] theorem State.setV_boot (s : State) (r : VReg) (v : Vec) : (s.setV r v).boot = s.boot := rfl
@[simp] theorem State.setV_tasks (s : State) (r : VReg) (v : Vec) : (s.setV r v).tasks = s.tasks := rfl
@[simp] theorem State.setV_hbmErrs (s : State) (r : VReg) (v : Vec) : (s.setV r v).hbmErrs = s.hbmErrs := rfl
@[simp] theorem State.setV_broken (s : State) (r : VReg) (v : Vec) : (s.setV r v).broken = s.broken := rfl
@[simp] theorem State.setV_raised (s : State) (r : VReg) (v : Vec) : (s.setV r v).raised = s.raised := rfl
@[simp] theorem State.setV_domains (s : State) (r : VReg) (v : Vec) : (s.setV r v).domains = s.domains := rfl
@[simp] theorem State.setV_works (s : State) (r : VReg) (v : Vec) : (s.setV r v).works = s.works := rfl

@[simp] theorem State.orFlags_cur (s : State) (f : BitVec 5) : (s.orFlags f).cur = s.cur := rfl
@[simp] theorem State.orFlags_schedule (s : State) (f : BitVec 5) : (s.orFlags f).schedule = s.schedule := rfl
@[simp] theorem State.orFlags_fresh (s : State) (f : BitVec 5) : (s.orFlags f).fresh = s.fresh := rfl
@[simp] theorem State.orFlags_mem (s : State) (f : BitVec 5) : (s.orFlags f).mem = s.mem := rfl
@[simp] theorem State.orFlags_poison (s : State) (f : BitVec 5) : (s.orFlags f).poison = s.poison := rfl
@[simp] theorem State.orFlags_lost (s : State) (f : BitVec 5) : (s.orFlags f).lost = s.lost := rfl
@[simp] theorem State.orFlags_dies (s : State) (f : BitVec 5) : (s.orFlags f).dies = s.dies := rfl
@[simp] theorem State.orFlags_parts (s : State) (f : BitVec 5) : (s.orFlags f).parts = s.parts := rfl
@[simp] theorem State.orFlags_pops (s : State) (f : BitVec 5) : (s.orFlags f).pops = s.pops := rfl
@[simp] theorem State.orFlags_nextPop (s : State) (f : BitVec 5) : (s.orFlags f).nextPop = s.nextPop := rfl
@[simp] theorem State.orFlags_net (s : State) (f : BitVec 5) : (s.orFlags f).net = s.net := rfl
@[simp] theorem State.orFlags_out (s : State) (f : BitVec 5) : (s.orFlags f).out = s.out := rfl
@[simp] theorem State.orFlags_nextTag (s : State) (f : BitVec 5) : (s.orFlags f).nextTag = s.nextTag := rfl
@[simp] theorem State.orFlags_rings (s : State) (f : BitVec 5) : (s.orFlags f).rings = s.rings := rfl
@[simp] theorem State.orFlags_actives (s : State) (f : BitVec 5) : (s.orFlags f).actives = s.actives := rfl
@[simp] theorem State.orFlags_pendingRings (s : State) (f : BitVec 5) : (s.orFlags f).pendingRings = s.pendingRings := rfl
@[simp] theorem State.orFlags_running (s : State) (f : BitVec 5) : (s.orFlags f).running = s.running := rfl
@[simp] theorem State.orFlags_jbase (s : State) (f : BitVec 5) : (s.orFlags f).jbase = s.jbase := rfl
@[simp] theorem State.orFlags_jlog (s : State) (f : BitVec 5) : (s.orFlags f).jlog = s.jlog := rfl
@[simp] theorem State.orFlags_jhead (s : State) (f : BitVec 5) : (s.orFlags f).jhead = s.jhead := rfl
@[simp] theorem State.orFlags_jcons (s : State) (f : BitVec 5) : (s.orFlags f).jcons = s.jcons := rfl
@[simp] theorem State.orFlags_potb (s : State) (f : BitVec 5) : (s.orFlags f).potb = s.potb := rfl
@[simp] theorem State.orFlags_keys (s : State) (f : BitVec 5) : (s.orFlags f).keys = s.keys := rfl
@[simp] theorem State.orFlags_ports (s : State) (f : BitVec 5) : (s.orFlags f).ports = s.ports := rfl
@[simp] theorem State.orFlags_rounds (s : State) (f : BitVec 5) : (s.orFlags f).rounds = s.rounds := rfl
@[simp] theorem State.orFlags_tickets (s : State) (f : BitVec 5) : (s.orFlags f).tickets = s.tickets := rfl
@[simp] theorem State.orFlags_ticketWords (s : State) (f : BitVec 5) : (s.orFlags f).ticketWords = s.ticketWords := rfl
@[simp] theorem State.orFlags_withheld (s : State) (f : BitVec 5) : (s.orFlags f).withheld = s.withheld := rfl
@[simp] theorem State.orFlags_replies (s : State) (f : BitVec 5) : (s.orFlags f).replies = s.replies := rfl
@[simp] theorem State.orFlags_group (s : State) (f : BitVec 5) : (s.orFlags f).group = s.group := rfl
@[simp] theorem State.orFlags_events (s : State) (f : BitVec 5) : (s.orFlags f).events = s.events := rfl
@[simp] theorem State.orFlags_fwrb (s : State) (f : BitVec 5) : (s.orFlags f).fwrb = s.fwrb := rfl
@[simp] theorem State.orFlags_fwrlog (s : State) (f : BitVec 5) : (s.orFlags f).fwrlog = s.fwrlog := rfl
@[simp] theorem State.orFlags_fwrrsv (s : State) (f : BitVec 5) : (s.orFlags f).fwrrsv = s.fwrrsv := rfl
@[simp] theorem State.orFlags_fwrdone (s : State) (f : BitVec 5) : (s.orFlags f).fwrdone = s.fwrdone := rfl
@[simp] theorem State.orFlags_boot (s : State) (f : BitVec 5) : (s.orFlags f).boot = s.boot := rfl
@[simp] theorem State.orFlags_tasks (s : State) (f : BitVec 5) : (s.orFlags f).tasks = s.tasks := rfl
@[simp] theorem State.orFlags_hbmErrs (s : State) (f : BitVec 5) : (s.orFlags f).hbmErrs = s.hbmErrs := rfl
@[simp] theorem State.orFlags_broken (s : State) (f : BitVec 5) : (s.orFlags f).broken = s.broken := rfl
@[simp] theorem State.orFlags_raised (s : State) (f : BitVec 5) : (s.orFlags f).raised = s.raised := rfl
@[simp] theorem State.orFlags_domains (s : State) (f : BitVec 5) : (s.orFlags f).domains = s.domains := rfl
@[simp] theorem State.orFlags_works (s : State) (f : BitVec 5) : (s.orFlags f).works = s.works := rfl

@[simp] theorem State.modDie_cur (s : State) (d : Nat) (f : Die → Die) : (s.modDie d f).cur = s.cur := rfl
@[simp] theorem State.modDie_schedule (s : State) (d : Nat) (f : Die → Die) : (s.modDie d f).schedule = s.schedule := rfl
@[simp] theorem State.modDie_fresh (s : State) (d : Nat) (f : Die → Die) : (s.modDie d f).fresh = s.fresh := rfl
@[simp] theorem State.modDie_mem (s : State) (d : Nat) (f : Die → Die) : (s.modDie d f).mem = s.mem := rfl
@[simp] theorem State.modDie_poison (s : State) (d : Nat) (f : Die → Die) : (s.modDie d f).poison = s.poison := rfl
@[simp] theorem State.modDie_lost (s : State) (d : Nat) (f : Die → Die) : (s.modDie d f).lost = s.lost := rfl
@[simp] theorem State.modDie_cores (s : State) (d : Nat) (f : Die → Die) : (s.modDie d f).cores = s.cores := rfl
@[simp] theorem State.modDie_parts (s : State) (d : Nat) (f : Die → Die) : (s.modDie d f).parts = s.parts := rfl
@[simp] theorem State.modDie_pops (s : State) (d : Nat) (f : Die → Die) : (s.modDie d f).pops = s.pops := rfl
@[simp] theorem State.modDie_nextPop (s : State) (d : Nat) (f : Die → Die) : (s.modDie d f).nextPop = s.nextPop := rfl
@[simp] theorem State.modDie_net (s : State) (d : Nat) (f : Die → Die) : (s.modDie d f).net = s.net := rfl
@[simp] theorem State.modDie_out (s : State) (d : Nat) (f : Die → Die) : (s.modDie d f).out = s.out := rfl
@[simp] theorem State.modDie_nextTag (s : State) (d : Nat) (f : Die → Die) : (s.modDie d f).nextTag = s.nextTag := rfl
@[simp] theorem State.modDie_rings (s : State) (d : Nat) (f : Die → Die) : (s.modDie d f).rings = s.rings := rfl
@[simp] theorem State.modDie_actives (s : State) (d : Nat) (f : Die → Die) : (s.modDie d f).actives = s.actives := rfl
@[simp] theorem State.modDie_pendingRings (s : State) (d : Nat) (f : Die → Die) : (s.modDie d f).pendingRings = s.pendingRings := rfl
@[simp] theorem State.modDie_running (s : State) (d : Nat) (f : Die → Die) : (s.modDie d f).running = s.running := rfl
@[simp] theorem State.modDie_jbase (s : State) (d : Nat) (f : Die → Die) : (s.modDie d f).jbase = s.jbase := rfl
@[simp] theorem State.modDie_jlog (s : State) (d : Nat) (f : Die → Die) : (s.modDie d f).jlog = s.jlog := rfl
@[simp] theorem State.modDie_jhead (s : State) (d : Nat) (f : Die → Die) : (s.modDie d f).jhead = s.jhead := rfl
@[simp] theorem State.modDie_jcons (s : State) (d : Nat) (f : Die → Die) : (s.modDie d f).jcons = s.jcons := rfl
@[simp] theorem State.modDie_potb (s : State) (d : Nat) (f : Die → Die) : (s.modDie d f).potb = s.potb := rfl
@[simp] theorem State.modDie_keys (s : State) (d : Nat) (f : Die → Die) : (s.modDie d f).keys = s.keys := rfl
@[simp] theorem State.modDie_ports (s : State) (d : Nat) (f : Die → Die) : (s.modDie d f).ports = s.ports := rfl
@[simp] theorem State.modDie_rounds (s : State) (d : Nat) (f : Die → Die) : (s.modDie d f).rounds = s.rounds := rfl
@[simp] theorem State.modDie_tickets (s : State) (d : Nat) (f : Die → Die) : (s.modDie d f).tickets = s.tickets := rfl
@[simp] theorem State.modDie_ticketWords (s : State) (d : Nat) (f : Die → Die) : (s.modDie d f).ticketWords = s.ticketWords := rfl
@[simp] theorem State.modDie_withheld (s : State) (d : Nat) (f : Die → Die) : (s.modDie d f).withheld = s.withheld := rfl
@[simp] theorem State.modDie_replies (s : State) (d : Nat) (f : Die → Die) : (s.modDie d f).replies = s.replies := rfl
@[simp] theorem State.modDie_group (s : State) (d : Nat) (f : Die → Die) : (s.modDie d f).group = s.group := rfl
@[simp] theorem State.modDie_events (s : State) (d : Nat) (f : Die → Die) : (s.modDie d f).events = s.events := rfl
@[simp] theorem State.modDie_fwrb (s : State) (d : Nat) (f : Die → Die) : (s.modDie d f).fwrb = s.fwrb := rfl
@[simp] theorem State.modDie_fwrlog (s : State) (d : Nat) (f : Die → Die) : (s.modDie d f).fwrlog = s.fwrlog := rfl
@[simp] theorem State.modDie_fwrrsv (s : State) (d : Nat) (f : Die → Die) : (s.modDie d f).fwrrsv = s.fwrrsv := rfl
@[simp] theorem State.modDie_fwrdone (s : State) (d : Nat) (f : Die → Die) : (s.modDie d f).fwrdone = s.fwrdone := rfl
@[simp] theorem State.modDie_boot (s : State) (d : Nat) (f : Die → Die) : (s.modDie d f).boot = s.boot := rfl
@[simp] theorem State.modDie_tasks (s : State) (d : Nat) (f : Die → Die) : (s.modDie d f).tasks = s.tasks := rfl
@[simp] theorem State.modDie_hbmErrs (s : State) (d : Nat) (f : Die → Die) : (s.modDie d f).hbmErrs = s.hbmErrs := rfl
@[simp] theorem State.modDie_broken (s : State) (d : Nat) (f : Die → Die) : (s.modDie d f).broken = s.broken := rfl
@[simp] theorem State.modDie_raised (s : State) (d : Nat) (f : Die → Die) : (s.modDie d f).raised = s.raised := rfl
@[simp] theorem State.modDie_domains (s : State) (d : Nat) (f : Die → Die) : (s.modDie d f).domains = s.domains := rfl
@[simp] theorem State.modDie_works (s : State) (d : Nat) (f : Die → Die) : (s.modDie d f).works = s.works := rfl

@[simp] theorem State.modMyDie_cur (s : State) (f : Die → Die) : (s.modMyDie f).cur = s.cur := rfl
@[simp] theorem State.modMyDie_schedule (s : State) (f : Die → Die) : (s.modMyDie f).schedule = s.schedule := rfl
@[simp] theorem State.modMyDie_fresh (s : State) (f : Die → Die) : (s.modMyDie f).fresh = s.fresh := rfl
@[simp] theorem State.modMyDie_mem (s : State) (f : Die → Die) : (s.modMyDie f).mem = s.mem := rfl
@[simp] theorem State.modMyDie_poison (s : State) (f : Die → Die) : (s.modMyDie f).poison = s.poison := rfl
@[simp] theorem State.modMyDie_lost (s : State) (f : Die → Die) : (s.modMyDie f).lost = s.lost := rfl
@[simp] theorem State.modMyDie_cores (s : State) (f : Die → Die) : (s.modMyDie f).cores = s.cores := rfl
@[simp] theorem State.modMyDie_parts (s : State) (f : Die → Die) : (s.modMyDie f).parts = s.parts := rfl
@[simp] theorem State.modMyDie_pops (s : State) (f : Die → Die) : (s.modMyDie f).pops = s.pops := rfl
@[simp] theorem State.modMyDie_nextPop (s : State) (f : Die → Die) : (s.modMyDie f).nextPop = s.nextPop := rfl
@[simp] theorem State.modMyDie_net (s : State) (f : Die → Die) : (s.modMyDie f).net = s.net := rfl
@[simp] theorem State.modMyDie_out (s : State) (f : Die → Die) : (s.modMyDie f).out = s.out := rfl
@[simp] theorem State.modMyDie_nextTag (s : State) (f : Die → Die) : (s.modMyDie f).nextTag = s.nextTag := rfl
@[simp] theorem State.modMyDie_rings (s : State) (f : Die → Die) : (s.modMyDie f).rings = s.rings := rfl
@[simp] theorem State.modMyDie_actives (s : State) (f : Die → Die) : (s.modMyDie f).actives = s.actives := rfl
@[simp] theorem State.modMyDie_pendingRings (s : State) (f : Die → Die) : (s.modMyDie f).pendingRings = s.pendingRings := rfl
@[simp] theorem State.modMyDie_running (s : State) (f : Die → Die) : (s.modMyDie f).running = s.running := rfl
@[simp] theorem State.modMyDie_jbase (s : State) (f : Die → Die) : (s.modMyDie f).jbase = s.jbase := rfl
@[simp] theorem State.modMyDie_jlog (s : State) (f : Die → Die) : (s.modMyDie f).jlog = s.jlog := rfl
@[simp] theorem State.modMyDie_jhead (s : State) (f : Die → Die) : (s.modMyDie f).jhead = s.jhead := rfl
@[simp] theorem State.modMyDie_jcons (s : State) (f : Die → Die) : (s.modMyDie f).jcons = s.jcons := rfl
@[simp] theorem State.modMyDie_potb (s : State) (f : Die → Die) : (s.modMyDie f).potb = s.potb := rfl
@[simp] theorem State.modMyDie_keys (s : State) (f : Die → Die) : (s.modMyDie f).keys = s.keys := rfl
@[simp] theorem State.modMyDie_ports (s : State) (f : Die → Die) : (s.modMyDie f).ports = s.ports := rfl
@[simp] theorem State.modMyDie_rounds (s : State) (f : Die → Die) : (s.modMyDie f).rounds = s.rounds := rfl
@[simp] theorem State.modMyDie_tickets (s : State) (f : Die → Die) : (s.modMyDie f).tickets = s.tickets := rfl
@[simp] theorem State.modMyDie_ticketWords (s : State) (f : Die → Die) : (s.modMyDie f).ticketWords = s.ticketWords := rfl
@[simp] theorem State.modMyDie_withheld (s : State) (f : Die → Die) : (s.modMyDie f).withheld = s.withheld := rfl
@[simp] theorem State.modMyDie_replies (s : State) (f : Die → Die) : (s.modMyDie f).replies = s.replies := rfl
@[simp] theorem State.modMyDie_group (s : State) (f : Die → Die) : (s.modMyDie f).group = s.group := rfl
@[simp] theorem State.modMyDie_events (s : State) (f : Die → Die) : (s.modMyDie f).events = s.events := rfl
@[simp] theorem State.modMyDie_fwrb (s : State) (f : Die → Die) : (s.modMyDie f).fwrb = s.fwrb := rfl
@[simp] theorem State.modMyDie_fwrlog (s : State) (f : Die → Die) : (s.modMyDie f).fwrlog = s.fwrlog := rfl
@[simp] theorem State.modMyDie_fwrrsv (s : State) (f : Die → Die) : (s.modMyDie f).fwrrsv = s.fwrrsv := rfl
@[simp] theorem State.modMyDie_fwrdone (s : State) (f : Die → Die) : (s.modMyDie f).fwrdone = s.fwrdone := rfl
@[simp] theorem State.modMyDie_boot (s : State) (f : Die → Die) : (s.modMyDie f).boot = s.boot := rfl
@[simp] theorem State.modMyDie_tasks (s : State) (f : Die → Die) : (s.modMyDie f).tasks = s.tasks := rfl
@[simp] theorem State.modMyDie_hbmErrs (s : State) (f : Die → Die) : (s.modMyDie f).hbmErrs = s.hbmErrs := rfl
@[simp] theorem State.modMyDie_broken (s : State) (f : Die → Die) : (s.modMyDie f).broken = s.broken := rfl
@[simp] theorem State.modMyDie_raised (s : State) (f : Die → Die) : (s.modMyDie f).raised = s.raised := rfl
@[simp] theorem State.modMyDie_domains (s : State) (f : Die → Die) : (s.modMyDie f).domains = s.domains := rfl
@[simp] theorem State.modMyDie_works (s : State) (f : Die → Die) : (s.modMyDie f).works = s.works := rfl

@[simp] theorem State.modPart_cur (s : State) (p : Nat) (f : Partition → Partition) : (s.modPart p f).cur = s.cur := rfl
@[simp] theorem State.modPart_schedule (s : State) (p : Nat) (f : Partition → Partition) : (s.modPart p f).schedule = s.schedule := rfl
@[simp] theorem State.modPart_fresh (s : State) (p : Nat) (f : Partition → Partition) : (s.modPart p f).fresh = s.fresh := rfl
@[simp] theorem State.modPart_mem (s : State) (p : Nat) (f : Partition → Partition) : (s.modPart p f).mem = s.mem := rfl
@[simp] theorem State.modPart_poison (s : State) (p : Nat) (f : Partition → Partition) : (s.modPart p f).poison = s.poison := rfl
@[simp] theorem State.modPart_lost (s : State) (p : Nat) (f : Partition → Partition) : (s.modPart p f).lost = s.lost := rfl
@[simp] theorem State.modPart_cores (s : State) (p : Nat) (f : Partition → Partition) : (s.modPart p f).cores = s.cores := rfl
@[simp] theorem State.modPart_dies (s : State) (p : Nat) (f : Partition → Partition) : (s.modPart p f).dies = s.dies := rfl
@[simp] theorem State.modPart_pops (s : State) (p : Nat) (f : Partition → Partition) : (s.modPart p f).pops = s.pops := rfl
@[simp] theorem State.modPart_nextPop (s : State) (p : Nat) (f : Partition → Partition) : (s.modPart p f).nextPop = s.nextPop := rfl
@[simp] theorem State.modPart_net (s : State) (p : Nat) (f : Partition → Partition) : (s.modPart p f).net = s.net := rfl
@[simp] theorem State.modPart_out (s : State) (p : Nat) (f : Partition → Partition) : (s.modPart p f).out = s.out := rfl
@[simp] theorem State.modPart_nextTag (s : State) (p : Nat) (f : Partition → Partition) : (s.modPart p f).nextTag = s.nextTag := rfl
@[simp] theorem State.modPart_rings (s : State) (p : Nat) (f : Partition → Partition) : (s.modPart p f).rings = s.rings := rfl
@[simp] theorem State.modPart_actives (s : State) (p : Nat) (f : Partition → Partition) : (s.modPart p f).actives = s.actives := rfl
@[simp] theorem State.modPart_pendingRings (s : State) (p : Nat) (f : Partition → Partition) : (s.modPart p f).pendingRings = s.pendingRings := rfl
@[simp] theorem State.modPart_running (s : State) (p : Nat) (f : Partition → Partition) : (s.modPart p f).running = s.running := rfl
@[simp] theorem State.modPart_jbase (s : State) (p : Nat) (f : Partition → Partition) : (s.modPart p f).jbase = s.jbase := rfl
@[simp] theorem State.modPart_jlog (s : State) (p : Nat) (f : Partition → Partition) : (s.modPart p f).jlog = s.jlog := rfl
@[simp] theorem State.modPart_jhead (s : State) (p : Nat) (f : Partition → Partition) : (s.modPart p f).jhead = s.jhead := rfl
@[simp] theorem State.modPart_jcons (s : State) (p : Nat) (f : Partition → Partition) : (s.modPart p f).jcons = s.jcons := rfl
@[simp] theorem State.modPart_potb (s : State) (p : Nat) (f : Partition → Partition) : (s.modPart p f).potb = s.potb := rfl
@[simp] theorem State.modPart_keys (s : State) (p : Nat) (f : Partition → Partition) : (s.modPart p f).keys = s.keys := rfl
@[simp] theorem State.modPart_ports (s : State) (p : Nat) (f : Partition → Partition) : (s.modPart p f).ports = s.ports := rfl
@[simp] theorem State.modPart_rounds (s : State) (p : Nat) (f : Partition → Partition) : (s.modPart p f).rounds = s.rounds := rfl
@[simp] theorem State.modPart_tickets (s : State) (p : Nat) (f : Partition → Partition) : (s.modPart p f).tickets = s.tickets := rfl
@[simp] theorem State.modPart_ticketWords (s : State) (p : Nat) (f : Partition → Partition) : (s.modPart p f).ticketWords = s.ticketWords := rfl
@[simp] theorem State.modPart_withheld (s : State) (p : Nat) (f : Partition → Partition) : (s.modPart p f).withheld = s.withheld := rfl
@[simp] theorem State.modPart_replies (s : State) (p : Nat) (f : Partition → Partition) : (s.modPart p f).replies = s.replies := rfl
@[simp] theorem State.modPart_group (s : State) (p : Nat) (f : Partition → Partition) : (s.modPart p f).group = s.group := rfl
@[simp] theorem State.modPart_events (s : State) (p : Nat) (f : Partition → Partition) : (s.modPart p f).events = s.events := rfl
@[simp] theorem State.modPart_fwrb (s : State) (p : Nat) (f : Partition → Partition) : (s.modPart p f).fwrb = s.fwrb := rfl
@[simp] theorem State.modPart_fwrlog (s : State) (p : Nat) (f : Partition → Partition) : (s.modPart p f).fwrlog = s.fwrlog := rfl
@[simp] theorem State.modPart_fwrrsv (s : State) (p : Nat) (f : Partition → Partition) : (s.modPart p f).fwrrsv = s.fwrrsv := rfl
@[simp] theorem State.modPart_fwrdone (s : State) (p : Nat) (f : Partition → Partition) : (s.modPart p f).fwrdone = s.fwrdone := rfl
@[simp] theorem State.modPart_boot (s : State) (p : Nat) (f : Partition → Partition) : (s.modPart p f).boot = s.boot := rfl
@[simp] theorem State.modPart_tasks (s : State) (p : Nat) (f : Partition → Partition) : (s.modPart p f).tasks = s.tasks := rfl
@[simp] theorem State.modPart_hbmErrs (s : State) (p : Nat) (f : Partition → Partition) : (s.modPart p f).hbmErrs = s.hbmErrs := rfl
@[simp] theorem State.modPart_broken (s : State) (p : Nat) (f : Partition → Partition) : (s.modPart p f).broken = s.broken := rfl
@[simp] theorem State.modPart_raised (s : State) (p : Nat) (f : Partition → Partition) : (s.modPart p f).raised = s.raised := rfl
@[simp] theorem State.modPart_domains (s : State) (p : Nat) (f : Partition → Partition) : (s.modPart p f).domains = s.domains := rfl
@[simp] theorem State.modPart_works (s : State) (p : Nat) (f : Partition → Partition) : (s.modPart p f).works = s.works := rfl

@[simp] theorem State.modRing_cur (s : State) (r : Nat) (f : Ring → Ring) : (s.modRing r f).cur = s.cur := rfl
@[simp] theorem State.modRing_schedule (s : State) (r : Nat) (f : Ring → Ring) : (s.modRing r f).schedule = s.schedule := rfl
@[simp] theorem State.modRing_fresh (s : State) (r : Nat) (f : Ring → Ring) : (s.modRing r f).fresh = s.fresh := rfl
@[simp] theorem State.modRing_mem (s : State) (r : Nat) (f : Ring → Ring) : (s.modRing r f).mem = s.mem := rfl
@[simp] theorem State.modRing_poison (s : State) (r : Nat) (f : Ring → Ring) : (s.modRing r f).poison = s.poison := rfl
@[simp] theorem State.modRing_lost (s : State) (r : Nat) (f : Ring → Ring) : (s.modRing r f).lost = s.lost := rfl
@[simp] theorem State.modRing_cores (s : State) (r : Nat) (f : Ring → Ring) : (s.modRing r f).cores = s.cores := rfl
@[simp] theorem State.modRing_dies (s : State) (r : Nat) (f : Ring → Ring) : (s.modRing r f).dies = s.dies := rfl
@[simp] theorem State.modRing_parts (s : State) (r : Nat) (f : Ring → Ring) : (s.modRing r f).parts = s.parts := rfl
@[simp] theorem State.modRing_pops (s : State) (r : Nat) (f : Ring → Ring) : (s.modRing r f).pops = s.pops := rfl
@[simp] theorem State.modRing_nextPop (s : State) (r : Nat) (f : Ring → Ring) : (s.modRing r f).nextPop = s.nextPop := rfl
@[simp] theorem State.modRing_net (s : State) (r : Nat) (f : Ring → Ring) : (s.modRing r f).net = s.net := rfl
@[simp] theorem State.modRing_out (s : State) (r : Nat) (f : Ring → Ring) : (s.modRing r f).out = s.out := rfl
@[simp] theorem State.modRing_nextTag (s : State) (r : Nat) (f : Ring → Ring) : (s.modRing r f).nextTag = s.nextTag := rfl
@[simp] theorem State.modRing_actives (s : State) (r : Nat) (f : Ring → Ring) : (s.modRing r f).actives = s.actives := rfl
@[simp] theorem State.modRing_pendingRings (s : State) (r : Nat) (f : Ring → Ring) : (s.modRing r f).pendingRings = s.pendingRings := rfl
@[simp] theorem State.modRing_running (s : State) (r : Nat) (f : Ring → Ring) : (s.modRing r f).running = s.running := rfl
@[simp] theorem State.modRing_jbase (s : State) (r : Nat) (f : Ring → Ring) : (s.modRing r f).jbase = s.jbase := rfl
@[simp] theorem State.modRing_jlog (s : State) (r : Nat) (f : Ring → Ring) : (s.modRing r f).jlog = s.jlog := rfl
@[simp] theorem State.modRing_jhead (s : State) (r : Nat) (f : Ring → Ring) : (s.modRing r f).jhead = s.jhead := rfl
@[simp] theorem State.modRing_jcons (s : State) (r : Nat) (f : Ring → Ring) : (s.modRing r f).jcons = s.jcons := rfl
@[simp] theorem State.modRing_potb (s : State) (r : Nat) (f : Ring → Ring) : (s.modRing r f).potb = s.potb := rfl
@[simp] theorem State.modRing_keys (s : State) (r : Nat) (f : Ring → Ring) : (s.modRing r f).keys = s.keys := rfl
@[simp] theorem State.modRing_ports (s : State) (r : Nat) (f : Ring → Ring) : (s.modRing r f).ports = s.ports := rfl
@[simp] theorem State.modRing_rounds (s : State) (r : Nat) (f : Ring → Ring) : (s.modRing r f).rounds = s.rounds := rfl
@[simp] theorem State.modRing_tickets (s : State) (r : Nat) (f : Ring → Ring) : (s.modRing r f).tickets = s.tickets := rfl
@[simp] theorem State.modRing_ticketWords (s : State) (r : Nat) (f : Ring → Ring) : (s.modRing r f).ticketWords = s.ticketWords := rfl
@[simp] theorem State.modRing_withheld (s : State) (r : Nat) (f : Ring → Ring) : (s.modRing r f).withheld = s.withheld := rfl
@[simp] theorem State.modRing_replies (s : State) (r : Nat) (f : Ring → Ring) : (s.modRing r f).replies = s.replies := rfl
@[simp] theorem State.modRing_group (s : State) (r : Nat) (f : Ring → Ring) : (s.modRing r f).group = s.group := rfl
@[simp] theorem State.modRing_events (s : State) (r : Nat) (f : Ring → Ring) : (s.modRing r f).events = s.events := rfl
@[simp] theorem State.modRing_fwrb (s : State) (r : Nat) (f : Ring → Ring) : (s.modRing r f).fwrb = s.fwrb := rfl
@[simp] theorem State.modRing_fwrlog (s : State) (r : Nat) (f : Ring → Ring) : (s.modRing r f).fwrlog = s.fwrlog := rfl
@[simp] theorem State.modRing_fwrrsv (s : State) (r : Nat) (f : Ring → Ring) : (s.modRing r f).fwrrsv = s.fwrrsv := rfl
@[simp] theorem State.modRing_fwrdone (s : State) (r : Nat) (f : Ring → Ring) : (s.modRing r f).fwrdone = s.fwrdone := rfl
@[simp] theorem State.modRing_boot (s : State) (r : Nat) (f : Ring → Ring) : (s.modRing r f).boot = s.boot := rfl
@[simp] theorem State.modRing_tasks (s : State) (r : Nat) (f : Ring → Ring) : (s.modRing r f).tasks = s.tasks := rfl
@[simp] theorem State.modRing_hbmErrs (s : State) (r : Nat) (f : Ring → Ring) : (s.modRing r f).hbmErrs = s.hbmErrs := rfl
@[simp] theorem State.modRing_broken (s : State) (r : Nat) (f : Ring → Ring) : (s.modRing r f).broken = s.broken := rfl
@[simp] theorem State.modRing_raised (s : State) (r : Nat) (f : Ring → Ring) : (s.modRing r f).raised = s.raised := rfl
@[simp] theorem State.modRing_domains (s : State) (r : Nat) (f : Ring → Ring) : (s.modRing r f).domains = s.domains := rfl
@[simp] theorem State.modRing_works (s : State) (r : Nat) (f : Ring → Ring) : (s.modRing r f).works = s.works := rfl

@[simp] theorem State.modPort_cur (s : State) (p : Nat) (f : LinkPort → LinkPort) : (s.modPort p f).cur = s.cur := rfl
@[simp] theorem State.modPort_schedule (s : State) (p : Nat) (f : LinkPort → LinkPort) : (s.modPort p f).schedule = s.schedule := rfl
@[simp] theorem State.modPort_fresh (s : State) (p : Nat) (f : LinkPort → LinkPort) : (s.modPort p f).fresh = s.fresh := rfl
@[simp] theorem State.modPort_mem (s : State) (p : Nat) (f : LinkPort → LinkPort) : (s.modPort p f).mem = s.mem := rfl
@[simp] theorem State.modPort_poison (s : State) (p : Nat) (f : LinkPort → LinkPort) : (s.modPort p f).poison = s.poison := rfl
@[simp] theorem State.modPort_lost (s : State) (p : Nat) (f : LinkPort → LinkPort) : (s.modPort p f).lost = s.lost := rfl
@[simp] theorem State.modPort_cores (s : State) (p : Nat) (f : LinkPort → LinkPort) : (s.modPort p f).cores = s.cores := rfl
@[simp] theorem State.modPort_dies (s : State) (p : Nat) (f : LinkPort → LinkPort) : (s.modPort p f).dies = s.dies := rfl
@[simp] theorem State.modPort_parts (s : State) (p : Nat) (f : LinkPort → LinkPort) : (s.modPort p f).parts = s.parts := rfl
@[simp] theorem State.modPort_pops (s : State) (p : Nat) (f : LinkPort → LinkPort) : (s.modPort p f).pops = s.pops := rfl
@[simp] theorem State.modPort_nextPop (s : State) (p : Nat) (f : LinkPort → LinkPort) : (s.modPort p f).nextPop = s.nextPop := rfl
@[simp] theorem State.modPort_net (s : State) (p : Nat) (f : LinkPort → LinkPort) : (s.modPort p f).net = s.net := rfl
@[simp] theorem State.modPort_out (s : State) (p : Nat) (f : LinkPort → LinkPort) : (s.modPort p f).out = s.out := rfl
@[simp] theorem State.modPort_nextTag (s : State) (p : Nat) (f : LinkPort → LinkPort) : (s.modPort p f).nextTag = s.nextTag := rfl
@[simp] theorem State.modPort_rings (s : State) (p : Nat) (f : LinkPort → LinkPort) : (s.modPort p f).rings = s.rings := rfl
@[simp] theorem State.modPort_actives (s : State) (p : Nat) (f : LinkPort → LinkPort) : (s.modPort p f).actives = s.actives := rfl
@[simp] theorem State.modPort_pendingRings (s : State) (p : Nat) (f : LinkPort → LinkPort) : (s.modPort p f).pendingRings = s.pendingRings := rfl
@[simp] theorem State.modPort_running (s : State) (p : Nat) (f : LinkPort → LinkPort) : (s.modPort p f).running = s.running := rfl
@[simp] theorem State.modPort_jbase (s : State) (p : Nat) (f : LinkPort → LinkPort) : (s.modPort p f).jbase = s.jbase := rfl
@[simp] theorem State.modPort_jlog (s : State) (p : Nat) (f : LinkPort → LinkPort) : (s.modPort p f).jlog = s.jlog := rfl
@[simp] theorem State.modPort_jhead (s : State) (p : Nat) (f : LinkPort → LinkPort) : (s.modPort p f).jhead = s.jhead := rfl
@[simp] theorem State.modPort_jcons (s : State) (p : Nat) (f : LinkPort → LinkPort) : (s.modPort p f).jcons = s.jcons := rfl
@[simp] theorem State.modPort_potb (s : State) (p : Nat) (f : LinkPort → LinkPort) : (s.modPort p f).potb = s.potb := rfl
@[simp] theorem State.modPort_keys (s : State) (p : Nat) (f : LinkPort → LinkPort) : (s.modPort p f).keys = s.keys := rfl
@[simp] theorem State.modPort_rounds (s : State) (p : Nat) (f : LinkPort → LinkPort) : (s.modPort p f).rounds = s.rounds := rfl
@[simp] theorem State.modPort_tickets (s : State) (p : Nat) (f : LinkPort → LinkPort) : (s.modPort p f).tickets = s.tickets := rfl
@[simp] theorem State.modPort_ticketWords (s : State) (p : Nat) (f : LinkPort → LinkPort) : (s.modPort p f).ticketWords = s.ticketWords := rfl
@[simp] theorem State.modPort_withheld (s : State) (p : Nat) (f : LinkPort → LinkPort) : (s.modPort p f).withheld = s.withheld := rfl
@[simp] theorem State.modPort_replies (s : State) (p : Nat) (f : LinkPort → LinkPort) : (s.modPort p f).replies = s.replies := rfl
@[simp] theorem State.modPort_group (s : State) (p : Nat) (f : LinkPort → LinkPort) : (s.modPort p f).group = s.group := rfl
@[simp] theorem State.modPort_events (s : State) (p : Nat) (f : LinkPort → LinkPort) : (s.modPort p f).events = s.events := rfl
@[simp] theorem State.modPort_fwrb (s : State) (p : Nat) (f : LinkPort → LinkPort) : (s.modPort p f).fwrb = s.fwrb := rfl
@[simp] theorem State.modPort_fwrlog (s : State) (p : Nat) (f : LinkPort → LinkPort) : (s.modPort p f).fwrlog = s.fwrlog := rfl
@[simp] theorem State.modPort_fwrrsv (s : State) (p : Nat) (f : LinkPort → LinkPort) : (s.modPort p f).fwrrsv = s.fwrrsv := rfl
@[simp] theorem State.modPort_fwrdone (s : State) (p : Nat) (f : LinkPort → LinkPort) : (s.modPort p f).fwrdone = s.fwrdone := rfl
@[simp] theorem State.modPort_boot (s : State) (p : Nat) (f : LinkPort → LinkPort) : (s.modPort p f).boot = s.boot := rfl
@[simp] theorem State.modPort_tasks (s : State) (p : Nat) (f : LinkPort → LinkPort) : (s.modPort p f).tasks = s.tasks := rfl
@[simp] theorem State.modPort_hbmErrs (s : State) (p : Nat) (f : LinkPort → LinkPort) : (s.modPort p f).hbmErrs = s.hbmErrs := rfl
@[simp] theorem State.modPort_broken (s : State) (p : Nat) (f : LinkPort → LinkPort) : (s.modPort p f).broken = s.broken := rfl
@[simp] theorem State.modPort_raised (s : State) (p : Nat) (f : LinkPort → LinkPort) : (s.modPort p f).raised = s.raised := rfl
@[simp] theorem State.modPort_domains (s : State) (p : Nat) (f : LinkPort → LinkPort) : (s.modPort p f).domains = s.domains := rfl
@[simp] theorem State.modPort_works (s : State) (p : Nat) (f : LinkPort → LinkPort) : (s.modPort p f).works = s.works := rfl

@[simp] theorem State.modPop_cur (s : State) (i : BitVec 32) (f : Pop → Pop) : (s.modPop i f).cur = s.cur := rfl
@[simp] theorem State.modPop_schedule (s : State) (i : BitVec 32) (f : Pop → Pop) : (s.modPop i f).schedule = s.schedule := rfl
@[simp] theorem State.modPop_fresh (s : State) (i : BitVec 32) (f : Pop → Pop) : (s.modPop i f).fresh = s.fresh := rfl
@[simp] theorem State.modPop_mem (s : State) (i : BitVec 32) (f : Pop → Pop) : (s.modPop i f).mem = s.mem := rfl
@[simp] theorem State.modPop_poison (s : State) (i : BitVec 32) (f : Pop → Pop) : (s.modPop i f).poison = s.poison := rfl
@[simp] theorem State.modPop_lost (s : State) (i : BitVec 32) (f : Pop → Pop) : (s.modPop i f).lost = s.lost := rfl
@[simp] theorem State.modPop_cores (s : State) (i : BitVec 32) (f : Pop → Pop) : (s.modPop i f).cores = s.cores := rfl
@[simp] theorem State.modPop_dies (s : State) (i : BitVec 32) (f : Pop → Pop) : (s.modPop i f).dies = s.dies := rfl
@[simp] theorem State.modPop_parts (s : State) (i : BitVec 32) (f : Pop → Pop) : (s.modPop i f).parts = s.parts := rfl
@[simp] theorem State.modPop_nextPop (s : State) (i : BitVec 32) (f : Pop → Pop) : (s.modPop i f).nextPop = s.nextPop := rfl
@[simp] theorem State.modPop_net (s : State) (i : BitVec 32) (f : Pop → Pop) : (s.modPop i f).net = s.net := rfl
@[simp] theorem State.modPop_out (s : State) (i : BitVec 32) (f : Pop → Pop) : (s.modPop i f).out = s.out := rfl
@[simp] theorem State.modPop_nextTag (s : State) (i : BitVec 32) (f : Pop → Pop) : (s.modPop i f).nextTag = s.nextTag := rfl
@[simp] theorem State.modPop_rings (s : State) (i : BitVec 32) (f : Pop → Pop) : (s.modPop i f).rings = s.rings := rfl
@[simp] theorem State.modPop_actives (s : State) (i : BitVec 32) (f : Pop → Pop) : (s.modPop i f).actives = s.actives := rfl
@[simp] theorem State.modPop_pendingRings (s : State) (i : BitVec 32) (f : Pop → Pop) : (s.modPop i f).pendingRings = s.pendingRings := rfl
@[simp] theorem State.modPop_running (s : State) (i : BitVec 32) (f : Pop → Pop) : (s.modPop i f).running = s.running := rfl
@[simp] theorem State.modPop_jbase (s : State) (i : BitVec 32) (f : Pop → Pop) : (s.modPop i f).jbase = s.jbase := rfl
@[simp] theorem State.modPop_jlog (s : State) (i : BitVec 32) (f : Pop → Pop) : (s.modPop i f).jlog = s.jlog := rfl
@[simp] theorem State.modPop_jhead (s : State) (i : BitVec 32) (f : Pop → Pop) : (s.modPop i f).jhead = s.jhead := rfl
@[simp] theorem State.modPop_jcons (s : State) (i : BitVec 32) (f : Pop → Pop) : (s.modPop i f).jcons = s.jcons := rfl
@[simp] theorem State.modPop_potb (s : State) (i : BitVec 32) (f : Pop → Pop) : (s.modPop i f).potb = s.potb := rfl
@[simp] theorem State.modPop_keys (s : State) (i : BitVec 32) (f : Pop → Pop) : (s.modPop i f).keys = s.keys := rfl
@[simp] theorem State.modPop_ports (s : State) (i : BitVec 32) (f : Pop → Pop) : (s.modPop i f).ports = s.ports := rfl
@[simp] theorem State.modPop_rounds (s : State) (i : BitVec 32) (f : Pop → Pop) : (s.modPop i f).rounds = s.rounds := rfl
@[simp] theorem State.modPop_tickets (s : State) (i : BitVec 32) (f : Pop → Pop) : (s.modPop i f).tickets = s.tickets := rfl
@[simp] theorem State.modPop_ticketWords (s : State) (i : BitVec 32) (f : Pop → Pop) : (s.modPop i f).ticketWords = s.ticketWords := rfl
@[simp] theorem State.modPop_withheld (s : State) (i : BitVec 32) (f : Pop → Pop) : (s.modPop i f).withheld = s.withheld := rfl
@[simp] theorem State.modPop_replies (s : State) (i : BitVec 32) (f : Pop → Pop) : (s.modPop i f).replies = s.replies := rfl
@[simp] theorem State.modPop_group (s : State) (i : BitVec 32) (f : Pop → Pop) : (s.modPop i f).group = s.group := rfl
@[simp] theorem State.modPop_events (s : State) (i : BitVec 32) (f : Pop → Pop) : (s.modPop i f).events = s.events := rfl
@[simp] theorem State.modPop_fwrb (s : State) (i : BitVec 32) (f : Pop → Pop) : (s.modPop i f).fwrb = s.fwrb := rfl
@[simp] theorem State.modPop_fwrlog (s : State) (i : BitVec 32) (f : Pop → Pop) : (s.modPop i f).fwrlog = s.fwrlog := rfl
@[simp] theorem State.modPop_fwrrsv (s : State) (i : BitVec 32) (f : Pop → Pop) : (s.modPop i f).fwrrsv = s.fwrrsv := rfl
@[simp] theorem State.modPop_fwrdone (s : State) (i : BitVec 32) (f : Pop → Pop) : (s.modPop i f).fwrdone = s.fwrdone := rfl
@[simp] theorem State.modPop_boot (s : State) (i : BitVec 32) (f : Pop → Pop) : (s.modPop i f).boot = s.boot := rfl
@[simp] theorem State.modPop_tasks (s : State) (i : BitVec 32) (f : Pop → Pop) : (s.modPop i f).tasks = s.tasks := rfl
@[simp] theorem State.modPop_hbmErrs (s : State) (i : BitVec 32) (f : Pop → Pop) : (s.modPop i f).hbmErrs = s.hbmErrs := rfl
@[simp] theorem State.modPop_broken (s : State) (i : BitVec 32) (f : Pop → Pop) : (s.modPop i f).broken = s.broken := rfl
@[simp] theorem State.modPop_raised (s : State) (i : BitVec 32) (f : Pop → Pop) : (s.modPop i f).raised = s.raised := rfl
@[simp] theorem State.modPop_domains (s : State) (i : BitVec 32) (f : Pop → Pop) : (s.modPop i f).domains = s.domains := rfl
@[simp] theorem State.modPop_works (s : State) (i : BitVec 32) (f : Pop → Pop) : (s.modPop i f).works = s.works := rfl

@[simp] theorem State.setActive_cur (s : State) (q : Nat) (a : Active) : (s.setActive q a).cur = s.cur := rfl
@[simp] theorem State.setActive_schedule (s : State) (q : Nat) (a : Active) : (s.setActive q a).schedule = s.schedule := rfl
@[simp] theorem State.setActive_fresh (s : State) (q : Nat) (a : Active) : (s.setActive q a).fresh = s.fresh := rfl
@[simp] theorem State.setActive_mem (s : State) (q : Nat) (a : Active) : (s.setActive q a).mem = s.mem := rfl
@[simp] theorem State.setActive_poison (s : State) (q : Nat) (a : Active) : (s.setActive q a).poison = s.poison := rfl
@[simp] theorem State.setActive_lost (s : State) (q : Nat) (a : Active) : (s.setActive q a).lost = s.lost := rfl
@[simp] theorem State.setActive_cores (s : State) (q : Nat) (a : Active) : (s.setActive q a).cores = s.cores := rfl
@[simp] theorem State.setActive_dies (s : State) (q : Nat) (a : Active) : (s.setActive q a).dies = s.dies := rfl
@[simp] theorem State.setActive_parts (s : State) (q : Nat) (a : Active) : (s.setActive q a).parts = s.parts := rfl
@[simp] theorem State.setActive_pops (s : State) (q : Nat) (a : Active) : (s.setActive q a).pops = s.pops := rfl
@[simp] theorem State.setActive_nextPop (s : State) (q : Nat) (a : Active) : (s.setActive q a).nextPop = s.nextPop := rfl
@[simp] theorem State.setActive_net (s : State) (q : Nat) (a : Active) : (s.setActive q a).net = s.net := rfl
@[simp] theorem State.setActive_out (s : State) (q : Nat) (a : Active) : (s.setActive q a).out = s.out := rfl
@[simp] theorem State.setActive_nextTag (s : State) (q : Nat) (a : Active) : (s.setActive q a).nextTag = s.nextTag := rfl
@[simp] theorem State.setActive_rings (s : State) (q : Nat) (a : Active) : (s.setActive q a).rings = s.rings := rfl
@[simp] theorem State.setActive_pendingRings (s : State) (q : Nat) (a : Active) : (s.setActive q a).pendingRings = s.pendingRings := rfl
@[simp] theorem State.setActive_running (s : State) (q : Nat) (a : Active) : (s.setActive q a).running = s.running := rfl
@[simp] theorem State.setActive_jbase (s : State) (q : Nat) (a : Active) : (s.setActive q a).jbase = s.jbase := rfl
@[simp] theorem State.setActive_jlog (s : State) (q : Nat) (a : Active) : (s.setActive q a).jlog = s.jlog := rfl
@[simp] theorem State.setActive_jhead (s : State) (q : Nat) (a : Active) : (s.setActive q a).jhead = s.jhead := rfl
@[simp] theorem State.setActive_jcons (s : State) (q : Nat) (a : Active) : (s.setActive q a).jcons = s.jcons := rfl
@[simp] theorem State.setActive_potb (s : State) (q : Nat) (a : Active) : (s.setActive q a).potb = s.potb := rfl
@[simp] theorem State.setActive_keys (s : State) (q : Nat) (a : Active) : (s.setActive q a).keys = s.keys := rfl
@[simp] theorem State.setActive_ports (s : State) (q : Nat) (a : Active) : (s.setActive q a).ports = s.ports := rfl
@[simp] theorem State.setActive_rounds (s : State) (q : Nat) (a : Active) : (s.setActive q a).rounds = s.rounds := rfl
@[simp] theorem State.setActive_tickets (s : State) (q : Nat) (a : Active) : (s.setActive q a).tickets = s.tickets := rfl
@[simp] theorem State.setActive_ticketWords (s : State) (q : Nat) (a : Active) : (s.setActive q a).ticketWords = s.ticketWords := rfl
@[simp] theorem State.setActive_withheld (s : State) (q : Nat) (a : Active) : (s.setActive q a).withheld = s.withheld := rfl
@[simp] theorem State.setActive_replies (s : State) (q : Nat) (a : Active) : (s.setActive q a).replies = s.replies := rfl
@[simp] theorem State.setActive_group (s : State) (q : Nat) (a : Active) : (s.setActive q a).group = s.group := rfl
@[simp] theorem State.setActive_events (s : State) (q : Nat) (a : Active) : (s.setActive q a).events = s.events := rfl
@[simp] theorem State.setActive_fwrb (s : State) (q : Nat) (a : Active) : (s.setActive q a).fwrb = s.fwrb := rfl
@[simp] theorem State.setActive_fwrlog (s : State) (q : Nat) (a : Active) : (s.setActive q a).fwrlog = s.fwrlog := rfl
@[simp] theorem State.setActive_fwrrsv (s : State) (q : Nat) (a : Active) : (s.setActive q a).fwrrsv = s.fwrrsv := rfl
@[simp] theorem State.setActive_fwrdone (s : State) (q : Nat) (a : Active) : (s.setActive q a).fwrdone = s.fwrdone := rfl
@[simp] theorem State.setActive_boot (s : State) (q : Nat) (a : Active) : (s.setActive q a).boot = s.boot := rfl
@[simp] theorem State.setActive_tasks (s : State) (q : Nat) (a : Active) : (s.setActive q a).tasks = s.tasks := rfl
@[simp] theorem State.setActive_hbmErrs (s : State) (q : Nat) (a : Active) : (s.setActive q a).hbmErrs = s.hbmErrs := rfl
@[simp] theorem State.setActive_broken (s : State) (q : Nat) (a : Active) : (s.setActive q a).broken = s.broken := rfl
@[simp] theorem State.setActive_raised (s : State) (q : Nat) (a : Active) : (s.setActive q a).raised = s.raised := rfl
@[simp] theorem State.setActive_domains (s : State) (q : Nat) (a : Active) : (s.setActive q a).domains = s.domains := rfl
@[simp] theorem State.setActive_works (s : State) (q : Nat) (a : Active) : (s.setActive q a).works = s.works := rfl

@[simp] theorem State.post_cur (s : State) (e : Fin 7) (n : Nat) : (s.post e n).cur = s.cur := rfl
@[simp] theorem State.post_schedule (s : State) (e : Fin 7) (n : Nat) : (s.post e n).schedule = s.schedule := rfl
@[simp] theorem State.post_fresh (s : State) (e : Fin 7) (n : Nat) : (s.post e n).fresh = s.fresh := rfl
@[simp] theorem State.post_mem (s : State) (e : Fin 7) (n : Nat) : (s.post e n).mem = s.mem := rfl
@[simp] theorem State.post_poison (s : State) (e : Fin 7) (n : Nat) : (s.post e n).poison = s.poison := rfl
@[simp] theorem State.post_lost (s : State) (e : Fin 7) (n : Nat) : (s.post e n).lost = s.lost := rfl
@[simp] theorem State.post_cores (s : State) (e : Fin 7) (n : Nat) : (s.post e n).cores = s.cores := rfl
@[simp] theorem State.post_dies (s : State) (e : Fin 7) (n : Nat) : (s.post e n).dies = s.dies := rfl
@[simp] theorem State.post_parts (s : State) (e : Fin 7) (n : Nat) : (s.post e n).parts = s.parts := rfl
@[simp] theorem State.post_pops (s : State) (e : Fin 7) (n : Nat) : (s.post e n).pops = s.pops := rfl
@[simp] theorem State.post_nextPop (s : State) (e : Fin 7) (n : Nat) : (s.post e n).nextPop = s.nextPop := rfl
@[simp] theorem State.post_net (s : State) (e : Fin 7) (n : Nat) : (s.post e n).net = s.net := rfl
@[simp] theorem State.post_out (s : State) (e : Fin 7) (n : Nat) : (s.post e n).out = s.out := rfl
@[simp] theorem State.post_nextTag (s : State) (e : Fin 7) (n : Nat) : (s.post e n).nextTag = s.nextTag := rfl
@[simp] theorem State.post_rings (s : State) (e : Fin 7) (n : Nat) : (s.post e n).rings = s.rings := rfl
@[simp] theorem State.post_actives (s : State) (e : Fin 7) (n : Nat) : (s.post e n).actives = s.actives := rfl
@[simp] theorem State.post_pendingRings (s : State) (e : Fin 7) (n : Nat) : (s.post e n).pendingRings = s.pendingRings := rfl
@[simp] theorem State.post_running (s : State) (e : Fin 7) (n : Nat) : (s.post e n).running = s.running := rfl
@[simp] theorem State.post_jbase (s : State) (e : Fin 7) (n : Nat) : (s.post e n).jbase = s.jbase := rfl
@[simp] theorem State.post_jlog (s : State) (e : Fin 7) (n : Nat) : (s.post e n).jlog = s.jlog := rfl
@[simp] theorem State.post_jhead (s : State) (e : Fin 7) (n : Nat) : (s.post e n).jhead = s.jhead := rfl
@[simp] theorem State.post_jcons (s : State) (e : Fin 7) (n : Nat) : (s.post e n).jcons = s.jcons := rfl
@[simp] theorem State.post_potb (s : State) (e : Fin 7) (n : Nat) : (s.post e n).potb = s.potb := rfl
@[simp] theorem State.post_keys (s : State) (e : Fin 7) (n : Nat) : (s.post e n).keys = s.keys := rfl
@[simp] theorem State.post_ports (s : State) (e : Fin 7) (n : Nat) : (s.post e n).ports = s.ports := rfl
@[simp] theorem State.post_rounds (s : State) (e : Fin 7) (n : Nat) : (s.post e n).rounds = s.rounds := rfl
@[simp] theorem State.post_tickets (s : State) (e : Fin 7) (n : Nat) : (s.post e n).tickets = s.tickets := rfl
@[simp] theorem State.post_ticketWords (s : State) (e : Fin 7) (n : Nat) : (s.post e n).ticketWords = s.ticketWords := rfl
@[simp] theorem State.post_withheld (s : State) (e : Fin 7) (n : Nat) : (s.post e n).withheld = s.withheld := rfl
@[simp] theorem State.post_replies (s : State) (e : Fin 7) (n : Nat) : (s.post e n).replies = s.replies := rfl
@[simp] theorem State.post_group (s : State) (e : Fin 7) (n : Nat) : (s.post e n).group = s.group := rfl
@[simp] theorem State.post_fwrb (s : State) (e : Fin 7) (n : Nat) : (s.post e n).fwrb = s.fwrb := rfl
@[simp] theorem State.post_fwrlog (s : State) (e : Fin 7) (n : Nat) : (s.post e n).fwrlog = s.fwrlog := rfl
@[simp] theorem State.post_fwrrsv (s : State) (e : Fin 7) (n : Nat) : (s.post e n).fwrrsv = s.fwrrsv := rfl
@[simp] theorem State.post_fwrdone (s : State) (e : Fin 7) (n : Nat) : (s.post e n).fwrdone = s.fwrdone := rfl
@[simp] theorem State.post_boot (s : State) (e : Fin 7) (n : Nat) : (s.post e n).boot = s.boot := rfl
@[simp] theorem State.post_tasks (s : State) (e : Fin 7) (n : Nat) : (s.post e n).tasks = s.tasks := rfl
@[simp] theorem State.post_hbmErrs (s : State) (e : Fin 7) (n : Nat) : (s.post e n).hbmErrs = s.hbmErrs := rfl
@[simp] theorem State.post_broken (s : State) (e : Fin 7) (n : Nat) : (s.post e n).broken = s.broken := rfl
@[simp] theorem State.post_domains (s : State) (e : Fin 7) (n : Nat) : (s.post e n).domains = s.domains := rfl
@[simp] theorem State.post_works (s : State) (e : Fin 7) (n : Nat) : (s.post e n).works = s.works := rfl

@[simp] theorem State.commit_cur (s : State) (ws : List (Nat × Byte)) : (s.commit ws).cur = s.cur := rfl
@[simp] theorem State.commit_schedule (s : State) (ws : List (Nat × Byte)) : (s.commit ws).schedule = s.schedule := rfl
@[simp] theorem State.commit_fresh (s : State) (ws : List (Nat × Byte)) : (s.commit ws).fresh = s.fresh := rfl
@[simp] theorem State.commit_lost (s : State) (ws : List (Nat × Byte)) : (s.commit ws).lost = s.lost := rfl
@[simp] theorem State.commit_dies (s : State) (ws : List (Nat × Byte)) : (s.commit ws).dies = s.dies := rfl
@[simp] theorem State.commit_parts (s : State) (ws : List (Nat × Byte)) : (s.commit ws).parts = s.parts := rfl
@[simp] theorem State.commit_pops (s : State) (ws : List (Nat × Byte)) : (s.commit ws).pops = s.pops := rfl
@[simp] theorem State.commit_nextPop (s : State) (ws : List (Nat × Byte)) : (s.commit ws).nextPop = s.nextPop := rfl
@[simp] theorem State.commit_net (s : State) (ws : List (Nat × Byte)) : (s.commit ws).net = s.net := rfl
@[simp] theorem State.commit_out (s : State) (ws : List (Nat × Byte)) : (s.commit ws).out = s.out := rfl
@[simp] theorem State.commit_nextTag (s : State) (ws : List (Nat × Byte)) : (s.commit ws).nextTag = s.nextTag := rfl
@[simp] theorem State.commit_rings (s : State) (ws : List (Nat × Byte)) : (s.commit ws).rings = s.rings := rfl
@[simp] theorem State.commit_actives (s : State) (ws : List (Nat × Byte)) : (s.commit ws).actives = s.actives := rfl
@[simp] theorem State.commit_pendingRings (s : State) (ws : List (Nat × Byte)) : (s.commit ws).pendingRings = s.pendingRings := rfl
@[simp] theorem State.commit_running (s : State) (ws : List (Nat × Byte)) : (s.commit ws).running = s.running := rfl
@[simp] theorem State.commit_jbase (s : State) (ws : List (Nat × Byte)) : (s.commit ws).jbase = s.jbase := rfl
@[simp] theorem State.commit_jlog (s : State) (ws : List (Nat × Byte)) : (s.commit ws).jlog = s.jlog := rfl
@[simp] theorem State.commit_jhead (s : State) (ws : List (Nat × Byte)) : (s.commit ws).jhead = s.jhead := rfl
@[simp] theorem State.commit_jcons (s : State) (ws : List (Nat × Byte)) : (s.commit ws).jcons = s.jcons := rfl
@[simp] theorem State.commit_potb (s : State) (ws : List (Nat × Byte)) : (s.commit ws).potb = s.potb := rfl
@[simp] theorem State.commit_keys (s : State) (ws : List (Nat × Byte)) : (s.commit ws).keys = s.keys := rfl
@[simp] theorem State.commit_ports (s : State) (ws : List (Nat × Byte)) : (s.commit ws).ports = s.ports := rfl
@[simp] theorem State.commit_rounds (s : State) (ws : List (Nat × Byte)) : (s.commit ws).rounds = s.rounds := rfl
@[simp] theorem State.commit_tickets (s : State) (ws : List (Nat × Byte)) : (s.commit ws).tickets = s.tickets := rfl
@[simp] theorem State.commit_ticketWords (s : State) (ws : List (Nat × Byte)) : (s.commit ws).ticketWords = s.ticketWords := rfl
@[simp] theorem State.commit_withheld (s : State) (ws : List (Nat × Byte)) : (s.commit ws).withheld = s.withheld := rfl
@[simp] theorem State.commit_replies (s : State) (ws : List (Nat × Byte)) : (s.commit ws).replies = s.replies := rfl
@[simp] theorem State.commit_group (s : State) (ws : List (Nat × Byte)) : (s.commit ws).group = s.group := rfl
@[simp] theorem State.commit_events (s : State) (ws : List (Nat × Byte)) : (s.commit ws).events = s.events := rfl
@[simp] theorem State.commit_fwrb (s : State) (ws : List (Nat × Byte)) : (s.commit ws).fwrb = s.fwrb := rfl
@[simp] theorem State.commit_fwrlog (s : State) (ws : List (Nat × Byte)) : (s.commit ws).fwrlog = s.fwrlog := rfl
@[simp] theorem State.commit_fwrrsv (s : State) (ws : List (Nat × Byte)) : (s.commit ws).fwrrsv = s.fwrrsv := rfl
@[simp] theorem State.commit_fwrdone (s : State) (ws : List (Nat × Byte)) : (s.commit ws).fwrdone = s.fwrdone := rfl
@[simp] theorem State.commit_boot (s : State) (ws : List (Nat × Byte)) : (s.commit ws).boot = s.boot := rfl
@[simp] theorem State.commit_tasks (s : State) (ws : List (Nat × Byte)) : (s.commit ws).tasks = s.tasks := rfl
@[simp] theorem State.commit_hbmErrs (s : State) (ws : List (Nat × Byte)) : (s.commit ws).hbmErrs = s.hbmErrs := rfl
@[simp] theorem State.commit_broken (s : State) (ws : List (Nat × Byte)) : (s.commit ws).broken = s.broken := rfl
@[simp] theorem State.commit_raised (s : State) (ws : List (Nat × Byte)) : (s.commit ws).raised = s.raised := rfl
@[simp] theorem State.commit_domains (s : State) (ws : List (Nat × Byte)) : (s.commit ws).domains = s.domains := rfl
@[simp] theorem State.commit_works (s : State) (ws : List (Nat × Byte)) : (s.commit ws).works = s.works := rfl

@[simp] theorem State.commitAt_cur (s : State) (q : Nat) (bs : List Byte) : (s.commitAt q bs).cur = s.cur := rfl
@[simp] theorem State.commitAt_schedule (s : State) (q : Nat) (bs : List Byte) : (s.commitAt q bs).schedule = s.schedule := rfl
@[simp] theorem State.commitAt_fresh (s : State) (q : Nat) (bs : List Byte) : (s.commitAt q bs).fresh = s.fresh := rfl
@[simp] theorem State.commitAt_lost (s : State) (q : Nat) (bs : List Byte) : (s.commitAt q bs).lost = s.lost := rfl
@[simp] theorem State.commitAt_dies (s : State) (q : Nat) (bs : List Byte) : (s.commitAt q bs).dies = s.dies := rfl
@[simp] theorem State.commitAt_parts (s : State) (q : Nat) (bs : List Byte) : (s.commitAt q bs).parts = s.parts := rfl
@[simp] theorem State.commitAt_pops (s : State) (q : Nat) (bs : List Byte) : (s.commitAt q bs).pops = s.pops := rfl
@[simp] theorem State.commitAt_nextPop (s : State) (q : Nat) (bs : List Byte) : (s.commitAt q bs).nextPop = s.nextPop := rfl
@[simp] theorem State.commitAt_net (s : State) (q : Nat) (bs : List Byte) : (s.commitAt q bs).net = s.net := rfl
@[simp] theorem State.commitAt_out (s : State) (q : Nat) (bs : List Byte) : (s.commitAt q bs).out = s.out := rfl
@[simp] theorem State.commitAt_nextTag (s : State) (q : Nat) (bs : List Byte) : (s.commitAt q bs).nextTag = s.nextTag := rfl
@[simp] theorem State.commitAt_rings (s : State) (q : Nat) (bs : List Byte) : (s.commitAt q bs).rings = s.rings := rfl
@[simp] theorem State.commitAt_actives (s : State) (q : Nat) (bs : List Byte) : (s.commitAt q bs).actives = s.actives := rfl
@[simp] theorem State.commitAt_pendingRings (s : State) (q : Nat) (bs : List Byte) : (s.commitAt q bs).pendingRings = s.pendingRings := rfl
@[simp] theorem State.commitAt_running (s : State) (q : Nat) (bs : List Byte) : (s.commitAt q bs).running = s.running := rfl
@[simp] theorem State.commitAt_jbase (s : State) (q : Nat) (bs : List Byte) : (s.commitAt q bs).jbase = s.jbase := rfl
@[simp] theorem State.commitAt_jlog (s : State) (q : Nat) (bs : List Byte) : (s.commitAt q bs).jlog = s.jlog := rfl
@[simp] theorem State.commitAt_jhead (s : State) (q : Nat) (bs : List Byte) : (s.commitAt q bs).jhead = s.jhead := rfl
@[simp] theorem State.commitAt_jcons (s : State) (q : Nat) (bs : List Byte) : (s.commitAt q bs).jcons = s.jcons := rfl
@[simp] theorem State.commitAt_potb (s : State) (q : Nat) (bs : List Byte) : (s.commitAt q bs).potb = s.potb := rfl
@[simp] theorem State.commitAt_keys (s : State) (q : Nat) (bs : List Byte) : (s.commitAt q bs).keys = s.keys := rfl
@[simp] theorem State.commitAt_ports (s : State) (q : Nat) (bs : List Byte) : (s.commitAt q bs).ports = s.ports := rfl
@[simp] theorem State.commitAt_rounds (s : State) (q : Nat) (bs : List Byte) : (s.commitAt q bs).rounds = s.rounds := rfl
@[simp] theorem State.commitAt_tickets (s : State) (q : Nat) (bs : List Byte) : (s.commitAt q bs).tickets = s.tickets := rfl
@[simp] theorem State.commitAt_ticketWords (s : State) (q : Nat) (bs : List Byte) : (s.commitAt q bs).ticketWords = s.ticketWords := rfl
@[simp] theorem State.commitAt_withheld (s : State) (q : Nat) (bs : List Byte) : (s.commitAt q bs).withheld = s.withheld := rfl
@[simp] theorem State.commitAt_replies (s : State) (q : Nat) (bs : List Byte) : (s.commitAt q bs).replies = s.replies := rfl
@[simp] theorem State.commitAt_group (s : State) (q : Nat) (bs : List Byte) : (s.commitAt q bs).group = s.group := rfl
@[simp] theorem State.commitAt_events (s : State) (q : Nat) (bs : List Byte) : (s.commitAt q bs).events = s.events := rfl
@[simp] theorem State.commitAt_fwrb (s : State) (q : Nat) (bs : List Byte) : (s.commitAt q bs).fwrb = s.fwrb := rfl
@[simp] theorem State.commitAt_fwrlog (s : State) (q : Nat) (bs : List Byte) : (s.commitAt q bs).fwrlog = s.fwrlog := rfl
@[simp] theorem State.commitAt_fwrrsv (s : State) (q : Nat) (bs : List Byte) : (s.commitAt q bs).fwrrsv = s.fwrrsv := rfl
@[simp] theorem State.commitAt_fwrdone (s : State) (q : Nat) (bs : List Byte) : (s.commitAt q bs).fwrdone = s.fwrdone := rfl
@[simp] theorem State.commitAt_boot (s : State) (q : Nat) (bs : List Byte) : (s.commitAt q bs).boot = s.boot := rfl
@[simp] theorem State.commitAt_tasks (s : State) (q : Nat) (bs : List Byte) : (s.commitAt q bs).tasks = s.tasks := rfl
@[simp] theorem State.commitAt_hbmErrs (s : State) (q : Nat) (bs : List Byte) : (s.commitAt q bs).hbmErrs = s.hbmErrs := rfl
@[simp] theorem State.commitAt_broken (s : State) (q : Nat) (bs : List Byte) : (s.commitAt q bs).broken = s.broken := rfl
@[simp] theorem State.commitAt_raised (s : State) (q : Nat) (bs : List Byte) : (s.commitAt q bs).raised = s.raised := rfl
@[simp] theorem State.commitAt_domains (s : State) (q : Nat) (bs : List Byte) : (s.commitAt q bs).domains = s.domains := rfl
@[simp] theorem State.commitAt_works (s : State) (q : Nat) (bs : List Byte) : (s.commitAt q bs).works = s.works := rfl

@[simp] theorem State.commitWord_cur (s : State) (q : Nat) (v : Word) : (s.commitWord q v).cur = s.cur := rfl
@[simp] theorem State.commitWord_schedule (s : State) (q : Nat) (v : Word) : (s.commitWord q v).schedule = s.schedule := rfl
@[simp] theorem State.commitWord_fresh (s : State) (q : Nat) (v : Word) : (s.commitWord q v).fresh = s.fresh := rfl
@[simp] theorem State.commitWord_lost (s : State) (q : Nat) (v : Word) : (s.commitWord q v).lost = s.lost := rfl
@[simp] theorem State.commitWord_dies (s : State) (q : Nat) (v : Word) : (s.commitWord q v).dies = s.dies := rfl
@[simp] theorem State.commitWord_parts (s : State) (q : Nat) (v : Word) : (s.commitWord q v).parts = s.parts := rfl
@[simp] theorem State.commitWord_pops (s : State) (q : Nat) (v : Word) : (s.commitWord q v).pops = s.pops := rfl
@[simp] theorem State.commitWord_nextPop (s : State) (q : Nat) (v : Word) : (s.commitWord q v).nextPop = s.nextPop := rfl
@[simp] theorem State.commitWord_net (s : State) (q : Nat) (v : Word) : (s.commitWord q v).net = s.net := rfl
@[simp] theorem State.commitWord_out (s : State) (q : Nat) (v : Word) : (s.commitWord q v).out = s.out := rfl
@[simp] theorem State.commitWord_nextTag (s : State) (q : Nat) (v : Word) : (s.commitWord q v).nextTag = s.nextTag := rfl
@[simp] theorem State.commitWord_rings (s : State) (q : Nat) (v : Word) : (s.commitWord q v).rings = s.rings := rfl
@[simp] theorem State.commitWord_actives (s : State) (q : Nat) (v : Word) : (s.commitWord q v).actives = s.actives := rfl
@[simp] theorem State.commitWord_pendingRings (s : State) (q : Nat) (v : Word) : (s.commitWord q v).pendingRings = s.pendingRings := rfl
@[simp] theorem State.commitWord_running (s : State) (q : Nat) (v : Word) : (s.commitWord q v).running = s.running := rfl
@[simp] theorem State.commitWord_jbase (s : State) (q : Nat) (v : Word) : (s.commitWord q v).jbase = s.jbase := rfl
@[simp] theorem State.commitWord_jlog (s : State) (q : Nat) (v : Word) : (s.commitWord q v).jlog = s.jlog := rfl
@[simp] theorem State.commitWord_jhead (s : State) (q : Nat) (v : Word) : (s.commitWord q v).jhead = s.jhead := rfl
@[simp] theorem State.commitWord_jcons (s : State) (q : Nat) (v : Word) : (s.commitWord q v).jcons = s.jcons := rfl
@[simp] theorem State.commitWord_potb (s : State) (q : Nat) (v : Word) : (s.commitWord q v).potb = s.potb := rfl
@[simp] theorem State.commitWord_keys (s : State) (q : Nat) (v : Word) : (s.commitWord q v).keys = s.keys := rfl
@[simp] theorem State.commitWord_ports (s : State) (q : Nat) (v : Word) : (s.commitWord q v).ports = s.ports := rfl
@[simp] theorem State.commitWord_rounds (s : State) (q : Nat) (v : Word) : (s.commitWord q v).rounds = s.rounds := rfl
@[simp] theorem State.commitWord_tickets (s : State) (q : Nat) (v : Word) : (s.commitWord q v).tickets = s.tickets := rfl
@[simp] theorem State.commitWord_ticketWords (s : State) (q : Nat) (v : Word) : (s.commitWord q v).ticketWords = s.ticketWords := rfl
@[simp] theorem State.commitWord_withheld (s : State) (q : Nat) (v : Word) : (s.commitWord q v).withheld = s.withheld := rfl
@[simp] theorem State.commitWord_replies (s : State) (q : Nat) (v : Word) : (s.commitWord q v).replies = s.replies := rfl
@[simp] theorem State.commitWord_group (s : State) (q : Nat) (v : Word) : (s.commitWord q v).group = s.group := rfl
@[simp] theorem State.commitWord_events (s : State) (q : Nat) (v : Word) : (s.commitWord q v).events = s.events := rfl
@[simp] theorem State.commitWord_fwrb (s : State) (q : Nat) (v : Word) : (s.commitWord q v).fwrb = s.fwrb := rfl
@[simp] theorem State.commitWord_fwrlog (s : State) (q : Nat) (v : Word) : (s.commitWord q v).fwrlog = s.fwrlog := rfl
@[simp] theorem State.commitWord_fwrrsv (s : State) (q : Nat) (v : Word) : (s.commitWord q v).fwrrsv = s.fwrrsv := rfl
@[simp] theorem State.commitWord_fwrdone (s : State) (q : Nat) (v : Word) : (s.commitWord q v).fwrdone = s.fwrdone := rfl
@[simp] theorem State.commitWord_boot (s : State) (q : Nat) (v : Word) : (s.commitWord q v).boot = s.boot := rfl
@[simp] theorem State.commitWord_tasks (s : State) (q : Nat) (v : Word) : (s.commitWord q v).tasks = s.tasks := rfl
@[simp] theorem State.commitWord_hbmErrs (s : State) (q : Nat) (v : Word) : (s.commitWord q v).hbmErrs = s.hbmErrs := rfl
@[simp] theorem State.commitWord_broken (s : State) (q : Nat) (v : Word) : (s.commitWord q v).broken = s.broken := rfl
@[simp] theorem State.commitWord_raised (s : State) (q : Nat) (v : Word) : (s.commitWord q v).raised = s.raised := rfl
@[simp] theorem State.commitWord_domains (s : State) (q : Nat) (v : Word) : (s.commitWord q v).domains = s.domains := rfl
@[simp] theorem State.commitWord_works (s : State) (q : Nat) (v : Word) : (s.commitWord q v).works = s.works := rfl

@[simp] theorem State.commit_mem (s : State) (ws : List (Nat × Byte)) : (s.commit ws).mem = Memory.write s.mem ws := rfl
@[simp] theorem State.commitAt_mem (s : State) (q : Nat) (bs : List Byte) : (s.commitAt q bs).mem = Memory.write s.mem (cells q bs) := rfl
@[simp] theorem State.commitWord_mem (s : State) (q : Nat) (v : Word) :
    (s.commitWord q v).mem = Memory.write s.mem (cells q (toBytes 8 v.toNat)) := rfl

/-! ### The fields of a core -/

@[simp] theorem Core.modSlot_ttb (k : Core) (i : SlotId) (g : Slot → Slot) : (k.modSlot i g).ttb = k.ttb := rfl
@[simp] theorem Core.modSlot_mbt (k : Core) (i : SlotId) (g : Slot → Slot) : (k.modSlot i g).mbt = k.mbt := rfl
@[simp] theorem Core.modSlot_ulogb (k : Core) (i : SlotId) (g : Slot → Slot) : (k.modSlot i g).ulogb = k.ulogb := rfl
@[simp] theorem Core.modSlot_ulogl (k : Core) (i : SlotId) (g : Slot → Slot) : (k.modSlot i g).ulogl = k.ulogl := rfl
@[simp] theorem Core.modSlot_slogb (k : Core) (i : SlotId) (g : Slot → Slot) : (k.modSlot i g).slogb = k.slogb := rfl
@[simp] theorem Core.modSlot_slogl (k : Core) (i : SlotId) (g : Slot → Slot) : (k.modSlot i g).slogl = k.slogl := rfl
@[simp] theorem Core.modSlot_weight (k : Core) (i : SlotId) (g : Slot → Slot) : (k.modSlot i g).weight = k.weight := rfl
@[simp] theorem Core.modSlot_phbuf (k : Core) (i : SlotId) (g : Slot → Slot) : (k.modSlot i g).phbuf = k.phbuf := rfl
@[simp] theorem Core.modSlot_partmap (k : Core) (i : SlotId) (g : Slot → Slot) : (k.modSlot i g).partmap = k.partmap := rfl
@[simp] theorem Core.modSlot_timer (k : Core) (i : SlotId) (g : Slot → Slot) : (k.modSlot i g).timer = k.timer := rfl
@[simp] theorem Core.modSlot_wdwin (k : Core) (i : SlotId) (g : Slot → Slot) : (k.modSlot i g).wdwin = k.wdwin := rfl
@[simp] theorem Core.modSlot_fwdTo (k : Core) (i : SlotId) (g : Slot → Slot) : (k.modSlot i g).fwdTo = k.fwdTo := rfl
@[simp] theorem Core.modSlot_fwdV (k : Core) (i : SlotId) (g : Slot → Slot) : (k.modSlot i g).fwdV = k.fwdV := rfl
@[simp] theorem Core.modSlot_fwdAt (k : Core) (i : SlotId) (g : Slot → Slot) : (k.modSlot i g).fwdAt = k.fwdAt := rfl
@[simp] theorem Core.modSlot_trap (k : Core) (i : SlotId) (g : Slot → Slot) : (k.modSlot i g).trap = k.trap := rfl
@[simp] theorem Core.modSlot_hidden (k : Core) (i : SlotId) (g : Slot → Slot) : (k.modSlot i g).hidden = k.hidden := rfl
@[simp] theorem Core.modSlot_entry (k : Core) (i : SlotId) (g : Slot → Slot) : (k.modSlot i g).entry = k.entry := rfl
@[simp] theorem Core.modSlot_records (k : Core) (i : SlotId) (g : Slot → Slot) : (k.modSlot i g).records = k.records := rfl
@[simp] theorem Core.modSlot_current (k : Core) (i : SlotId) (g : Slot → Slot) : (k.modSlot i g).current = k.current := rfl
@[simp] theorem Core.modSlot_cycle (k : Core) (i : SlotId) (g : Slot → Slot) : (k.modSlot i g).cycle = k.cycle := rfl
@[simp] theorem Core.modSlot_served (k : Core) (i : SlotId) (g : Slot → Slot) : (k.modSlot i g).served = k.served := rfl
@[simp] theorem Core.modSlot_lock (k : Core) (i : SlotId) (g : Slot → Slot) : (k.modSlot i g).lock = k.lock := rfl
@[simp] theorem Core.modSlot_lockAt (k : Core) (i : SlotId) (g : Slot → Slot) : (k.modSlot i g).lockAt = k.lockAt := rfl
@[simp] theorem Core.modSlot_rotSlots (k : Core) (i : SlotId) (g : Slot → Slot) : (k.modSlot i g).rotSlots = k.rotSlots := rfl
@[simp] theorem Core.modSlot_rotPart (k : Core) (i : SlotId) (g : Slot → Slot) : (k.modSlot i g).rotPart = k.rotPart := rfl
@[simp] theorem Core.modSlot_rotLeft (k : Core) (i : SlotId) (g : Slot → Slot) : (k.modSlot i g).rotLeft = k.rotLeft := rfl
@[simp] theorem Core.modSlot_relocTo (k : Core) (i : SlotId) (g : Slot → Slot) : (k.modSlot i g).relocTo = k.relocTo := rfl
@[simp] theorem Core.modSlot_relocErr (k : Core) (i : SlotId) (g : Slot → Slot) : (k.modSlot i g).relocErr = k.relocErr := rfl
@[simp] theorem Core.modSlot_relocBusy (k : Core) (i : SlotId) (g : Slot → Slot) : (k.modSlot i g).relocBusy = k.relocBusy := rfl
@[simp] theorem Core.modSlot_grants (k : Core) (i : SlotId) (g : Slot → Slot) : (k.modSlot i g).grants = k.grants := rfl
@[simp] theorem Core.modSlot_buffer (k : Core) (i : SlotId) (g : Slot → Slot) : (k.modSlot i g).buffer = k.buffer := rfl
@[simp] theorem Core.modSlot_spill (k : Core) (i : SlotId) (g : Slot → Slot) : (k.modSlot i g).spill = k.spill := rfl
@[simp] theorem Core.modSlot_matrixQ (k : Core) (i : SlotId) (g : Slot → Slot) : (k.modSlot i g).matrixQ = k.matrixQ := rfl
@[simp] theorem Core.modSlot_copyQ (k : Core) (i : SlotId) (g : Slot → Slot) : (k.modSlot i g).copyQ = k.copyQ := rfl
@[simp] theorem Core.modSlot_decQ (k : Core) (i : SlotId) (g : Slot → Slot) : (k.modSlot i g).decQ = k.decQ := rfl
@[simp] theorem Core.modSlot_shadow (k : Core) (i : SlotId) (g : Slot → Slot) : (k.modSlot i g).shadow = k.shadow := rfl
@[simp] theorem Core.modSlot_mail (k : Core) (i : SlotId) (g : Slot → Slot) : (k.modSlot i g).mail = k.mail := rfl
@[simp] theorem Core.modSlot_mid (k : Core) (i : SlotId) (g : Slot → Slot) : (k.modSlot i g).mid = k.mid := rfl
@[simp] theorem Core.modSlot_escIssue (k : Core) (i : SlotId) (g : Slot → Slot) : (k.modSlot i g).escIssue = k.escIssue := rfl
@[simp] theorem Core.modSlot_undo (k : Core) (i : SlotId) (g : Slot → Slot) : (k.modSlot i g).undo = k.undo := rfl
@[simp] theorem Core.modSlot_undoAt (k : Core) (i : SlotId) (g : Slot → Slot) : (k.modSlot i g).undoAt = k.undoAt := rfl
@[simp] theorem Core.modSlot_sent (k : Core) (i : SlotId) (g : Slot → Slot) : (k.modSlot i g).sent = k.sent := rfl
@[simp] theorem Core.modSlot_sentAt (k : Core) (i : SlotId) (g : Slot → Slot) : (k.modSlot i g).sentAt = k.sentAt := rfl
@[simp] theorem Core.modSlot_runList (k : Core) (i : SlotId) (g : Slot → Slot) : (k.modSlot i g).runList = k.runList := rfl
@[simp] theorem Core.modSlot_antis (k : Core) (i : SlotId) (g : Slot → Slot) : (k.modSlot i g).antis = k.antis := rfl
@[simp] theorem Core.modSlot_zones (k : Core) (i : SlotId) (g : Slot → Slot) : (k.modSlot i g).zones = k.zones := rfl
@[simp] theorem Core.modSlot_watch (k : Core) (i : SlotId) (g : Slot → Slot) : (k.modSlot i g).watch = k.watch := rfl
@[simp] theorem Core.modSlot_fires (k : Core) (i : SlotId) (g : Slot → Slot) : (k.modSlot i g).fires = k.fires := rfl
@[simp] theorem Core.modSlot_keySel (k : Core) (i : SlotId) (g : Slot → Slot) : (k.modSlot i g).keySel = k.keySel := rfl
@[simp] theorem Core.modSlot_captured (k : Core) (i : SlotId) (g : Slot → Slot) : (k.modSlot i g).captured = k.captured := rfl
@[simp] theorem Core.modSlot_lastStop (k : Core) (i : SlotId) (g : Slot → Slot) : (k.modSlot i g).lastStop = k.lastStop := rfl
@[simp] theorem Core.modSlot_restop (k : Core) (i : SlotId) (g : Slot → Slot) : (k.modSlot i g).restop = k.restop := rfl
@[simp] theorem Core.modSlot_absent (k : Core) (i : SlotId) (g : Slot → Slot) : (k.modSlot i g).absent = k.absent := rfl
@[simp] theorem Core.modSlot_vaultErrs (k : Core) (i : SlotId) (g : Slot → Slot) : (k.modSlot i g).vaultErrs = k.vaultErrs := rfl
@[simp] theorem Core.modSlot_rotAt (k : Core) (i : SlotId) (g : Slot → Slot) : (k.modSlot i g).rotAt = k.rotAt := rfl
@[simp] theorem Core.modSlot_relocIn (k : Core) (i : SlotId) (g : Slot → Slot) : (k.modSlot i g).relocIn = k.relocIn := rfl
@[simp] theorem Core.modSlot_stalls (k : Core) (i : SlotId) (g : Slot → Slot) : (k.modSlot i g).stalls = k.stalls := rfl

@[simp] theorem Core.fire_ttb (k : Core) (ws : List (Nat × Byte)) : (k.fire ws).ttb = k.ttb := rfl
@[simp] theorem Core.fire_mbt (k : Core) (ws : List (Nat × Byte)) : (k.fire ws).mbt = k.mbt := rfl
@[simp] theorem Core.fire_ulogb (k : Core) (ws : List (Nat × Byte)) : (k.fire ws).ulogb = k.ulogb := rfl
@[simp] theorem Core.fire_ulogl (k : Core) (ws : List (Nat × Byte)) : (k.fire ws).ulogl = k.ulogl := rfl
@[simp] theorem Core.fire_slogb (k : Core) (ws : List (Nat × Byte)) : (k.fire ws).slogb = k.slogb := rfl
@[simp] theorem Core.fire_slogl (k : Core) (ws : List (Nat × Byte)) : (k.fire ws).slogl = k.slogl := rfl
@[simp] theorem Core.fire_weight (k : Core) (ws : List (Nat × Byte)) : (k.fire ws).weight = k.weight := rfl
@[simp] theorem Core.fire_phbuf (k : Core) (ws : List (Nat × Byte)) : (k.fire ws).phbuf = k.phbuf := rfl
@[simp] theorem Core.fire_partmap (k : Core) (ws : List (Nat × Byte)) : (k.fire ws).partmap = k.partmap := rfl
@[simp] theorem Core.fire_timer (k : Core) (ws : List (Nat × Byte)) : (k.fire ws).timer = k.timer := rfl
@[simp] theorem Core.fire_wdwin (k : Core) (ws : List (Nat × Byte)) : (k.fire ws).wdwin = k.wdwin := rfl
@[simp] theorem Core.fire_fwdTo (k : Core) (ws : List (Nat × Byte)) : (k.fire ws).fwdTo = k.fwdTo := rfl
@[simp] theorem Core.fire_fwdV (k : Core) (ws : List (Nat × Byte)) : (k.fire ws).fwdV = k.fwdV := rfl
@[simp] theorem Core.fire_fwdAt (k : Core) (ws : List (Nat × Byte)) : (k.fire ws).fwdAt = k.fwdAt := rfl
@[simp] theorem Core.fire_trap (k : Core) (ws : List (Nat × Byte)) : (k.fire ws).trap = k.trap := rfl
@[simp] theorem Core.fire_hidden (k : Core) (ws : List (Nat × Byte)) : (k.fire ws).hidden = k.hidden := rfl
@[simp] theorem Core.fire_entry (k : Core) (ws : List (Nat × Byte)) : (k.fire ws).entry = k.entry := rfl
@[simp] theorem Core.fire_records (k : Core) (ws : List (Nat × Byte)) : (k.fire ws).records = k.records := rfl
@[simp] theorem Core.fire_current (k : Core) (ws : List (Nat × Byte)) : (k.fire ws).current = k.current := rfl
@[simp] theorem Core.fire_cycle (k : Core) (ws : List (Nat × Byte)) : (k.fire ws).cycle = k.cycle := rfl
@[simp] theorem Core.fire_served (k : Core) (ws : List (Nat × Byte)) : (k.fire ws).served = k.served := rfl
@[simp] theorem Core.fire_lock (k : Core) (ws : List (Nat × Byte)) : (k.fire ws).lock = k.lock := rfl
@[simp] theorem Core.fire_lockAt (k : Core) (ws : List (Nat × Byte)) : (k.fire ws).lockAt = k.lockAt := rfl
@[simp] theorem Core.fire_rotSlots (k : Core) (ws : List (Nat × Byte)) : (k.fire ws).rotSlots = k.rotSlots := rfl
@[simp] theorem Core.fire_rotPart (k : Core) (ws : List (Nat × Byte)) : (k.fire ws).rotPart = k.rotPart := rfl
@[simp] theorem Core.fire_rotLeft (k : Core) (ws : List (Nat × Byte)) : (k.fire ws).rotLeft = k.rotLeft := rfl
@[simp] theorem Core.fire_relocTo (k : Core) (ws : List (Nat × Byte)) : (k.fire ws).relocTo = k.relocTo := rfl
@[simp] theorem Core.fire_relocErr (k : Core) (ws : List (Nat × Byte)) : (k.fire ws).relocErr = k.relocErr := rfl
@[simp] theorem Core.fire_relocBusy (k : Core) (ws : List (Nat × Byte)) : (k.fire ws).relocBusy = k.relocBusy := rfl
@[simp] theorem Core.fire_grants (k : Core) (ws : List (Nat × Byte)) : (k.fire ws).grants = k.grants := rfl
@[simp] theorem Core.fire_buffer (k : Core) (ws : List (Nat × Byte)) : (k.fire ws).buffer = k.buffer := rfl
@[simp] theorem Core.fire_spill (k : Core) (ws : List (Nat × Byte)) : (k.fire ws).spill = k.spill := rfl
@[simp] theorem Core.fire_matrixQ (k : Core) (ws : List (Nat × Byte)) : (k.fire ws).matrixQ = k.matrixQ := rfl
@[simp] theorem Core.fire_copyQ (k : Core) (ws : List (Nat × Byte)) : (k.fire ws).copyQ = k.copyQ := rfl
@[simp] theorem Core.fire_decQ (k : Core) (ws : List (Nat × Byte)) : (k.fire ws).decQ = k.decQ := rfl
@[simp] theorem Core.fire_shadow (k : Core) (ws : List (Nat × Byte)) : (k.fire ws).shadow = k.shadow := rfl
@[simp] theorem Core.fire_mail (k : Core) (ws : List (Nat × Byte)) : (k.fire ws).mail = k.mail := rfl
@[simp] theorem Core.fire_mid (k : Core) (ws : List (Nat × Byte)) : (k.fire ws).mid = k.mid := rfl
@[simp] theorem Core.fire_escIssue (k : Core) (ws : List (Nat × Byte)) : (k.fire ws).escIssue = k.escIssue := rfl
@[simp] theorem Core.fire_undo (k : Core) (ws : List (Nat × Byte)) : (k.fire ws).undo = k.undo := rfl
@[simp] theorem Core.fire_undoAt (k : Core) (ws : List (Nat × Byte)) : (k.fire ws).undoAt = k.undoAt := rfl
@[simp] theorem Core.fire_sent (k : Core) (ws : List (Nat × Byte)) : (k.fire ws).sent = k.sent := rfl
@[simp] theorem Core.fire_sentAt (k : Core) (ws : List (Nat × Byte)) : (k.fire ws).sentAt = k.sentAt := rfl
@[simp] theorem Core.fire_runList (k : Core) (ws : List (Nat × Byte)) : (k.fire ws).runList = k.runList := rfl
@[simp] theorem Core.fire_antis (k : Core) (ws : List (Nat × Byte)) : (k.fire ws).antis = k.antis := rfl
@[simp] theorem Core.fire_zones (k : Core) (ws : List (Nat × Byte)) : (k.fire ws).zones = k.zones := rfl
@[simp] theorem Core.fire_watch (k : Core) (ws : List (Nat × Byte)) : (k.fire ws).watch = k.watch := rfl
@[simp] theorem Core.fire_fires (k : Core) (ws : List (Nat × Byte)) : (k.fire ws).fires = k.fires := rfl
@[simp] theorem Core.fire_keySel (k : Core) (ws : List (Nat × Byte)) : (k.fire ws).keySel = k.keySel := rfl
@[simp] theorem Core.fire_captured (k : Core) (ws : List (Nat × Byte)) : (k.fire ws).captured = k.captured := rfl
@[simp] theorem Core.fire_lastStop (k : Core) (ws : List (Nat × Byte)) : (k.fire ws).lastStop = k.lastStop := rfl
@[simp] theorem Core.fire_restop (k : Core) (ws : List (Nat × Byte)) : (k.fire ws).restop = k.restop := rfl
@[simp] theorem Core.fire_absent (k : Core) (ws : List (Nat × Byte)) : (k.fire ws).absent = k.absent := rfl
@[simp] theorem Core.fire_vaultErrs (k : Core) (ws : List (Nat × Byte)) : (k.fire ws).vaultErrs = k.vaultErrs := rfl
@[simp] theorem Core.fire_rotAt (k : Core) (ws : List (Nat × Byte)) : (k.fire ws).rotAt = k.rotAt := rfl
@[simp] theorem Core.fire_relocIn (k : Core) (ws : List (Nat × Byte)) : (k.fire ws).relocIn = k.relocIn := rfl
@[simp] theorem Core.fire_stalls (k : Core) (ws : List (Nat × Byte)) : (k.fire ws).stalls = k.stalls := rfl

/-! ### The fields of a slot -/

@[simp] theorem Slot.setX_state (t : Slot) (r : XReg) (v : Word) : (t.setX r v).state = t.state := rfl
@[simp] theorem Slot.setX_p (t : Slot) (r : XReg) (v : Word) : (t.setX r v).p = t.p := rfl
@[simp] theorem Slot.setX_m (t : Slot) (r : XReg) (v : Word) : (t.setX r v).m = t.m := rfl
@[simp] theorem Slot.setX_v (t : Slot) (r : XReg) (v : Word) : (t.setX r v).v = t.v := rfl
@[simp] theorem Slot.setX_pc (t : Slot) (r : XReg) (v : Word) : (t.setX r v).pc = t.pc := rfl
@[simp] theorem Slot.setX_opt (t : Slot) (r : XReg) (v : Word) : (t.setX r v).opt = t.opt := rfl
@[simp] theorem Slot.setX_evo (t : Slot) (r : XReg) (v : Word) : (t.setX r v).evo = t.evo := rfl
@[simp] theorem Slot.setX_prot (t : Slot) (r : XReg) (v : Word) : (t.setX r v).prot = t.prot := rfl
@[simp] theorem Slot.setX_part (t : Slot) (r : XReg) (v : Word) : (t.setX r v).part = t.part := rfl
@[simp] theorem Slot.setX_frm (t : Slot) (r : XReg) (v : Word) : (t.setX r v).frm = t.frm := rfl
@[simp] theorem Slot.setX_fflags (t : Slot) (r : XReg) (v : Word) : (t.setX r v).fflags = t.fflags := rfl
@[simp] theorem Slot.setX_prvb (t : Slot) (r : XReg) (v : Word) : (t.setX r v).prvb = t.prvb := rfl
@[simp] theorem Slot.setX_prvl (t : Slot) (r : XReg) (v : Word) : (t.setX r v).prvl = t.prvl := rfl
@[simp] theorem Slot.setX_lvt (t : Slot) (r : XReg) (v : Word) : (t.setX r v).lvt = t.lvt := rfl
@[simp] theorem Slot.setX_evsb (t : Slot) (r : XReg) (v : Word) : (t.setX r v).evsb = t.evsb := rfl
@[simp] theorem Slot.setX_evsl (t : Slot) (r : XReg) (v : Word) : (t.setX r v).evsl = t.evsl := rfl
@[simp] theorem Slot.setX_evid (t : Slot) (r : XReg) (v : Word) : (t.setX r v).evid = t.evid := rfl
@[simp] theorem Slot.setX_popid (t : Slot) (r : XReg) (v : Word) : (t.setX r v).popid = t.popid := rfl
@[simp] theorem Slot.setX_thidx (t : Slot) (r : XReg) (v : Word) : (t.setX r v).thidx = t.thidx := rfl
@[simp] theorem Slot.setX_range (t : Slot) (r : XReg) (v : Word) : (t.setX r v).range = t.range := rfl
@[simp] theorem Slot.setX_wait (t : Slot) (r : XReg) (v : Word) : (t.setX r v).wait = t.wait := rfl
@[simp] theorem Slot.setX_prog (t : Slot) (r : XReg) (v : Word) : (t.setX r v).prog = t.prog := rfl
@[simp] theorem Slot.setX_monitor (t : Slot) (r : XReg) (v : Word) : (t.setX r v).monitor = t.monitor := rfl
@[simp] theorem Slot.setX_res (t : Slot) (r : XReg) (v : Word) : (t.setX r v).res = t.res := rfl
@[simp] theorem Slot.setX_yielded (t : Slot) (r : XReg) (v : Word) : (t.setX r v).yielded = t.yielded := rfl
@[simp] theorem Slot.setX_pending (t : Slot) (r : XReg) (v : Word) : (t.setX r v).pending = t.pending := rfl
@[simp] theorem Slot.setX_antiOut (t : Slot) (r : XReg) (v : Word) : (t.setX r v).antiOut = t.antiOut := rfl
@[simp] theorem Slot.setX_refused (t : Slot) (r : XReg) (v : Word) : (t.setX r v).refused = t.refused := rfl
@[simp] theorem Slot.setX_mint (t : Slot) (r : XReg) (v : Word) : (t.setX r v).mint = t.mint := rfl
@[simp] theorem Slot.setX_binding (t : Slot) (r : XReg) (v : Word) : (t.setX r v).binding = t.binding := rfl
@[simp] theorem Slot.setX_reserved (t : Slot) (r : XReg) (v : Word) : (t.setX r v).reserved = t.reserved := rfl
@[simp] theorem Slot.setX_evicting (t : Slot) (r : XReg) (v : Word) : (t.setX r v).evicting = t.evicting := rfl
@[simp] theorem Slot.setX_stage (t : Slot) (r : XReg) (v : Word) : (t.setX r v).stage = t.stage := rfl
@[simp] theorem Slot.setX_stopping (t : Slot) (r : XReg) (v : Word) : (t.setX r v).stopping = t.stopping := rfl
@[simp] theorem Slot.setX_intr (t : Slot) (r : XReg) (v : Word) : (t.setX r v).intr = t.intr := rfl
@[simp] theorem Slot.setX_trapped (t : Slot) (r : XReg) (v : Word) : (t.setX r v).trapped = t.trapped := rfl
@[simp] theorem Slot.setX_owned (t : Slot) (r : XReg) (v : Word) : (t.setX r v).owned = t.owned := rfl
@[simp] theorem Slot.setX_into (t : Slot) (r : XReg) (v : Word) : (t.setX r v).into = t.into := rfl
@[simp] theorem Slot.setX_ibuf (t : Slot) (r : XReg) (v : Word) : (t.setX r v).ibuf = t.ibuf := rfl
@[simp] theorem Slot.setX_fenced (t : Slot) (r : XReg) (v : Word) : (t.setX r v).fenced = t.fenced := rfl
@[simp] theorem Slot.setX_seen (t : Slot) (r : XReg) (v : Word) : (t.setX r v).seen = t.seen := rfl
@[simp] theorem Slot.setX_stalls (t : Slot) (r : XReg) (v : Word) : (t.setX r v).stalls = t.stalls := rfl

@[simp] theorem Slot.setP_state (t : Slot) (r : PReg) (b : Bool) : (t.setP r b).state = t.state := by
  unfold Slot.setP; split <;> rfl
@[simp] theorem Slot.setP_x (t : Slot) (r : PReg) (b : Bool) : (t.setP r b).x = t.x := by
  unfold Slot.setP; split <;> rfl
@[simp] theorem Slot.setP_m (t : Slot) (r : PReg) (b : Bool) : (t.setP r b).m = t.m := by
  unfold Slot.setP; split <;> rfl
@[simp] theorem Slot.setP_v (t : Slot) (r : PReg) (b : Bool) : (t.setP r b).v = t.v := by
  unfold Slot.setP; split <;> rfl
@[simp] theorem Slot.setP_pc (t : Slot) (r : PReg) (b : Bool) : (t.setP r b).pc = t.pc := by
  unfold Slot.setP; split <;> rfl
@[simp] theorem Slot.setP_opt (t : Slot) (r : PReg) (b : Bool) : (t.setP r b).opt = t.opt := by
  unfold Slot.setP; split <;> rfl
@[simp] theorem Slot.setP_evo (t : Slot) (r : PReg) (b : Bool) : (t.setP r b).evo = t.evo := by
  unfold Slot.setP; split <;> rfl
@[simp] theorem Slot.setP_prot (t : Slot) (r : PReg) (b : Bool) : (t.setP r b).prot = t.prot := by
  unfold Slot.setP; split <;> rfl
@[simp] theorem Slot.setP_part (t : Slot) (r : PReg) (b : Bool) : (t.setP r b).part = t.part := by
  unfold Slot.setP; split <;> rfl
@[simp] theorem Slot.setP_frm (t : Slot) (r : PReg) (b : Bool) : (t.setP r b).frm = t.frm := by
  unfold Slot.setP; split <;> rfl
@[simp] theorem Slot.setP_fflags (t : Slot) (r : PReg) (b : Bool) : (t.setP r b).fflags = t.fflags := by
  unfold Slot.setP; split <;> rfl
@[simp] theorem Slot.setP_prvb (t : Slot) (r : PReg) (b : Bool) : (t.setP r b).prvb = t.prvb := by
  unfold Slot.setP; split <;> rfl
@[simp] theorem Slot.setP_prvl (t : Slot) (r : PReg) (b : Bool) : (t.setP r b).prvl = t.prvl := by
  unfold Slot.setP; split <;> rfl
@[simp] theorem Slot.setP_lvt (t : Slot) (r : PReg) (b : Bool) : (t.setP r b).lvt = t.lvt := by
  unfold Slot.setP; split <;> rfl
@[simp] theorem Slot.setP_evsb (t : Slot) (r : PReg) (b : Bool) : (t.setP r b).evsb = t.evsb := by
  unfold Slot.setP; split <;> rfl
@[simp] theorem Slot.setP_evsl (t : Slot) (r : PReg) (b : Bool) : (t.setP r b).evsl = t.evsl := by
  unfold Slot.setP; split <;> rfl
@[simp] theorem Slot.setP_evid (t : Slot) (r : PReg) (b : Bool) : (t.setP r b).evid = t.evid := by
  unfold Slot.setP; split <;> rfl
@[simp] theorem Slot.setP_popid (t : Slot) (r : PReg) (b : Bool) : (t.setP r b).popid = t.popid := by
  unfold Slot.setP; split <;> rfl
@[simp] theorem Slot.setP_thidx (t : Slot) (r : PReg) (b : Bool) : (t.setP r b).thidx = t.thidx := by
  unfold Slot.setP; split <;> rfl
@[simp] theorem Slot.setP_range (t : Slot) (r : PReg) (b : Bool) : (t.setP r b).range = t.range := by
  unfold Slot.setP; split <;> rfl
@[simp] theorem Slot.setP_wait (t : Slot) (r : PReg) (b : Bool) : (t.setP r b).wait = t.wait := by
  unfold Slot.setP; split <;> rfl
@[simp] theorem Slot.setP_prog (t : Slot) (r : PReg) (b : Bool) : (t.setP r b).prog = t.prog := by
  unfold Slot.setP; split <;> rfl
@[simp] theorem Slot.setP_monitor (t : Slot) (r : PReg) (b : Bool) : (t.setP r b).monitor = t.monitor := by
  unfold Slot.setP; split <;> rfl
@[simp] theorem Slot.setP_res (t : Slot) (r : PReg) (b : Bool) : (t.setP r b).res = t.res := by
  unfold Slot.setP; split <;> rfl
@[simp] theorem Slot.setP_yielded (t : Slot) (r : PReg) (b : Bool) : (t.setP r b).yielded = t.yielded := by
  unfold Slot.setP; split <;> rfl
@[simp] theorem Slot.setP_pending (t : Slot) (r : PReg) (b : Bool) : (t.setP r b).pending = t.pending := by
  unfold Slot.setP; split <;> rfl
@[simp] theorem Slot.setP_antiOut (t : Slot) (r : PReg) (b : Bool) : (t.setP r b).antiOut = t.antiOut := by
  unfold Slot.setP; split <;> rfl
@[simp] theorem Slot.setP_refused (t : Slot) (r : PReg) (b : Bool) : (t.setP r b).refused = t.refused := by
  unfold Slot.setP; split <;> rfl
@[simp] theorem Slot.setP_mint (t : Slot) (r : PReg) (b : Bool) : (t.setP r b).mint = t.mint := by
  unfold Slot.setP; split <;> rfl
@[simp] theorem Slot.setP_binding (t : Slot) (r : PReg) (b : Bool) : (t.setP r b).binding = t.binding := by
  unfold Slot.setP; split <;> rfl
@[simp] theorem Slot.setP_reserved (t : Slot) (r : PReg) (b : Bool) : (t.setP r b).reserved = t.reserved := by
  unfold Slot.setP; split <;> rfl
@[simp] theorem Slot.setP_evicting (t : Slot) (r : PReg) (b : Bool) : (t.setP r b).evicting = t.evicting := by
  unfold Slot.setP; split <;> rfl
@[simp] theorem Slot.setP_stage (t : Slot) (r : PReg) (b : Bool) : (t.setP r b).stage = t.stage := by
  unfold Slot.setP; split <;> rfl
@[simp] theorem Slot.setP_stopping (t : Slot) (r : PReg) (b : Bool) : (t.setP r b).stopping = t.stopping := by
  unfold Slot.setP; split <;> rfl
@[simp] theorem Slot.setP_intr (t : Slot) (r : PReg) (b : Bool) : (t.setP r b).intr = t.intr := by
  unfold Slot.setP; split <;> rfl
@[simp] theorem Slot.setP_trapped (t : Slot) (r : PReg) (b : Bool) : (t.setP r b).trapped = t.trapped := by
  unfold Slot.setP; split <;> rfl
@[simp] theorem Slot.setP_owned (t : Slot) (r : PReg) (b : Bool) : (t.setP r b).owned = t.owned := by
  unfold Slot.setP; split <;> rfl
@[simp] theorem Slot.setP_into (t : Slot) (r : PReg) (b : Bool) : (t.setP r b).into = t.into := by
  unfold Slot.setP; split <;> rfl
@[simp] theorem Slot.setP_ibuf (t : Slot) (r : PReg) (b : Bool) : (t.setP r b).ibuf = t.ibuf := by
  unfold Slot.setP; split <;> rfl
@[simp] theorem Slot.setP_fenced (t : Slot) (r : PReg) (b : Bool) : (t.setP r b).fenced = t.fenced := by
  unfold Slot.setP; split <;> rfl
@[simp] theorem Slot.setP_seen (t : Slot) (r : PReg) (b : Bool) : (t.setP r b).seen = t.seen := by
  unfold Slot.setP; split <;> rfl
@[simp] theorem Slot.setP_stalls (t : Slot) (r : PReg) (b : Bool) : (t.setP r b).stalls = t.stalls := by
  unfold Slot.setP; split <;> rfl

/-! ### Cores and slots after an update -/

@[simp] theorem State.core_setCore_self (s : State) (c : Nat) (k : Core) : (s.setCore c k).core c = k := by
  simp [State.core, State.setCore]
theorem State.core_setCore_ne (s : State) {c d : Nat} (k : Core) (h : d ≠ c) : (s.setCore c k).core d = s.core d := by
  simp [State.core, State.setCore, SMap.get_set_ne _ _ _ h]
@[simp] theorem State.core_modCore_self (s : State) (c : Nat) (f : Core → Core) : (s.modCore c f).core c = f (s.core c) := by
  simp [State.modCore]
theorem State.core_modCore_ne (s : State) {c d : Nat} (f : Core → Core) (h : d ≠ c) : (s.modCore c f).core d = s.core d :=
  s.core_setCore_ne _ h
@[simp] theorem State.modCore_modCore (s : State) (c : Nat) (f g : Core → Core) :
    (s.modCore c f).modCore c g = s.modCore c fun k => g (f k) := by
  simp [State.modCore, State.setCore, State.core]

@[simp] theorem Core.slots_modSlot_self (k : Core) (i : SlotId) (f : Slot → Slot) : (k.modSlot i f).slots[i.val] = f k.slots[i.val] := by
  simp [Core.modSlot]
theorem Core.slots_modSlot_ne (k : Core) {i j : SlotId} (f : Slot → Slot) (h : j ≠ i) :
    (k.modSlot i f).slots[j.val] = k.slots[j.val] := by
  have : i.val ≠ j.val := fun e => h (Fin.ext e.symm)
  simp [Core.modSlot, this]
@[simp] theorem Core.modSlot_modSlot (k : Core) (i : SlotId) (f g : Slot → Slot) :
    (k.modSlot i f).modSlot i g = k.modSlot i fun t => g (f t) := by
  simp [Core.modSlot]
theorem Core.modSlot_id (k : Core) (i : SlotId) (f : Slot → Slot) (h : f k.slots[i.val] = k.slots[i.val]) : k.modSlot i f = k := by
  simp [Core.modSlot, h]

@[simp] theorem State.slotAt_modSlot_self (s : State) (p : Place) (f : Slot → Slot) : (s.modSlot p f).slotAt p = f (s.slotAt p) := by
  simp [State.slotAt, State.modSlot]
theorem State.slotAt_modSlot_ne (s : State) {p q : Place} (f : Slot → Slot) (h : q ≠ p) : (s.modSlot p f).slotAt q = s.slotAt q := by
  by_cases hc : q.core = p.core
  · have : q.slot ≠ p.slot := fun e => h (by cases p; cases q; simp_all)
    simp [State.slotAt, State.modSlot, hc, Core.slots_modSlot_ne _ _ this]
  · have : q.core.val ≠ p.core.val := fun e => hc (Fin.ext e)
    simp [State.slotAt, State.modSlot, State.core_modCore_ne _ _ this]
@[simp] theorem State.modSlot_modSlot (s : State) (p : Place) (f g : Slot → Slot) :
    (s.modSlot p f).modSlot p g = s.modSlot p fun t => g (f t) := by
  simp [State.modSlot]
/-- A second update that changes nothing leaves the first. -/
theorem State.modSlot_keep (s : State) (p : Place) (f g : Slot → Slot) (h : g (f (s.slotAt p)) = f (s.slotAt p)) :
    (s.modSlot p f).modSlot p g = s.modSlot p f := by
  rw [State.modSlot_modSlot]
  simp only [State.modSlot, State.modCore, Core.modSlot]
  unfold State.slotAt at h
  rw [h]

@[simp] theorem State.me_modMe (s : State) (f : Slot → Slot) : (s.modMe f).me = f s.me := by
  simp [State.me, State.modMe]
theorem State.slotAt_modMe_ne (s : State) (f : Slot → Slot) {q : Place} (h : q ≠ s.cur) : (s.modMe f).slotAt q = s.slotAt q :=
  s.slotAt_modSlot_ne f h
@[simp] theorem State.modMe_modMe (s : State) (f g : Slot → Slot) : (s.modMe f).modMe g = s.modMe fun t => g (f t) := by
  simp [State.modMe]
/-- A core after an update of the executing slot: only its slots change. -/
theorem State.core_modMe (s : State) (f : Slot → Slot) (c : Nat) :
    (s.modMe f).core c = { s.core c with slots := ((s.modMe f).core c).slots } := by
  by_cases h : c = s.cur.core.val
  · subst h; simp [State.modMe, State.modSlot, Core.modSlot]
  · simp [State.modMe, State.modSlot, State.core_modCore_ne _ _ h]

/-! ### Registers after a write -/

@[simp] theorem Slot.setX_x_self (t : Slot) (r : XReg) (v : Word) : (t.setX r v).x[r.val] = v := by simp [Slot.setX]
theorem Slot.setX_x_ne (t : Slot) {r q : XReg} (v : Word) (h : q ≠ r) : (t.setX r v).x[q.val] = t.x[q.val] := by
  have : r.val ≠ q.val := fun e => h (Fin.ext e.symm)
  simp [Slot.setX, this]
@[simp] theorem State.me_setX (s : State) (r : XReg) (v : Word) : (s.setX r v).me = s.me.setX r v := by simp [State.setX]
@[simp] theorem State.x_setX_self (s : State) (r : XReg) (v : Word) : (s.setX r v).x r = v := by simp [State.x]
theorem State.x_setX_ne (s : State) {r q : XReg} (v : Word) (h : q ≠ r) : (s.setX r v).x q = s.x q := by
  simp [State.x, Slot.setX_x_ne _ _ h]
@[simp] theorem State.me_setP (s : State) (r : PReg) (b : Bool) : (s.setP r b).me = s.me.setP r b := by simp [State.setP]
/-- A write of p0 is discarded (02_encoding R34). -/
@[simp] theorem Slot.setP_zero (t : Slot) (b : Bool) : t.setP 0 b = t := by simp [Slot.setP]
@[simp] theorem State.me_setV (s : State) (r : VReg) (w : Vec) : (s.setV r w).me = { s.me with v := s.me.v.set r.val w } := by
  simp [State.setV]
@[simp] theorem State.me_orFlags (s : State) (f : BitVec 5) : (s.orFlags f).me = { s.me with fflags := s.me.fflags ||| f } := by
  simp [State.orFlags]
/-- A write of m0 is discarded (02_encoding R34). -/
@[simp] theorem State.setM_zero (s : State) (w : BitVec 32) : s.setM 0 w = s := by simp [State.setM]

end Sys2Proof.Machine
end

