-- ==== Sys2Proof/Laws/Memory.lean ====
section
/-! SUPPORT. Committed memory: a write keeps the canonical form, reads back, and leaves every other byte. -/

namespace Sys2Proof.Machine

theorem Memory.wf_tail {e : Host.Cell} {t : List Host.Cell} (h : Memory.wf (e :: t) = true) : Memory.wf t = true := by
  obtain ⟨a, b⟩ := e
  cases t with
  | nil => rfl
  | cons f t => obtain ⟨a', b'⟩ := f; simp only [Memory.wf, Bool.and_eq_true] at h; exact h.2

/-- Every offset of the list is above `lo`. -/
def Memory.above (lo : Nat) (m : List Host.Cell) : Prop := ∀ e ∈ m, lo < e.1

theorem Memory.wf_cons {a : Nat} {b : Byte} {t : List Host.Cell} :
    Memory.wf ((a, b) :: t) = true ↔ b ≠ 0 ∧ Memory.above a t ∧ Memory.wf t = true := by
  induction t generalizing a b with
  | nil => simp [Memory.wf, Memory.above]
  | cons f t ih =>
    obtain ⟨a', b'⟩ := f
    simp only [Memory.wf, Bool.and_eq_true, bne_iff_ne, ne_eq, decide_eq_true_eq, and_assoc]
    refine ⟨fun ⟨h1, h2, h3⟩ => ⟨h1, ?_, h3⟩, fun ⟨h1, h2, h3⟩ => ⟨h1, h2 _ (List.mem_cons_self ..), h3⟩⟩
    intro e he
    rcases List.mem_cons.mp he with rfl | he
    · exact h2
    · exact Nat.lt_trans h2 ((ih.mp h3).2.1 e he)

theorem Memory.put_above {lo q : Nat} {b : Byte} {m : List Host.Cell} (hm : Memory.above lo m) (hq : lo < q) :
    Memory.above lo (Memory.put m q b) := by
  induction m with
  | nil => unfold Memory.put; split <;> simp [Memory.above, hq]
  | cons e t ih =>
    obtain ⟨a, x⟩ := e
    have ha : lo < a := hm _ (List.mem_cons_self ..)
    have ht : Memory.above lo t := fun e he => hm e (List.mem_cons_of_mem _ he)
    unfold Memory.put
    split
    · split
      · exact hm
      · intro e he; rcases List.mem_cons.mp he with rfl | he
        · exact hq
        · exact hm e he
    · split
      · split
        · exact ht
        · intro e he; rcases List.mem_cons.mp he with rfl | he
          · exact hq
          · exact ht e he
      · intro e he; rcases List.mem_cons.mp he with rfl | he
        · exact ha
        · exact ih ht e he

/-- A write of one byte keeps the canonical form. -/
theorem Memory.wf_put {m : List Host.Cell} (q : Nat) (b : Byte) (h : Memory.wf m = true) : Memory.wf (Memory.put m q b) = true := by
  induction m with
  | nil => unfold Memory.put; split <;> simp_all [Memory.wf]
  | cons e t ih =>
    obtain ⟨a, x⟩ := e
    have ⟨hx, hat, ht⟩ := Memory.wf_cons.mp h
    unfold Memory.put
    split
    · rename_i hq
      split
      · exact h
      · rename_i hb
        refine Memory.wf_cons.mpr ⟨hb, ?_, h⟩
        intro e he; rcases List.mem_cons.mp he with rfl | he
        · exact hq
        · exact Nat.lt_trans hq (hat e he)
    · split
      · rename_i ha; subst ha
        split
        · exact ht
        · rename_i hb; exact Memory.wf_cons.mpr ⟨hb, hat, ht⟩
      · rename_i h1 h2
        exact Memory.wf_cons.mpr ⟨hx, Memory.put_above hat (by omega), ih ht⟩

/-- A write of bytes keeps the canonical form. -/
theorem Memory.wf_write {m : List Host.Cell} (ws : List (Nat × Byte)) (h : Memory.wf m = true) : Memory.wf (Memory.write m ws) = true := by
  induction ws generalizing m with
  | nil => exact h
  | cons e t ih => obtain ⟨a, b⟩ := e; exact ih (Memory.wf_put a b h)

theorem Memory.get_above {lo q : Nat} {m : List Host.Cell} (hm : Memory.above lo m) (hq : q ≤ lo) : Memory.get m q = 0 := by
  cases m with
  | nil => rfl
  | cons e t =>
    obtain ⟨a, x⟩ := e
    have : lo < a := hm _ (List.mem_cons_self ..)
    have h1 : a ≠ q := by omega
    have h2 : q < a := by omega
    simp [Memory.get, h1, h2]

/-- A byte that was written reads back. -/
theorem Memory.get_put_self {m : List Host.Cell} (q : Nat) (b : Byte) (h : Memory.wf m = true) :
    Memory.get (Memory.put m q b) q = b := by
  induction m with
  | nil => unfold Memory.put; split <;> simp_all [Memory.get]
  | cons e t ih =>
    obtain ⟨a, x⟩ := e
    have ⟨_, hat, ht⟩ := Memory.wf_cons.mp h
    unfold Memory.put
    split
    · rename_i hq
      split
      · rename_i hb
        have : a ≠ q := by omega
        simp [Memory.get, this, hq, hb]
      · simp [Memory.get]
    · split
      · rename_i ha; subst ha
        split
        · rename_i hb; rw [hb]; exact Memory.get_above hat (Nat.le_refl _)
        · simp [Memory.get]
      · rename_i h1 h2; simp [Memory.get, h2, h1, ih ht]

/-- A write of one byte leaves every other byte. -/
theorem Memory.get_put_ne {m : List Host.Cell} {q r : Nat} (b : Byte) (h : Memory.wf m = true) (hr : r ≠ q) :
    Memory.get (Memory.put m q b) r = Memory.get m r := by
  induction m with
  | nil => unfold Memory.put; split <;> simp [Memory.get, hr.symm]
  | cons e t ih =>
    obtain ⟨a, x⟩ := e
    have ⟨_, hat, ht⟩ := Memory.wf_cons.mp h
    unfold Memory.put
    split
    · rename_i hq
      split
      · rfl
      · rw [Memory.get]
        by_cases hlt : r < q
        · have h1 : q ≠ r := hr.symm
          have h2 : a ≠ r := by omega
          have h3 : r < a := by omega
          simp [Memory.get, h1, hlt, h2, h3]
        · simp [hr.symm, hlt]
    · split
      · rename_i hlt ha; subst ha
        split
        · by_cases hlt : r < a
          · rw [Memory.get_above hat (by omega)]
            simp [Memory.get, hr.symm, hlt]
          · simp [Memory.get, hr.symm, hlt]
        · simp [Memory.get, hr.symm]
      · rw [Memory.get, Memory.get, ih ht]

/-- A write of bytes leaves the bytes that it does not name. -/
theorem Memory.get_write_ne {m : List Host.Cell} {ws : List (Nat × Byte)} {q : Nat} (h : Memory.wf m = true)
    (hq : ∀ e ∈ ws, q ≠ e.1) : Memory.get (Memory.write m ws) q = Memory.get m q := by
  induction ws generalizing m with
  | nil => rfl
  | cons e t ih =>
    obtain ⟨a, b⟩ := e
    rw [Memory.write, ih (Memory.wf_put a b h) (fun e he => hq e (List.mem_cons_of_mem _ he))]
    exact Memory.get_put_ne b h (hq _ (List.mem_cons_self ..))

theorem cells_le {q : Nat} {bs : List Byte} : ∀ e ∈ cells q bs, q ≤ e.1 ∧ e.1 < q + bs.length := by
  induction bs generalizing q with
  | nil => simp [cells]
  | cons b t ih =>
    intro e he
    rcases List.mem_cons.mp he with rfl | he
    · simp
    · have := ih e he; simp only [List.length_cons]; omega

/-- Bytes that were written from an offset read back. -/
theorem Memory.read_write_cells {m : List Host.Cell} (q : Nat) (bs : List Byte) (h : Memory.wf m = true) :
    Memory.read (Memory.write m (cells q bs)) q bs.length = bs := by
  induction bs generalizing m q with
  | nil => rfl
  | cons b t ih =>
    have hw := Memory.wf_put q b h
    simp only [cells, Memory.write, List.length_cons, Memory.read, ih _ hw, List.cons.injEq, and_true]
    rw [Memory.get_write_ne hw, Memory.get_put_self q b h]
    intro e he; have := cells_le e he; omega

theorem toBytes_length (n v : Nat) : (toBytes n v).length = n := by
  induction n generalizing v with
  | zero => rfl
  | succ n ih => simp [toBytes, ih]

theorem ofBytes_toBytes (n v : Nat) : ofBytes (toBytes n v) = v % 256 ^ n := by
  induction n generalizing v with
  | zero => simp [toBytes, ofBytes, Nat.mod_one]
  | succ n ih =>
    have : (BitVec.ofNat 8 v).toNat = v % 256 := rfl
    simp only [toBytes, ofBytes, ih, this, Nat.pow_succ]
    rw [Nat.mul_comm (256 ^ n) 256, Nat.mod_mul]

/-- Committed bytes keep the canonical form. -/
theorem State.commit_wf {s : State} (ws : List (Nat × Byte)) (h : Memory.wf s.mem = true) : Memory.wf (s.commit ws).mem = true :=
  Memory.wf_write ws h
/-- A word that became committed reads back. -/
theorem State.word_commitWord (s : State) (q : Nat) (v : Word) (h : Memory.wf s.mem = true) : (s.commitWord q v).word q = v := by
  have := Memory.read_write_cells q (toBytes 8 v.toNat) h
  rw [toBytes_length] at this
  simp only [State.word, State.num, State.bytes, State.commitWord_mem, this, ofBytes_toBytes]
  apply BitVec.eq_of_toNat_eq
  simp only [BitVec.toNat_ofNat]
  have := v.isLt
  omega

end Sys2Proof.Machine
end

