-- ==== Sys2Proof/Laws/Crypto.lean ====
section
/-! SUPPORT. What GCM seals under a key, an IV and a header, it opens under the same. -/

namespace Sys2Proof.Machine

/-- A block has 16 bytes. -/
theorem toBytesBE_length (n v : Nat) : (toBytesBE n v).length = n := by
  simp [toBytesBE, toBytes_length]

/-- Combining twice with the same key stream, which is long enough, gives the bytes back. -/
theorem zipWith_xor_twice (bs ks : List Byte) (h : bs.length ≤ ks.length) :
    (bs.zipWith (fun a b => a ^^^ b) ks).zipWith (fun a b => a ^^^ b) ks = bs := by
  induction bs generalizing ks with
  | nil => rfl
  | cons b bs ih =>
    cases ks with
    | nil => simp at h
    | cons k ks => simp [ih ks (by simpa using h), BitVec.xor_assoc]

/-- Counter mode over no bytes. -/
@[simp] theorem ctr_nil (keys : List Nat) (n c : Nat) : ctr keys n c [] = [] := by
  cases n <;> rfl

/-- Counter mode keeps the length. -/
theorem ctr_length (keys : List Nat) (n c : Nat) (bs : List Byte) (h : bs.length ≤ n) : (ctr keys n c bs).length = bs.length := by
  induction n generalizing c bs with
  | zero => simp_all [ctr]
  | succ n ih =>
    cases bs with
    | nil => rfl
    | cons b bs =>
      simp only [ctr, List.isEmpty_cons, Bool.false_eq_true, if_false, List.length_append, List.length_zipWith, List.length_take, toBytesBE_length]
      rw [ih _ _ (by simp at h ⊢; omega)]
      simp only [List.length_drop]
      omega

/-- Counter mode is its own inverse. -/
theorem ctr_ctr (keys : List Nat) (n c : Nat) (bs : List Byte) (h : bs.length ≤ n) : ctr keys n c (ctr keys n c bs) = bs := by
  induction n generalizing c bs with
  | zero => simp_all [ctr]
  | succ n ih =>
    cases bs with
    | nil => rfl
    | cons b bs =>
      have hd : ((b :: bs).drop 16).length ≤ n := by simp at h ⊢; omega
      have hl : (((b :: bs).take 16).zipWith (fun a b => a ^^^ b) (toBytesBE 16 (aesBlock keys c))).length = Nat.min 16 (b :: bs).length := by
        simp only [List.length_zipWith, List.length_take, toBytesBE_length, Nat.min_def]
        split <;> split <;> omega
      have hz := zipWith_xor_twice ((b :: bs).take 16) (toBytesBE 16 (aesBlock keys c)) (by rw [toBytesBE_length, List.length_take]; exact Nat.min_le_left _ _)
      have step : ∀ a : Byte, ∀ as : List Byte, ctr keys (n + 1) c (a :: as) =
          ((a :: as).take 16).zipWith (fun a b => a ^^^ b) (toBytesBE 16 (aesBlock keys c)) ++
            ctr keys n (c / 2 ^ 32 * 2 ^ 32 + (c + 1) % 2 ^ 32) ((a :: as).drop 16) := fun _ _ => rfl
      rw [step b bs]
      generalize hA : ((b :: bs).take 16).zipWith (fun a b => a ^^^ b) (toBytesBE 16 (aesBlock keys c)) = A at *
      generalize hC : ctr keys n (c / 2 ^ 32 * 2 ^ 32 + (c + 1) % 2 ^ 32) ((b :: bs).drop 16) = C
      have hne : A ++ C ≠ [] := by
        intro e
        have := congrArg List.length e
        simp only [List.length_append, hl, List.length_nil, List.length_cons, Nat.min_def] at this
        split at this <;> omega
      obtain ⟨a, as, e⟩ := List.exists_cons_of_ne_nil hne
      rw [e, step a as, ← e]
      have hC2 : A.length < 16 → C = [] := fun l => by
        rw [hl] at l
        have : (b :: bs).length ≤ 16 := by
          simp only [Nat.min_def] at l; split at l <;> omega
        rw [← hC, List.drop_eq_nil_of_le this, ctr_nil]
      have h16 : A.length ≤ 16 := by rw [hl]; exact Nat.min_le_left _ _
      have ht : (A ++ C).take 16 = A := by
        by_cases l : A.length < 16
        · rw [hC2 l, List.append_nil, List.take_of_length_le h16]
        · rw [List.take_append_of_le_length (by omega), List.take_of_length_le h16]
      have hr : (A ++ C).drop 16 = C := by
        by_cases l : A.length < 16
        · rw [hC2 l, List.append_nil, List.drop_eq_nil_of_le h16]
        · have : A.length = 16 := by omega
          rw [← this, List.drop_left]
      rw [ht, hr, hz, ← hC, ih _ _ hd, List.take_append_drop]

/-- What GCM seals has the length of the text. -/
theorem gcmSeal_length (key iv : Nat) (aad text : List Byte) : (gcmSeal key iv aad text).1.length = text.length :=
  ctr_length _ _ _ _ (Nat.le_succ _)

/-- GCM's tag has 16 bytes. -/
theorem gcmSeal_tag (key iv : Nat) (aad text : List Byte) : (gcmSeal key iv aad text).2.length = 16 := toBytesBE_length _ _

/-- What GCM seals, it opens. -/
theorem gcmOpen_gcmSeal (key iv : Nat) (aad text : List Byte) :
    gcmOpen key iv aad (gcmSeal key iv aad text).1 (gcmSeal key iv aad text).2 = some text := by
  have hl := gcmSeal_length key iv aad text
  unfold gcmOpen
  refine (if_pos rfl).trans ?_
  rw [hl]
  exact congrArg some (ctr_ctr _ _ _ _ (Nat.le_succ _))

end Sys2Proof.Machine
end

