-- ==== Sys2Proof/Laws/Ops.lean ====
section
/-! SUPPORT. What the shared operations can do: a pulse, the end of an instruction, a trap. -/

namespace Sys2Proof.Machine

/-! ### Steps that change one slot -/

theorem SlotOnly.refl (s : State) : SlotOnly s s := ⟨rfl, fun _ => rfl, fun _ _ => rfl, fun _ => rfl⟩

theorem SlotOnly.cur {s t : State} (h : SlotOnly s t) : t.cur = s.cur := by rw [h.1]

theorem SlotOnly.trans {s t u : State} (h : SlotOnly s t) (k : SlotOnly t u) : SlotOnly s u := by
  refine ⟨?_, fun q => (k.2.1 q).trans (h.2.1 q), fun p hp => ?_, fun c => ?_⟩
  · rw [k.1, h.1]
  · rw [k.2.2.1 p (by rw [h.cur]; exact hp), h.2.2.1 p hp]
  · rw [k.2.2.2 c, h.2.2.2 c]

theorem SlotOnly.modMe (s : State) (f : Slot → Slot) : SlotOnly s (s.modMe f) :=
  ⟨rfl, fun _ => rfl, fun _ hp => s.slotAt_modMe_ne f hp, fun c => by
    have := s.core_modMe f c; rw [this]⟩

/-- A pulse changes watchdog entries only. -/
theorem State.pulse_core (s : State) (id : BitVec 32) (c : Nat) :
    (s.pulse id).core c = { s.core c with watch := ((s.pulse id).core c).watch } := by
  unfold State.pulse
  split
  · rfl
  · rename_i p _
    by_cases h : c = p.home.val
    · subst h; simp
    · simp [State.core_modCore_ne _ _ h]

theorem State.pulse_eq (s : State) (id : BitVec 32) : s.pulse id = { s with cores := (s.pulse id).cores } := by
  unfold State.pulse; split <;> rfl

@[simp] theorem State.pulse_cur (s : State) (id : BitVec 32) : (s.pulse id).cur = s.cur := by rw [State.pulse_eq]
@[simp] theorem State.pulse_mem (s : State) (id : BitVec 32) : (s.pulse id).mem = s.mem := by rw [State.pulse_eq]

@[simp] theorem State.pulse_slotAt (s : State) (id : BitVec 32) (p : Place) : (s.pulse id).slotAt p = s.slotAt p := by
  unfold State.slotAt; rw [State.pulse_core]

@[simp] theorem State.pulse_me (s : State) (id : BitVec 32) : (s.pulse id).me = s.me := by
  unfold State.me; rw [State.pulse_slotAt, State.pulse_cur]

theorem SlotOnly.pulse (s : State) (id : BitVec 32) : SlotOnly s (s.pulse id) :=
  ⟨s.pulse_eq id, fun q => by rw [State.pulse_mem], fun p _ => s.pulse_slotAt id p, fun c => by rw [State.pulse_core]⟩

/-! ### The end of an instruction -/

theorem State.advance_only (s : State) (next : Word) : SlotOnly s (s.advance next) :=
  (SlotOnly.modMe s _).trans (SlotOnly.pulse _ _)
theorem State.advance_me (s : State) (next : Word) :
    (s.advance next).me = { s.me with pc := next, wait := none, prog := .none, stalls := [] } := by
  simp [State.advance]

/-- A slot that is set to what it is stays the slot it is, and so does every core. -/
theorem SlotOnly.modMe_same (s : State) (f : Slot → Slot) (h : f s.me = s.me) :
    SlotOnly s (s.modMe f) ∧ (s.modMe f).me = s.me := ⟨SlotOnly.modMe s f, by simp [h]⟩

/-- A calm thread's instruction ends with its PC moved on, and nothing else (08_slots R155). -/
theorem State.retire_calm (s : State) (next : Word) (h : s.me.calm) :
    SlotOnly s (s.retire next) ∧ (s.retire next).me = { s.me with pc := next, wait := none, prog := .none, stalls := [] } := by
  obtain ⟨h1, h2, h3⟩ := h
  have hm := s.advance_me next
  have hi : (s.advance next).takeIntr (s.advance next).cur = s.advance next := by
    have : ((s.advance next).slotAt (s.advance next).cur).intr = none := by
      show (s.advance next).me.intr = none
      rw [hm]; exact h2
    unfold State.takeIntr; rw [this]
  have hk : Slot.holdBack (s.advance next).me = (s.advance next).me := by
    rw [hm]; simp [Slot.holdBack, h3]
  have hr : s.retire next = (s.advance next).modMe Slot.holdBack := by
    simp only [State.retire, h1, hi, Bool.false_eq_true, if_false]
  rw [hr]
  have := SlotOnly.modMe_same _ _ hk
  exact ⟨(s.advance_only next).trans this.1, this.2.trans hm⟩

/-- An instruction whose effect changes the executing slot alone, by `f`, completes so. -/
theorem ends_modMe (s : State) (f : Slot → Slot) (next : Word) (hf : (f s.me).calm) :
    Ends s ((s.modMe f).retire next) next f := by
  have := (s.modMe f).retire_calm next (by simpa using hf)
  refine ⟨(SlotOnly.modMe s f).trans this.1, ?_⟩
  rw [this.2, State.me_modMe]

theorem ends_self (s : State) (next : Word) (h : s.calm) : Ends s (s.retire next) next id := by
  have := s.retire_calm next h
  exact ⟨this.1, this.2⟩

/-- `seq` with an effect on the executing slot. -/
theorem seq_modMe (s : State) (f : Slot → Slot) (hf : (f s.me).calm) :
    ∃ t, seq s (.ok (s.modMe f)) = .next t ∧ Writes s t f := ⟨_, rfl, ends_modMe s f _ hf⟩

theorem Slot.calm_setX {t : Slot} (h : t.calm) (r : XReg) (v : Word) : (t.setX r v).calm := h
theorem Slot.calm_setP {t : Slot} (h : t.calm) (r : PReg) (b : Bool) : (t.setP r b).calm := by
  simpa [Slot.calm] using h

/-- An effect that ends with `.ok` in the executing slot: X[d] ← v. -/
theorem seq_setX (s : State) (d : XReg) (v : Word) (h : s.calm) :
    ∃ t, seq s (.ok (s.setX d v)) = .next t ∧ Writes s t (·.setX d v) := seq_modMe s _ (Slot.calm_setX h d v)
/-- An effect that ends with `.ok` in the executing slot: a write of p`r`. -/
theorem seq_setP (s : State) (r : PReg) (b : Bool) (h : s.calm) :
    ∃ t, seq s (.ok (s.setP r b)) = .next t ∧ Writes s t (·.setP r b) := seq_modMe s _ (Slot.calm_setP h r b)

end Sys2Proof.Machine
end

