-- ==== Sys2Proof/Tests/Slice0.lean ====
section
/-! SUPPORT. Tests: words of the spec's encodings, refusals of the well-formedness checks, single steps on small
states with results from the spec, and for every statement states and operands that meet its hypotheses. -/

open Sys2Proof Sys2Proof.Machine

namespace Sys2Proof.Tests

set_option maxRecDepth 100000
set_option Elab.async false

/-! ### Small states -/

/-- Slot 0 of core 0. -/
def here : Place := { core := 0, slot := 0 }
/-- A READY thread of partition 0 and population 1, at local address 0x10000. -/
def thread : Slot := { Slot.empty with state := .ready, pc := 0x10000, popid := 1 }
/-- That thread, changed by `f`, in slot 0 of core 0, whose banks all belong to partition 0. -/
def small (f : Slot → Slot) : State :=
  { State.reset.modSlot here fun _ => f thread with
    cur := here, parts := [(0, { Partition.reset with banks := [(0, 0xFFFF)] })] }
/-- The small state as it is. -/
def plainState : State := small id
/-- Memory that holds words at rising offsets. -/
def image (ws : List (Nat × List Nat)) : List Host.Cell :=
  (ws.flatMap fun w => (w.2.zipIdx.flatMap fun e => cells (w.1 + 8 * e.2) (toBytes 8 e.1))).filter fun c => c.2 != 0
/-- What holds of every place of a span holds where it holds of its offsets. -/
theorem of_span {P : Nat → Prop} {q n : Nat} (h : ∀ i < n, P (q + i)) : ∀ r, span q n r → P r := fun r hr => by
  obtain ⟨a, b⟩ := hr
  have := h (r - q) (by omega)
  rwa [Nat.add_sub_cancel' a] at this

/-- A computation answers a value where its option is that value. -/
theorem ok_of {ε α : Type} {a : Except ε α} {v : α} (h : a.toOption = some v) : a = .ok v := by
  cases a with
  | error e => cases h
  | ok w => cases h; rfl

/-- With nothing spilled, no byte belongs to a spill record. -/
theorem none_spilled {s : State} (h : s.myCore.spill = []) {q n : Nat} : ∀ r, span q n r → ¬ s.spilled r := by
  rintro r - ⟨e, he, -⟩
  rw [h] at he
  exact absurd he List.not_mem_nil

/-- A slot is calm where the three fields say so. -/
theorem calm_of {s : State} (h : (!s.me.stopping && s.me.intr.isNone && s.me.pending.isNone) = true) : s.calm := by
  simp only [Bool.and_eq_true, Bool.not_eq_true', Option.isNone_iff_eq_none] at h
  exact ⟨h.1.1, h.1.2, h.2⟩
/-- A computation answers some value that meets a test. -/
theorem ok_and {ε α : Type} {a : Except ε α} {p : α → Bool} (h : a.toOption.any p = true) : ∃ v, a = .ok v ∧ p v = true := by
  cases a with
  | error e => cases h
  | ok w => exact ⟨w, rfl, h⟩
/-- Offset `q` is plain memory: no control space, and no Reserved field or field of the device. -/
def bare (s : State) (q : Nat) : Bool :=
  !inCtl q && !inRed q && (s.tables q).all fun t => !t.holds q
/-- A span is plain memory where each of its offsets is. -/
theorem plain_of {s : State} {q n : Nat} (h : ∀ i < n, bare s (q + i) = true) : s.plain q n :=
  of_span fun i hi => by
    have hb := h i hi
    simp only [bare, Bool.and_eq_true, Bool.not_eq_true', List.all_eq_true] at hb
    obtain ⟨⟨c, r⟩, clear⟩ := hb
    refine ⟨c, r, fun b => ?_⟩
    unfold State.portBit State.portByte
    rw [if_neg (by simp [r]), List.find?_eq_none.2 fun e he => by simpa using clear e he]
/-- An offset of vault 0 lies in no tile table but core 0's. -/
theorem tables_clear {s : State} {q : Nat} (h : q < 2 ^ 24) (h0 : ¬ s.table 0 q) : ∀ c, ¬ s.table c q := fun c => by
  rcases Nat.eq_zero_or_pos c with rfl | hc
  · exact h0
  · rintro ⟨a, -⟩
    unfold State.tileAt vaultBase dieOf at a
    omega
/-- Above the table of core 0, which stands at 0, the bytes of vault 0 lie in no tile table. -/
theorem off_tables {s : State} {r : Nat} (h0 : (s.core 0).ttb = 0) (h : 0x1400 ≤ r) (h' : r < 2 ^ 24) : ∀ c, ¬ s.table c r :=
  tables_clear h' (by
    rintro ⟨-, k⟩
    unfold State.tileAt at k
    rw [h0] at k
    have : bits ((0 : Word).toNat) 12 12 = 0 := rfl
    have : vaultBase 0 = 0 := rfl
    omega)
/-- With no work record live, bytes outside every tile table lie off the tables. -/
theorem off_of {s : State} {q n : Nat} (h : ∀ r, span q n r → ∀ c, ¬ s.table c r) (w : s.works = []) : s.offTables q n :=
  fun r hr => ⟨h r hr, fun _ he => absurd (w ▸ he) List.not_mem_nil⟩
/-- A computation ends in a trap where a test says so. -/
theorem trap_of {α : Type} {a : Act α} {c : Cause} {n : Nat} {v : Word}
    (h : (match a with | .error (.trap d m w) => decide (d = c ∧ m = n ∧ w = v) | _ => false) = true) : a = .error (.trap c n v) := by
  split at h
  · rename_i d m w
    obtain ⟨rfl, rfl, rfl⟩ := of_decide_eq_true h
    rfl
  · cases h

/-- A population of one thread on core 0, in phase `n`. -/
def pop (n : Nat) : Pop :=
  { id := 1, part := 0, dom := none, cores := [0], home := 0, phase := n, arrived := [], away := [], shared := [], ring := 0, journal := 0,
    compl := 0, tag := 0, placed := 0, status := 0, cause := 0, tval := 0, faberr := false, failAt := 0, fails := 0 }
/-- The small state with that population. -/
def member (n : Nat) (f : Slot → Slot) : State := { small f with pops := [pop n] }
/-- The thread as an issuer. -/
def issuer : Issuer := { place := here, pop := 1, part := 0 }
/-- A message of the thread travels to core 1, and a fabric write of it is not acknowledged. -/
def sending : State :=
  { plainState with
    net := [.msg 1 0 false false { h0 := 0, h1 := 0, body := 0, part := 0, dom := none, colour := false, pop := 1, place := here, ack := .none }],
    out := [{ tag := 0, place := here, pop := 1, gone := false, addr := 0, anti := false, float := false, mint := none }] }

/-! ### States that meet the hypotheses: scalar instructions and memory -/

/-- ArithmeticResults, BitFieldResults, CompareAndPredicateResults: operand b from a register and from the last constant. -/
theorem hyp_ArithmeticResults : plainState.calm ∧ plainState.opB (.reg 15) = .ok 0 ∧
    (small fun t => t.setX 15 (BitVec.allOnes 64)).opB (.reg 15) = .ok (BitVec.allOnes 64) ∧ plainState.opB (.k 255) = .ok 0 :=
  ⟨⟨rfl, rfl, rfl⟩, rfl, rfl, rfl⟩
/-- BitFieldResults: a field of 64 bits at bit 63. -/
theorem hyp_BitFieldResults : (small fun t => t.setX 2 0x3F3F).calm ∧ (small fun t => t.setX 2 0x3F3F).opB (.reg 2) = .ok 0x3F3F :=
  ⟨⟨rfl, rfl, rfl⟩, rfl⟩
/-- UnaryAndImmediateResults: 0, and bit 63 alone, for `ctz`; a constant for `ldk`. -/
theorem hyp_UnaryAndImmediateResults : plainState.calm ∧ plainState.x 1 = 0 ∧
    (small fun t => t.setX 1 (2 ^ 63)).calm ∧ ((small fun t => t.setX 1 (2 ^ 63)).x 1).getLsbD 63 = true ∧
    (∀ i < 63, ((small fun t => t.setX 1 (2 ^ 63)).x 1).getLsbD i = false) ∧ plainState.k 255 = .ok 0 :=
  ⟨⟨rfl, rfl, rfl⟩, rfl, ⟨rfl, rfl, rfl⟩, rfl, by decide, rfl⟩
/-- CompareAndPredicateResults: p0, which reads 1, and a predicate that is 0. -/
theorem hyp_CompareAndPredicateResults : plainState.calm ∧ plainState.opB (.k 0) = .ok 0 ∧ plainState.pred 0 = true ∧
    plainState.pred 7 = false := ⟨⟨rfl, rfl, rfl⟩, rfl, rfl, rfl⟩
/-- BranchResults: jump targets that are and are not multiples of 4. -/
theorem hyp_BranchResults : plainState.calm ∧ (plainState.x 6).toNat % 4 = 0 ∧ (plainState.x 15).toNat % 4 = 0 ∧
    (small fun t => (t.setX 6 2).setX 15 1).calm ∧ ((small fun t => (t.setX 6 2).setX 15 1).x 6).toNat % 4 ≠ 0 ∧
    ((small fun t => (t.setX 6 2).setX 15 1).x 15).toNat % 4 ≠ 0 :=
  ⟨⟨rfl, rfl, rfl⟩, rfl, rfl, ⟨rfl, rfl, rfl⟩, by decide, by decide⟩

/-- The constant window's last word is poisoned. -/
def poisoned : State := { plainState with poison := [(vaultBase 0 + 0xC000 + 8 * 255) / 8] }
/-- The bank of the constant window is locked. -/
def locked : State := plainState.modCore 0 fun k => { k with lock := 1 }
/-- OperandForms: a word that can be read, one that is poisoned, one in a locked bank; slot 15 reads through a lock. -/
theorem hyp_OperandForms :
    (plainState.lostAt (vaultBase 0 + 0xC000 + 8 * 255) 8 = none ∧ plainState.me.stalls = [] ∧ plainState.isSup = false ∧
      (plainState.core 0).lock.getLsbD 0 = false ∧ plainState.poison.contains ((vaultBase 0 + 0xC000 + 8 * 255) / 8) = false ∧
      plainState.ownEntries = []) ∧
    (poisoned.lostAt (vaultBase 0 + 0xC000 + 8 * 255) 8 = none ∧ poisoned.me.stalls = [] ∧
      (poisoned.core 0).lock.getLsbD 0 = false ∧ poisoned.poison.contains ((vaultBase 0 + 0xC000 + 8 * 255) / 8) = true) ∧
    (locked.lostAt (vaultBase 0 + 0xC000) 8 = none ∧ locked.me.stalls = [] ∧ locked.isSup = false ∧
      (locked.core 0).lock.getLsbD 0 = true) ∧
    (State.reset.isSup = true ∧ State.reset.me.stalls = [] ∧ State.reset.lostAt (vaultBase 0) 8 = none ∧ State.reset.ownEntries = []) ∧
    plainState.k 255 = .ok 0 :=
  ⟨⟨rfl, rfl, rfl, rfl, rfl, rfl⟩, ⟨rfl, rfl, rfl, rfl⟩, ⟨rfl, rfl, rfl, rfl⟩, ⟨rfl, rfl, rfl, rfl⟩, rfl⟩

/-- The private range of the thread, outside events: 64 KiB from 0x10000. -/
def priv : State := small fun t => { t.setX 1 0x10100 with prvb := 0x10000, prvl := 0x20000 }
/-- LoadInstructions: a load in the post-increment form, and a store that is forwarded. -/
theorem hyp_LoadInstructions :
    priv.calm ∧ priv.memAddr (.post 1 (-1)) 8 = .ok (0x10100, some (1, 0x100F8)) ∧
    priv.translate 0x10100 .r 8 = .ok (vaultBase 0 + 0x10100) ∧
    priv.touchable 0x10100 (vaultBase 0 + 0x10100) 8 true = .ok () ∧ priv.ownEntries = [] ∧
    inCtl ((vaultBase 0 + 0x10100) % 2 ^ 43) = false ∧
    (∀ e ∈ priv.ownEntries, e.merged = false) ∧ (0x1003C : Word).toNat % 64 + 4 ≤ 64 ∧
    ∃ t, priv.phaseStore 0x1003C (vaultBase 0 + 0x1003C) [1, 2, 3, 4] = .ok t ∧ t.plain ((vaultBase 0 + 0x1003C) % 2 ^ 43) 4 :=
  ⟨⟨rfl, rfl, rfl⟩, rfl, ok_of (by decide +kernel), ok_of (by decide +kernel), by decide +kernel, by decide +kernel, by decide +kernel, by decide, ⟨_, rfl, plain_of (by decide +kernel)⟩⟩
/-- StoreInstructions: the thread's private range, and an address outside it. -/
theorem hyp_StoreInstructions :
    (priv.calm ∧ priv.noEvent ∧ Memory.wf priv.mem = true ∧ priv.memAddr (.off 1 0) 8 = .ok (0x10100, none) ∧
      priv.translate 0x10100 .w 8 = .ok (vaultBase 0 + 0x10100) ∧ (vaultBase 0 + 0x10100) / 2 ^ 43 = priv.pkg ∧
      priv.touchable 0x10100 (vaultBase 0 + 0x10100) 8 false = .ok () ∧ priv.plain ((vaultBase 0 + 0x10100) % 2 ^ 43) 8 ∧
      priv.me.isPrivate 0x10100 = true ∧ ∀ r, span ((vaultBase 0 + 0x10100) % 2 ^ 43) 8 r → ¬ priv.spilled r) ∧
    (priv.memAddr (.off 1 8191) 8 = .ok (0x200F8, none) ∧ priv.translate 0x200F8 .w 8 = .ok (vaultBase 0 + 0x200F8) ∧
      priv.touchable 0x200F8 (vaultBase 0 + 0x200F8) 8 false = .ok () ∧ priv.plain ((vaultBase 0 + 0x200F8) % 2 ^ 43) 8 ∧
      priv.me.isPrivate 0x200F8 = false ∧ priv.inZone ((vaultBase 0 + 0x200F8) % 2 ^ 43) = false ∧
      priv.ticketWords.contains ((vaultBase 0 + 0x200F8) % 2 ^ 43 / 8 * 8) = false ∧ priv.myCore.buffer.length < 64 ∧
      ∀ e ∈ priv.ownEntries, e.merged = false) :=
  ⟨⟨⟨rfl, rfl, rfl⟩, by unfold State.noEvent; decide, rfl, rfl, ok_of (by decide +kernel), by decide +kernel, ok_of (by decide +kernel), plain_of (by decide +kernel), rfl,
      none_spilled rfl⟩,
    rfl, ok_of (by decide +kernel), ok_of (by decide +kernel), plain_of (by decide +kernel), by decide +kernel, by decide +kernel, by decide +kernel, by decide +kernel, by decide +kernel⟩
/-- The thread with a full buffer, a line of each entry of its own, and a spill area of `n` pages at 0x40000. -/
def crowded (n : Nat) : State :=
  priv.modCore 0 fun k =>
    { k with phbuf := BitVec.ofNat 64 (0x40000 + n * 2 ^ 32), buffer := (List.range 64).map fun j =>
        { who := { pop := 1, thidx := 0, slot := 0 }, retired := false, form := .loc, line := BitVec.ofNat 64 (0x80000 + 64 * j), da := 0x80000 + 64 * j,
          mask := 1, data := 7, merged := false, inbound := false, left := none, at_ := [] } }
/-- StoreInstructions, the spill: a full buffer with a record that is free, and with none. -/
theorem hyp_StoreInstructions_spill :
    (∀ n ∈ [0, 1], (crowded n).calm ∧ (crowded n).noEvent ∧ Memory.wf (crowded n).mem = true ∧ (crowded n).memAddr (.off 1 8191) 8 = .ok (0x200F8, none) ∧
      (crowded n).translate 0x200F8 .w 8 = .ok (vaultBase 0 + 0x200F8) ∧ (crowded n).touchable 0x200F8 (vaultBase 0 + 0x200F8) 8 false = .ok () ∧
      (crowded n).me.isPrivate 0x200F8 = false ∧ (crowded n).inZone ((vaultBase 0 + 0x200F8) % 2 ^ 43) = false ∧
      (crowded n).ticketWords.contains ((vaultBase 0 + 0x200F8) % 2 ^ 43 / 8 * 8) = false ∧
      (∃ old rest, (crowded n).myCore.buffer = old :: rest ∧ 63 ≤ rest.length) ∧
      ∀ e ∈ (crowded n).ownEntries, e.merged = false ∧ ¬ (formOf 0x200F8 = some e.form ∧ e.line.toNat = (0x200F8 : Word).toNat / 64 * 64)) ∧
    (crowded 1).plain ((vaultBase 0 + 0x200F8) % 2 ^ 43) 8 ∧ (crowded 0).plain ((vaultBase 0 + 0x200F8) % 2 ^ 43) 8 ∧
    (crowded 0).myCore.spillFree = none ∧ (crowded 1).myCore.spillFree = some 0 := by
  refine ⟨fun n hn => ?_, plain_of (by decide +kernel), plain_of (by decide +kernel), by decide +kernel, by decide +kernel⟩
  rcases List.mem_cons.1 hn with rfl | hn
  · exact ⟨⟨rfl, rfl, rfl⟩, by unfold State.noEvent; decide, rfl, rfl, ok_of (by decide +kernel), ok_of (by decide +kernel), by decide +kernel, by decide +kernel,
      by decide +kernel, ⟨_, _, rfl, by decide +kernel⟩, by decide +kernel⟩
  · obtain rfl := List.mem_singleton.1 hn
    exact ⟨⟨rfl, rfl, rfl⟩, by unfold State.noEvent; decide, rfl, rfl, ok_of (by decide +kernel), ok_of (by decide +kernel), by decide +kernel, by decide +kernel,
      by decide +kernel, ⟨_, _, rfl, by decide +kernel⟩, by decide +kernel⟩
/-- The thread in an open event, with a state range of 64 KiB at 0x10000 and an undo log of 4 KiB. -/
def eventful : State :=
  (small fun t => { t.setX 1 0x10100 with opt := true, evo := true, evid := 1, lvt := 5, evsb := 0x10000, evsl := 0x20000, range := some (0x10000, 0x20000) }).modCore 0
    fun k => { k with ulogb := 0x50000, ulogl := 0x51000 }
/-- StoreInstructions, an open event: a word in the captured state range, and one outside it. -/
theorem hyp_StoreInstructions_event :
    (eventful.calm ∧ eventful.me.opt = true ∧ eventful.me.evo = true ∧ Memory.wf eventful.mem = true ∧
      eventful.memAddr (.off 1 0) 8 = .ok (0x10100, none) ∧ eventful.translate 0x10100 .w 8 = .ok (vaultBase 0 + 0x10100) ∧ vaultBase 0 + 0x10100 < 2 ^ 56 ∧
      eventful.touchable 0x10100 (vaultBase 0 + 0x10100) 8 false = .ok () ∧ eventful.hasSpace 0 .undo 1 = true ∧ eventful.hasSpace 0 .escrow 1 = true ∧
      eventful.inRange ⟨0x10100, vaultBase 0 + 0x10100, toBytes 8 (eventful.x 0).toNat⟩ = true ∧ eventful.plain ((vaultBase 0 + 0x10100) % 2 ^ 43) 8) ∧
    (∀ r, span (vaultBase 0 + logBound eventful.myCore.ulogb + eventful.myCore.undoNext % eventful.myCore.undoRoom * 16) 16 r →
      ¬ span ((vaultBase 0 + 0x10100) % 2 ^ 43) 8 r ∧ ¬ eventful.tileTable r) ∧
    (eventful.memAddr (.off 1 8191) 8 = .ok (0x200F8, none) ∧ eventful.translate 0x200F8 .w 8 = .ok (vaultBase 0 + 0x200F8) ∧
      eventful.touchable 0x200F8 (vaultBase 0 + 0x200F8) 8 false = .ok () ∧
      eventful.inRange ⟨0x200F8, vaultBase 0 + 0x200F8, toBytes 8 (eventful.x 0).toNat⟩ = false ∧
      eventful.plain ((vaultBase 0 + 0x200F8) % 2 ^ 43) 8) := by
  refine ⟨⟨⟨rfl, rfl, rfl⟩, rfl, rfl, rfl, rfl, ok_of ?_, ?_, ok_of ?_, ?_, ?_, ?_, plain_of ?_⟩, of_span ?_, rfl, ok_of ?_, ok_of ?_, ?_, plain_of ?_⟩
  all_goals (try unfold span); (try unfold State.tileTable); decide +kernel
/-- A device address of package 1. -/
def away : Word := BitVec.ofNat 64 (2 ^ 63 + 2 ^ 43 + 0x40000)
/-- The thread with that address in x1, and port 0 up and leading to package 1, or no port up. -/
def sending1 (up : Bool) : State := (small fun t => t.setX 1 away).modPort 0 fun k => { k with up, beyond := [1] }
/-- StoreInstructions, another package: a port that leads to it, and none. -/
theorem hyp_StoreInstructions_remote :
    (∀ up ∈ [true, false], (sending1 up).calm ∧ (sending1 up).noEvent ∧ (sending1 up).me.state ≠ .free ∧
      (sending1 up).memAddr (.off 1 0) 8 = .ok (away, none) ∧ (sending1 up).translate away .w 8 = .ok (2 ^ 43 + 0x40000)) ∧
    (2 ^ 43 + 0x40000) / 2 ^ 43 ≠ (sending1 true).pkg ∧ 2 ^ 43 + 0x40000 < 2 ^ 56 ∧
    ((sending1 true).route 1).isSome = true ∧ (sending1 false).route 1 = none := by
  refine ⟨fun up h => ?_, by decide +kernel⟩
  rcases List.mem_cons.1 h with rfl | h
  · exact ⟨⟨rfl, rfl, rfl⟩, by unfold State.noEvent; decide, by decide, rfl, ok_of (by decide +kernel)⟩
  · obtain rfl := List.mem_singleton.1 h
    exact ⟨⟨rfl, rfl, rfl⟩, by unfold State.noEvent; decide, by decide, rfl, ok_of (by decide +kernel)⟩
/-- The first and the last byte of the thread's constant window that a tenant may not reach, one without a form, a page with no
mapping, a device address of another package, a hole of control space, a mailbox window, a bank of no partition, and a virtual address in
slot 15. -/
theorem hyp_LoadInstructions_translate :
    (0x10101 : Word).toNat % 8 ≠ 0 ∧ formOf (2 ^ 63 + 2 ^ 56) = none ∧ plainState.isSup = false ∧ formOf 0x10100 = some .loc ∧
    (0x800 ≤ (0x800 : Word).toNat ∧ (0xFFF8 : Word).toNat < 0x10000) ∧ formOf away = some .dev ∧ away.toNat % 2 ^ 56 / 2 ^ 43 ≠ plainState.pkg ∧
    Acc.reads .r = true ∧ defined (Config.ctlBase + 24) = false ∧ inMbox Config.mboxBase = true ∧
    (plainState.tenant = some 0 ∧ plainState.owns 0 .w (vaultBase 1 + 0x10000) 8 = false ∧ defined (vaultBase 1 + 0x10000) = true) ∧
    (formOf (2 ^ 40) = some .virt ∧ (2 ^ 40 : Word).toNat % 8 = 0 ∧ State.reset.isSup = true) ∧
    (∃ va, formOf va = some .virt ∧ va.toNat % 8 = 0 ∧ plainState.mapping 0 0 va.toNat = none) := by
  and_intros
  rotate_right
  · exact ⟨2 ^ 40, by decide +kernel⟩
  all_goals decide +kernel
/-- LoadInstructions, StoreInstructions, AtomicResults: an access that a locked bank stops, one to a lost line, and a poisoned word; slot
15, which a lock does not stop, and a bank that released the slot's access. -/
theorem hyp_LoadInstructions_touch :
    (plainState.isSup = false ∧ ((small id).modCore 0 fun k => { k with lock := 2 }).lockedAt 0x120000 = some (0, 1) ∧
      freedFrom ((small id).modCore 0 fun k => { k with lock := 2 }).me.stalls (0, 1) = false) ∧
    freedFrom ((small fun t => { t with stalls := [{ core := 0, bank := 1, freed := true }] }).modCore 0 fun k => { k with lock := 2 }).me.stalls (0, 1) = true ∧
    State.reset.isSup = true ∧ plainState.lockedAt 0x20000 = none ∧
    ({ plainState with lost := [0x20000 / 256] } : State).lostAt 0x20000 8 = some (0x20000 / 256) ∧
    ({ plainState with poison := [0x20000 / 8] } : State).poisonedAt 0x20000 8 = some (0x20000 / 8) ∧
    plainState.lostAt 0x20000 8 = none ∧ plainState.poisonedAt 0x20000 8 = none := by decide +kernel
/-- LoadInstructions, StoreInstructions, AtomicResults: a load, a store and an atomic that end at their translation, and at what they touch. -/
theorem hyp_LoadInstructions_traps :
    let s : State := { priv with poison := [0x20000 / 8] }
    (priv.memAddr (.off 1 0) 8 = .ok (0x10100, none) ∧ (small fun t => t.setX 1 0x10101).memAddr (.off 1 0) 8 = .ok (0x10101, none) ∧
      (small fun t => t.setX 1 0x10101).accessFails 0x10101 .r 8 true (.trap .align 0 0x10101) ∧
      (small fun t => t.setX 1 0x10101).accessFails 0x10101 .w 8 false (.trap .align 0 0x10101) ∧
      (small fun t => t.setX 1 0x10101).translate 0x10101 .w 8 = .error (.trap .align 0 0x10101) ∧
      (small fun t => t.setX 1 0x10101).translate 0x10101 .rw 8 = .error (.trap .align 0 0x10101)) ∧
    (s.translate 0x20000 .rw 8 = .ok 0x20000 ∧ redHeader 0x20000 8 = false ∧ s.touchable 0x20000 0x20000 8 true = .error (.trap .poison 0 0x20000) ∧
      s.accessFails 0x20000 .r 8 true (.trap .poison 0 0x20000)) := by
  have t : (small fun t => t.setX 1 0x10101).translate 0x10101 .r 8 = .error (.trap .align 0 0x10101) := rfl
  have w : (small fun t => t.setX 1 0x10101).translate 0x10101 .w 8 = .error (.trap .align 0 0x10101) := rfl
  exact ⟨⟨rfl, rfl, .inl t, .inl w, w, rfl⟩, ok_of (by decide +kernel), by decide +kernel, rfl, .inr ⟨0x20000, ok_of (by decide +kernel), rfl⟩⟩
/-- AtomicResults: a word of the vault; `cas` that compares equal, and one that does not. -/
theorem hyp_AtomicResults :
    priv.calm ∧ Memory.wf priv.mem = true ∧ priv.translate (priv.x 1) .w 4 = .ok (vaultBase 0 + 0x10100) ∧
    priv.translate (priv.x 1) .rw 4 = .ok (vaultBase 0 + 0x10100) ∧ (vaultBase 0 + 0x10100) / 2 ^ 43 = priv.pkg ∧
    priv.touchable (priv.x 1) (vaultBase 0 + 0x10100) 4 true = .ok () ∧ priv.plain ((vaultBase 0 + 0x10100) % 2 ^ 43) 4 ∧
    (∀ r, span ((vaultBase 0 + 0x10100) % 2 ^ 43) 4 r → ¬ priv.spilled r) ∧
    BitVec.ofNat 32 (priv.num ((vaultBase 0 + 0x10100) % 2 ^ 43) 4) = (priv.x 2).setWidth 32 ∧
    BitVec.ofNat 32 (priv.num ((vaultBase 0 + 0x10100) % 2 ^ 43) 4) ≠ (priv.x 1).setWidth 32 :=
  ⟨⟨rfl, rfl, rfl⟩, rfl, ok_of (by decide +kernel), ok_of (by decide +kernel), by decide +kernel, ok_of (by decide +kernel), plain_of (by decide +kernel),
    none_spilled rfl, by decide +kernel, by decide +kernel⟩
/-! ### States that meet the hypotheses: vectors -/

/-- The thread holds sixteen vector registers, its private range as above, and x1 = 0x10100. -/
def vectors : State :=
  small fun t => { t.setX 1 0x10100 with v := List.replicate 16 0, m := Vector.replicate 8 (BitVec.allOnes 32), prvb := 0x10000, prvl := 0x20000 }
/-- VectorIntegerResults, VectorFloatResults, VectorCompareResults: the last register that the slot holds. -/
theorem hyp_VectorIntegerResults : vectors.calm ∧ vectors.hasVectors [15, 0, 15] :=
  ⟨⟨rfl, rfl, rfl⟩, by unfold State.hasVectors; decide +kernel⟩
theorem hyp_VectorFloatResults : vectors.calm ∧ vectors.hasVectors [15, 14, 0, 15] :=
  ⟨⟨rfl, rfl, rfl⟩, by unfold State.hasVectors; decide +kernel⟩
/-- A format with unordered compares, too. -/
theorem hyp_VectorCompareResults : vectors.calm ∧ vectors.hasVectors [0, 15] ∧ CmpFmt.f64 ≠ .i32 :=
  ⟨⟨rfl, rfl, rfl⟩, by unfold State.hasVectors; decide +kernel, by decide⟩
/-- Rounding: the largest finite f16 and −0; 6 × 2^−2 is 1.5, a tie, and 8 × 2^−2 is 2; 5 and 7 lie below and above a tie. -/
theorem hyp_Rounding :
    (0x7BFF < 2 ^ f16.width ∧ (f16.unpack 0x7BFF).isNan = false ∧ 0x80000000 < 2 ^ f32.width ∧ (f32.unpack 0x80000000).isNan = false) ∧
    (roundShift .rne false 8 false 2).2 = true ∧ (roundShift .rne false 6 false 2).2 = false ∧ 2 * (6 % 2 ^ 2) = 2 ^ 2 ∧
    (roundShift .rmm true 5 false 2).2 = false ∧ 2 * (5 % 2 ^ 2) < 2 ^ 2 ∧
    (roundShift .rmm true 7 false 2).2 = false ∧ 2 ^ 2 < 2 * (7 % 2 ^ 2) ∧
    (roundShift .rtz true 7 false 2).2 = false ∧ (roundShift .rup true 7 false 2).2 = false ∧ (roundShift .rdn true 7 false 2).2 = false := by
  decide +kernel
/-- Rounding, a value between: f16 values above 65504, halfway under the least subnormal, 1 + 2^−11, and 3 with q at its weight. -/
theorem hyp_Rounding_values :
    (round f16 .rne true 0 false 7 = (0x8000, 0)) ∧ (let ex : Int := Nat.log2 65520 + 0; 2 ^ (f16.emax + 1 - min (ex - 10) (f16.emax - 10)).toNat ≤
      (roundInt .rne false 65520 false (0 - (ex - 10))).1 * 2 ^ ((ex - 10) - min (ex - 10) (f16.emax - 10)).toNat) ∧
    (let ex : Int := Nat.log2 3 + 0; ¬ 2 ^ (f16.emax + 1 - min (ex - 10) (f16.emax - 10)).toNat ≤
      (roundInt .rne false 3 false (0 - (ex - 10))).1 * 2 ^ ((ex - 10) - min (ex - 10) (f16.emax - 10)).toNat) := by decide +kernel
/-- VectorFloatResults, exact results: an operand of each kind in f32, two that cancel, a signalling NaN, and both zeros. -/
theorem hyp_VectorFloatResults_exact :
    f32.unpack 0x7F800000 = .inf false ∧ f32.unpack 0xFF800000 = .inf true ∧ (f32.unpack 0x7FC00000).isNan = true ∧ f32.unpack 0x7F800001 = .nan true ∧
    (∃ m e, f32.unpack 0x3F800000 = .fin false m e ∧ m ≠ 0) ∧ (∃ m e, f32.unpack 0xBF800000 = .fin true m e ∧ m ≠ 0) ∧
    (∃ e, f32.unpack 0x80000000 = .fin true 0 e) ∧ ∃ e, f32.unpack 0 = .fin false 0 e := by
  refine ⟨rfl, rfl, rfl, rfl, ⟨_, _, rfl, by decide⟩, ⟨_, _, rfl, by decide⟩, ⟨_, rfl⟩, ⟨_, rfl⟩⟩
/-- VectorFloatResults, further results: −0 below +0 and −∞ below it; 1, a power of two that is itself an integer, and 1.5, which is no
integer; 1 × 1 + 1 and 1 × 1 − 1. -/
theorem hyp_VectorFloatResults_order :
    (ordered (f32.unpack 0x80000000) (f32.unpack 0) ∧ ordered (f32.unpack 0xFF800000) (f32.unpack 0x80000000)) ∧
    (f32.unpack 0x3F800000 = .fin false (2 ^ 23) (-23) ∧ scaled (2 ^ 23) (-23) 1 0 = .eq ∧ (roundInt .rne false (2 ^ 23) false (-23)).2 = true) ∧
    (f32.unpack 0xBFC00000 = .fin true (3 * 2 ^ 22) (-23) ∧ (roundInt .rne true (3 * 2 ^ 22) false (-23)).2 = false) ∧
    (f32.unpack 0xBF800000 = .fin true (2 ^ 23) (-23) ∧ 0x3F800000 < 2 ^ f32.width) := by
  refine ⟨⟨.inl ⟨rfl, rfl⟩, (rfl : true = true)⟩, ?_, ?_, ?_⟩ <;> decide +kernel
/-- VectorMoves: the last lane and the last block; registers beside VCNT in each field. -/
theorem hyp_VectorMoves :
    vectors.calm ∧ vectors.hasVectors [15, 0, 1] ∧ 31 < LaneWidth.w.lanes ∧ 5 < PsFmt.ps4.blocks ∧
    vectors.me.vcnt ≤ 16 ∧ 15 < vectors.me.vcnt ∧ 0 < plainState.me.vcnt + 1 ∧ plainState.me.vcnt ≤ 0 := by
  refine ⟨⟨rfl, rfl, rfl⟩, ?_, ?_⟩
  · unfold State.hasVectors; decide +kernel
  · decide +kernel
/-- The lanes of a unit access from x1, all of them. -/
def lanes : List (Nat × Word × Nat) :=
  (List.range 32).map fun j => (j, BitVec.ofNat 64 (0x10100 + 4 * j), vaultBase 0 + 0x10100 + 4 * j)
/-- The same thread without a private range. -/
def vectorsOut : State := small fun t => { t.setX 1 0x10100 with v := List.replicate 16 0, m := Vector.replicate 8 (BitVec.allOnes 32) }
/-- VectorMemory: all lanes, in and outside the private range; a group of 32 bytes. -/
theorem hyp_VectorMemory :
    (vectors.calm ∧ vectors.hasVectors [15, 0] ∧ vectors.noEvent ∧ Memory.wf vectors.mem = true ∧ vectors.ownEntries = []) ∧
    vectors.laneAddrs 0 .r (fun j => BitVec.ofNat 64 ((vectors.x 1).toNat + 128 * 0 + 4 * j)) = .ok lanes ∧
    vectors.laneAddrs 0 .w (fun j => BitVec.ofNat 64 ((vectors.x 1).toNat + 128 * 0 + 4 * j)) = .ok lanes ∧
    (∀ l ∈ lanes, vectors.touchable l.2.1 l.2.2 4 true = .ok () ∧ inCtl (l.2.2 % 2 ^ 43) = false) ∧
    (∀ l ∈ lanes, vectors.touchable l.2.1 l.2.2 4 false = .ok () ∧ l.2.2 / 2 ^ 43 = vectors.pkg ∧ vectors.plain (l.2.2 % 2 ^ 43) 4 ∧
      vectors.offTables (l.2.2 % 2 ^ 43) 4 ∧
      vectors.inZone (l.2.2 % 2 ^ 43) = false ∧ vectors.ticketWords.contains (l.2.2 % 2 ^ 43 / 8 * 8) = false) ∧
    (∀ l ∈ lanes, vectors.me.isPrivate l.2.1 = true) ∧ (∀ l ∈ lanes, vectorsOut.me.isPrivate l.2.1 = false) ∧
    vectorsOut.myCore.buffer.length ≤ 32 := by
  refine ⟨⟨⟨rfl, rfl, rfl⟩, ?_, ?_, rfl, rfl⟩, ok_of (by decide +kernel), ok_of (by decide +kernel),
    fun l hl => ⟨ok_of ?_, ?_⟩, fun l hl => ⟨ok_of ?_, ?_, plain_of ?_, off_of (of_span fun i hi => tables_clear ?_ ?_) rfl, ?_, ?_⟩, ?_, ?_, ?_⟩
  · unfold State.hasVectors; decide +kernel
  · unfold State.noEvent; decide
  all_goals (try unfold State.table)
  all_goals (first | (revert i; revert l hl; decide +kernel) | (revert l hl; decide +kernel) | decide +kernel)
/-- VectorMemory, `vamo`: the group at 0x10100. -/
theorem hyp_VectorMemory_atomic :
    vectors.calm ∧ vectors.hasVectors [15] ∧ Memory.wf vectors.mem = true ∧ vectors.ownEntries = [] ∧
    (vectors.translate (vectors.x 1) .w 32 = .ok (vaultBase 0 + 0x10100) ∧ vectors.translate (vectors.x 1) .rw 32 = .ok (vaultBase 0 + 0x10100) ∧
      (vaultBase 0 + 0x10100) / 2 ^ 43 = vectors.pkg ∧ vectors.touchable (vectors.x 1) (vaultBase 0 + 0x10100) 32 true = .ok () ∧
      vectors.plain ((vaultBase 0 + 0x10100) % 2 ^ 43) 32) ∧
    vectors.offTables ((vaultBase 0 + 0x10100) % 2 ^ 43) 32 := by
  refine ⟨⟨rfl, rfl, rfl⟩, ?_, rfl, rfl, ⟨ok_of ?_, ok_of ?_, ?_, ok_of ?_, plain_of ?_⟩, off_of (of_span fun i hi => tables_clear ?_ ?_) rfl⟩
  · unfold State.hasVectors; decide +kernel
  all_goals (try unfold State.table)
  all_goals (first | (revert i; decide +kernel) | decide +kernel)
/-- The first eight lanes at 0x10100, the words of lanes 6 and 7 poisoned, lane 9 without a form. -/
def lame (on : BitVec 32) : State :=
  let s := small fun t =>
    { t.setX 1 0x10100 with v := [0, ofLanes 32 ((List.range 32).map fun j => if j = 9 then 1 else 4 * j)], m := (Vector.replicate 8 on) }
  { s with poison := [(0x10100 + 24) / 8] }
/-- VectorMemory, traps: lane 9, the first that does not translate (ALIGN); lane 6, the first whose bytes are poisoned; a group that fails. -/
theorem hyp_VectorMemory_traps :
    (lame 0x3FF).hasVectors [0, 1] ∧
    (((lame 0x3FF).mask 1).getLsbD 9 = true ∧ (lame 0x3FF).translate ((lame 0x3FF).laneIndex 1 1 0 9) .r 4 = .error (.trap .align 0 0x10101) ∧
      ∀ l < 9, ∃ da, (lame 0x3FF).translate ((lame 0x3FF).laneIndex 1 1 0 l) .r 4 = .ok da) ∧
    (∃ pre post, (lame 0x7F).laneAddrs 1 .r ((lame 0x7F).laneIndex 1 1 0) = .ok (pre ++ (6, 0x10118, 0x10118) :: post) ∧
      (∀ l ∈ pre, (lame 0x7F).touchable l.2.1 l.2.2 4 true = .ok ()) ∧ (lame 0x7F).touchable 0x10118 0x10118 4 true = .error (.trap .poison 0 0x10118)) ∧
    ((lame 0).translate ((lame 0).x 1) .rw 32 = .ok 0x10100 ∧ redHeader 0x10100 32 = false ∧
      (lame 0).touchable ((lame 0).x 1) 0x10100 32 true = .error (.trap .poison 0 0x10118)) := by
  refine ⟨?_, ⟨?_, rfl, fun l hl => ?_⟩, ⟨(List.range 6).map fun j => (j, BitVec.ofNat 64 (0x10100 + 4 * j), 0x10100 + 4 * j), [], ok_of ?_, fun l hl => ok_of ?_, rfl⟩,
    ok_of ?_, ?_, rfl⟩
  · unfold State.hasVectors; decide +kernel
  · decide +kernel
  · have : ∀ l < 9, ((lame 0x3FF).translate ((lame 0x3FF).laneIndex 1 1 0 l) .r 4).toOption = some (0x10100 + 4 * l) := by decide +kernel
    exact ⟨_, ok_of (this l hl)⟩
  all_goals (first | (revert l hl; decide +kernel) | decide +kernel)
/-! ### States that meet the hypotheses: privilege, traps, registers -/

/-- PrivilegedInstructions: the first and the last of each list, in a tenant slot and in slot 15. -/
theorem hyp_PrivilegedInstructions :
    (needsSupervisor .sret = true ∧ (encode .sret).isSome = true ∧ needsSupervisor (.crd 15 .ctxsc) = true ∧
      (encode (.crd 15 .ctxsc)).isSome = true ∧ plainState.isSup = false) ∧
    needsTenant .phase = true ∧ (encode .phase).isSome = true ∧ needsTenant (.brk 0xFFF) = true ∧
      (encode (.brk 0xFFF)).isSome = true ∧ State.reset.isSup = true ∧
    Instr.sret.wellFormed = true ∧ (Instr.crd 15 .ctxsc).wellFormed = true ∧ (Instr.crw 15 .clkl).wellFormed = true ∧ needsSupervisor (.crw 15 .clkl) = true := by
  decide +kernel
/-- PrivilegedInstructions, registers that no `crw` writes: the first that slot 15 alone reads, and one that every slot reads. -/
theorem hyp_PrivilegedInstructions_readOnly : readOnly (.lkc0 0) = true ∧ (encode (.crw 0 (.lkc0 0))).isSome = true ∧
    readOnly .lvt = true ∧ (encode (.crw 15 .lvt)).isSome = true ∧ readOnly .ctxsc = true ∧ (encode (.crw 15 .ctxsc)).isSome = true := by decide +kernel
/-- FetchAndDecodeFailures: a PC that a tenant may not reach, words that are poisoned, lost, and in a locked bank. -/
theorem hyp_FetchAndDecodeFailures :
    (small fun t => { t with pc := 0x900 }).fetchAt = .error (.trap .prot 0 0x900) ∧
    (small fun t => { t with pc := 0x900 }).translate 0x900 .x 4 = .error (.trap .prot 0 0x900) ∧
    (plainState.translate plainState.me.pc .x 4 = .ok 0x10000 ∧ 0x10000 / 2 ^ 43 = plainState.pkg ∧ plainState.lockedAt 0x10000 = none ∧
      ({ plainState with lost := [0x10000 / 256] } : State).lostAt 0x10000 4 = some (0x10000 / 256) ∧ plainState.lostAt 0x10000 4 = none ∧
      (({ plainState with poison := [0x10000 / 8] } : State).poisonedAt 0x10000 4).isSome = true) ∧
    ((small fun t => { t with pc := 0x120000 }).translate 0x120000 .x 4 = .ok 0x120000 ∧ plainState.isSup = false ∧
      ((small id).modCore 0 fun k => { k with lock := 2 }).lockedAt 0x120000 = some (0, 1) ∧ freedFrom plainState.me.stalls (0, 1) = false ∧
      freedFrom (small fun t => { t with stalls := [{ core := 0, bank := 1, freed := true }] }).me.stalls (0, 1) = true) :=
  ⟨trap_of (by decide +kernel), trap_of (by decide +kernel), ⟨ok_of (by decide +kernel), by decide +kernel⟩, ok_of (by decide +kernel), by decide +kernel⟩
/-- Slot 15 of core 0 handles a record of `slot`. -/
def handling (cause slot : Nat) (f : Core → Core) : State :=
  State.reset.modCore 0 fun k => f { k with trap := { k.trap with tcause := BitVec.ofNat 64 (cause + 65536 * slot) } }
/-- TakingATrap: the last tenant slot; slot 15 with no record in hand, with one, and with the hidden save full. -/
theorem hyp_TakingATrap :
    (((14 : SlotId) ≠ 15) ∧ (State.reset.slotAt { core := 1023, slot := 14 }).mint = none) ∧
    (State.reset.slotAt { core := 0, slot := 15 }).mint = none ∧ (State.reset.core 0).trap.tcause.toNat % 256 = 0 ∧
    ((handling 1 0 id).core 0).trap.tcause.toNat % 256 ≠ 0 ∧ ((handling 1 0 id).core 0).hidden = none ∧
    ((handling 1 0 fun k => { k with hidden := some k.trap }).core 0).hidden ≠ none := by decide +kernel
/-- A record of slot 0. -/
def record : TrapRec := { pop := 0, cause := .syscall, sub := 7, slot := 0, async := false, tval := 5, tpc := 0x10004, tts := 0 }
/-- Core 1023 waits for a record, of which one stands in its queue. -/
def waiting (rs : List TrapRec) : State :=
  (State.reset.modCore 1023 fun k => { k with records := rs }).modSlot { core := 1023, slot := 15 }
    fun t => { t with state := .wait, wait := some .trapRecord }
/-- SystemCallsAndDelivery: slot 15 that waits with and without a record, and slot 15 that is busy. -/
theorem hyp_SystemCallsAndDelivery :
    plainState.isSup = false ∧ ((waiting [record]).core 1023).records = record :: [] ∧
    ((waiting [record]).slotAt { core := 1023, slot := 15 }).state = .wait ∧
    ((waiting [record]).slotAt { core := 1023, slot := 15 }).wait = some .trapRecord ∧
    ((waiting []).core 1023).records = [] ∧ (State.reset.slotAt { core := 1023, slot := 15 }).state ≠ .wait := by decide +kernel
/-- Slot 15 of core 0 handles the SYSCALL of slot 14, which is parked. -/
def returning (f : Slot → Slot) : State :=
  (handling 0x17 14 id).modSlot { core := 0, slot := 14 } fun t => f { t with state := .parked, trapped := some record }
/-- ReturningFromATrap: a parked thread that has and has not begun an event, and a nested record. -/
theorem hyp_ReturningFromATrap :
    ((returning id).isSup = true ∧ (14 : SlotId).val < 15 ∧ (returning id).myCore.trap.tcause.toNat % 256 ≠ 0 ∧
      (returning id).myCore.trap.tcause.toNat / 65536 % 16 = 14 ∧
      ((returning id).slotAt { core := 0, slot := 14 }).state = .parked ∧
      ((returning id).slotAt { core := 0, slot := 14 }).reserved = false ∧
      ((returning id).slotAt { core := 0, slot := 14 }).pending = none ∧ ((returning id).slotAt { core := 0, slot := 14 }).intr = none ∧
      ((returning id).slotAt { core := 0, slot := 14 }).mint = none ∧ (∀ e ∈ (returning id).myCore.records, e.slot ≠ 14)) ∧
    ((returning fun t => { t with opt := true, evid := 1 }).slotAt { core := 0, slot := 14 }).opt = true ∧
    ((handling 1 15 fun k => { k with hidden := some { tcause := 1, tval := 2, tpc := 4, tts := 0 } }).isSup = true ∧
      (handling 1 15 fun k => { k with hidden := some { tcause := 1, tval := 2, tpc := 4, tts := 0 } }).myCore.trap.tcause.toNat % 256 ≠ 0 ∧
      (handling 1 15 fun k => { k with hidden := some { tcause := 1, tval := 2, tpc := 4, tts := 0 } }).myCore.trap.tcause.toNat / 65536 % 16 = 15 ∧
      (handling 1 15 fun k => { k with hidden := some { tcause := 1, tval := 2, tpc := 4, tts := 0 } }).myCore.trap.tcause.getLsbD 20 = false ∧
      (handling 1 15 fun k => { k with hidden := some { tcause := 1, tval := 2, tpc := 4, tts := 0 } }).myCore.hidden =
        some { tcause := 1, tval := 2, tpc := 4, tts := 0 } ∧
      (handling 1 15 id).pop? (handling 1 15 id).me.popid = none) := by decide +kernel
/-- ControlRegisterReads: a tenant slot, and slot 15. -/
theorem hyp_ControlRegisterReads : plainState.calm ∧ State.reset.calm ∧ State.reset.isSup = true ∧
    plainState.myDie.asks.length < 2 ^ 16 ∧ plainState.myDie.escrow.length < 2 ^ 13 :=
  ⟨⟨rfl, rfl, rfl⟩, ⟨rfl, rfl, rfl⟩, rfl, by decide +kernel, by decide +kernel⟩
/-- ControlRegisterWrites: slot 15 with empty logs and spill area; a thread that sets OPT. -/
theorem hyp_ControlRegisterWrites : State.reset.calm ∧ State.reset.isSup = true ∧ State.reset.myCore.undo = [] ∧
    State.reset.myCore.sent = [] ∧ State.reset.myCore.spill = [] ∧ State.reset.withheld = [] ∧ (small (·.setX 1 1)).calm ∧ ((small (·.setX 1 1)).x 1).getLsbD 0 = true :=
  ⟨⟨rfl, rfl, rfl⟩, rfl, rfl, rfl, rfl, rfl, ⟨rfl, rfl, rfl⟩, rfl⟩
/-- A thread in an open event of time 5, whose die has GVT `g`; or one whose float atomic is not acknowledged. -/
def opened (g : BitVec 48) (f : Slot → Slot) : State :=
  (small fun t => f { t with opt := true, evo := true, evid := 1, lvt := 5 }).modDie 0 fun d => { d with gvt := g }
def flagged : State :=
  { plainState with out := [{ tag := 0, place := here, pop := 1, gone := false, addr := 0, anti := false, float := true, mint := none }] }
/-- ControlRegisterWrites: `crw` that clears OPT with no event, an open one below and at GVT, and one that has ended; flags to come; slot 15
with no invalidation in progress; a slot that is FREE and one that is not. -/
theorem hyp_ControlRegisterWrites_modes :
    (plainState.calm ∧ (plainState.x 1).getLsbD 0 = false ∧ plainState.me.opt = false) ∧
    ((opened 6 id).calm ∧ ((opened 6 id).x 1).getLsbD 0 = false ∧ (opened 6 id).me.opt = true ∧ (opened 6 id).me.evo = true ∧
      (opened 6 id).me.lvt.toNat < (opened 6 id).myDie.gvt.toNat ∧ ¬ (opened 5 id).me.lvt.toNat < (opened 5 id).myDie.gvt.toNat) ∧
    ((opened 6 fun t => { t with evo := false, prog := .ended }).me.evo = false ∧
      ¬ (opened 5 fun t => { t with evo := false, prog := .ended }).me.lvt.toNat < (opened 5 fun t => { t with evo := false, prog := .ended }).myDie.gvt.toNat ∧
      (opened 5 fun t => { t with evo := false, prog := .ended }).me.prog = .ended ∧ (opened 5 fun t => { t with evo := false }).me.prog ≠ .ended) ∧
    (flagged.calm ∧ flagged.flagsOut here = true ∧ plainState.flagsOut here = false) ∧
    (State.reset.calm ∧ State.reset.isSup = true ∧ State.reset.myDie.xbusy = false ∧
      (State.reset.myCore.slots[0]).state = .free ∧ (plainState.myCore.slots[0]).state ≠ .free) :=
  ⟨⟨⟨rfl, rfl, rfl⟩, rfl, rfl⟩, ⟨⟨rfl, rfl, rfl⟩, by decide +kernel⟩, by decide +kernel, ⟨⟨rfl, rfl, rfl⟩, by decide +kernel⟩, ⟨rfl, rfl, rfl⟩, by decide +kernel⟩
/-- A state whose slot 1 of core 0 holds 193 vector registers, so that 63 are free, and where the requests `g` wait. -/
def taken (s : State) (g : List (SlotId × Nat)) : State :=
  (s.modSlot { core := 0, slot := 1 } fun t => { t with v := List.replicate 193 0 }).modCore 0 fun k => { k with grants := g }
/-- SlotAndThreadInstructions: `valloc 4` in an idle core and in one with 63 free registers, `valloc 1` with a request ahead of it, and
with its own first; slot 15 likewise; a slot that holds registers; `halt` in a thread with and without an event. -/
theorem hyp_SlotAndThreadInstructions :
    (plainState.calm ∧ plainState.isSup = false ∧ plainState.me.v = [] ∧ plainState.myCore.grants = [] ∧
      16 * (4 : BitVec 12).toNat ≤ plainState.myCore.freeVectors) ∧
    ((taken plainState []).calm ∧ (taken plainState []).me.v = [] ∧ (taken plainState []).isSup = false ∧
      (∀ g ∈ (taken plainState []).myCore.grants, g.1 ≠ (taken plainState []).cur.slot) ∧
      (taken plainState []).myCore.freeVectors < 16 * (4 : BitVec 12).toNat) ∧
    ((taken plainState [(1, 64)]).myCore.grants ≠ [] ∧ (∀ g ∈ (taken plainState [(1, 64)]).myCore.grants, g.1 ≠ (taken plainState [(1, 64)]).cur.slot)) ∧
    ((taken plainState [(0, 16), (1, 64)]).myCore.grants = (0, 16) :: [(1, 64)] ∧ (taken plainState [(0, 16), (1, 64)]).cur.slot = 0 ∧
      16 * (1 : BitVec 12).toNat ≤ (taken plainState [(0, 16), (1, 64)]).myCore.freeVectors) ∧
    ((taken State.reset [(1, 64)]).calm ∧ (taken State.reset [(1, 64)]).isSup = true ∧ (taken State.reset [(1, 64)]).me.v = [] ∧
      (∀ g ∈ (taken State.reset [(1, 64)]).myCore.grants, g.1 ≠ (taken State.reset [(1, 64)]).cur.slot) ∧
      16 * (1 : BitVec 12).toNat ≤ (taken State.reset [(1, 64)]).myCore.freeVectors ∧
      (taken State.reset [(1, 64)]).myCore.freeVectors < 16 * (4 : BitVec 12).toNat) ∧
    vectors.me.v ≠ [] ∧
    (small fun t => { t with opt := true, evid := 1 }).me.opt = true ∧ (small fun t => { t with opt := true, evid := 1 }).me.evid ≠ 0 := by
  refine ⟨⟨⟨rfl, rfl, rfl⟩, ?_⟩, ⟨⟨rfl, rfl, rfl⟩, ?_⟩, ?_, ?_, ⟨⟨rfl, rfl, rfl⟩, ?_⟩, ?_⟩ <;> decide +kernel
/-- BoundaryAfterInstruction: a thread that is to stop, one with a boundary trap pending, one with a rollback pending. -/
theorem hyp_BoundaryAfterInstruction :
    (small fun t => { t with stopping := true }).isSup = false ∧ (small fun t => { t with stopping := true }).me.mint = none ∧
    (small fun t => { t with stopping := true }).me.stopping = true ∧
    (small fun t => { t with intr := some 1 }).me.stopping = false ∧ (small fun t => { t with intr := some 1 }).me.intr = some 1 ∧
    (small fun t => { t with pending := some { evid := 1, causes := [0] } }).me.intr = none ∧
    (small fun t => { t with pending := some { evid := 1, causes := [0] } }).me.pending.isSome = true ∧
    (small fun t => { t with pending := some { evid := 1, causes := [0] } }).me.state = .ready ∧
    (small fun t => { t with intr := some 1 }).flagsOut here = false := by decide +kernel
/-- BoundaryAfterInstruction, the operands of its instructions: a jump, a vector register, a load and a store in the private range, a
fence with nothing on its way. -/
theorem hyp_BoundaryAfterInstruction_operands :
    let s : State := priv.modMe fun t => { t with intr := some 1, v := List.replicate 16 0 }
    (s.isSup = false ∧ s.me.mint = none ∧ s.me.stopping = false ∧ s.me.intr = some 1 ∧ s.flagsOut here = false ∧ s.opB (.k 255) = .ok 0 ∧ (s.x 5).toNat % 4 = 0) ∧
    s.hasVectors [15] ∧
    (s.memAddr (.post 1 (-1)) 8 = .ok (0x10100, some (1, 0x100F8)) ∧ s.translate 0x10100 .r 8 = .ok 0x10100 ∧ s.touchable 0x10100 0x10100 8 true = .ok () ∧
      s.ownEntries = [] ∧ inCtl (0x10100 % 2 ^ 43) = false) ∧
    (s.noEvent ∧ s.translate 0x10100 .w 8 = .ok 0x10100 ∧ 0x10100 / 2 ^ 43 = s.pkg ∧ s.touchable 0x10100 0x10100 8 false = .ok () ∧
      s.me.isPrivate 0x10100 = true ∧ s.travelling s.cur 2 = false) := by
  refine ⟨⟨?_, ?_, ?_, ?_, ?_, rfl, ?_⟩, ?_, ⟨rfl, ok_of ?_, ok_of ?_, ?_, ?_⟩, ?_, ok_of ?_, ?_, ok_of ?_, ?_, ?_⟩
  all_goals (try unfold State.hasVectors); (try unfold State.noEvent); decide +kernel

/-! ### States that meet the hypotheses: waits and the Treasury -/

/-- Fences: a buffered atomic of the thread that is on its way, and copies that were captured before now. -/
theorem hyp_Fences_stores : flagged.storing here = true ∧ plainState.storing here = false ∧ ∀ e ∈ plainState.myCore.captured, e.when_ ≤ plainState.fresh := by
  decide +kernel
/-- Fences: nothing on its way, a message on its way, and a write without its acknowledgement. -/
theorem hyp_Fences : plainState.calm ∧ sending.calm ∧ plainState.travelling here 0 = false ∧ plainState.travelling here 1 = false ∧
    plainState.travelling here 2 = false ∧ sending.travelling here 1 = true ∧ sending.travelling here 2 = true ∧
    plainState.outstandingAt here = false ∧ sending.outstandingAt here = true ∧ Memory.wf plainState.mem = true :=
  ⟨⟨rfl, rfl, rfl⟩, ⟨rfl, rfl, rfl⟩, by decide +kernel⟩
/-- Phases: a thread that has not arrived, one that has, and one whose phase is over; a phase that every member ends. -/
theorem hyp_Phases :
    ((member 0 id).calm ∧ (member 0 id).isSup = false ∧ (member 0 id).me.opt = false ∧ (member 0 id).myPop = some (pop 0) ∧
      (member 0 id).me.prog = .none) ∧
    (({ member 0 id with out := flagged.out } : State).storing here = true ∧ (member 0 id).storing here = false ∧
      (member 0 fun t => { t with prog := .arrived 0 }).me.prog = .arrived 0) ∧
    (member 1 fun t => { t with prog := .arrived 0 }).calm ∧ (member 1 fun t => { t with prog := .arrived 0 }).me.prog = .arrived 0 ∧
    (member 1 fun t => { t with prog := .arrived 0 }).myPop = some (pop 1) ∧ (pop 1).phase ≠ 0 :=
  ⟨⟨⟨rfl, rfl, rfl⟩, by decide +kernel⟩, by decide +kernel, ⟨rfl, rfl, rfl⟩, by decide +kernel⟩
/-- WatchAndWait: a word that differs from x2, one that does not, and a monitor that has fired. -/
theorem hyp_WatchAndWait :
    (priv.calm ∧ priv.translate (priv.x 1) .r 8 = .ok (vaultBase 0 + 0x10100) ∧
      priv.touchable (priv.x 1) (vaultBase 0 + 0x10100) 8 true = .ok () ∧ inCtl ((vaultBase 0 + 0x10100) % 2 ^ 43) = false ∧
      priv.word ((vaultBase 0 + 0x10100) % 2 ^ 43) ≠ priv.x 1 ∧ priv.word ((vaultBase 0 + 0x10100) % 2 ^ 43) = priv.x 2 ∧
      priv.me.monitor = none) ∧
    (small fun t => { t with monitor := some { line := (vaultBase 0 + 0x10100) % 2 ^ 43 / 64, fired := true } }).me.monitor =
      some { line := (vaultBase 0 + 0x10100) % 2 ^ 43 / 64, fired := true } :=
  ⟨⟨⟨rfl, rfl, rfl⟩, ok_of (by decide +kernel), ok_of (by decide +kernel), by decide +kernel⟩, rfl⟩
/-- A thread that asks for `n` cells where the Treasury has 100 and grants at most 1,000. -/
def asking (n : Nat) (g : Progress) (f : Die → Die) : State :=
  (small fun t => { t.setX 1 (BitVec.ofNat 64 n) with prog := g }).modDie 0 fun e => f { e with trsy := 100, trbud := 1000 }
/-- TreasuryInstructions: 0, all of TRSY, one more, a queue that is not empty, a granted request; the last entry of the
schedule, and the first that does not exist. -/
theorem hyp_TreasuryInstructions :
    (asking 100 .none id).calm ∧ (asking 0 .none id).calm ∧
    (Nat.min ((asking 0 .none id).x 1).toNat (asking 0 .none id).myDie.trbud.toNat = 0 ∧
      (asking 100 .none id).myDie.asks = [] ∧ (asking 100 .none id).me.prog ≠ .granted ∧
      Nat.min ((asking 100 .none id).x 1).toNat (asking 100 .none id).myDie.trbud.toNat = 100 ∧
      100 ≤ (asking 100 .none id).myDie.trsy.toNat ∧
      Nat.min ((asking 101 .none id).x 1).toNat (asking 101 .none id).myDie.trbud.toNat = 101 ∧
      (asking 101 .none id).myDie.trsy.toNat < 101 ∧ (∀ e ∈ (asking 101 .none id).myDie.asks, e.place ≠ here) ∧
      (asking 1 .none fun e => { e with asks := [{ place := { core := 1, slot := 0 }, cost := 1 }] }).myDie.asks ≠ [] ∧
      (asking 5 .granted id).me.prog = .granted) ∧
    (asking 0 .none fun e => { e with sched := [(1000, 1200)] }).myDie.sched[0]? = some (1000, 1200) ∧
    (asking 1 .none fun e => { e with sched := [(1000, 1200)] }).myDie.sched.length ≤
      ((asking 1 .none fun e => { e with sched := [(1000, 1200)] }).x 1).toNat :=
  ⟨⟨rfl, rfl, rfl⟩, ⟨rfl, rfl, rfl⟩, by decide +kernel⟩

/-! ### States that meet the hypotheses: tiles and engines -/

/-- A plain tile of 256 bytes of partition 0, with its shape. -/
def tile (base shape : Nat) (st : TileState) : Tile :=
  { base, size := 4, shape, state := st, err := 0, ring := false, memb := false, first := 0, nm1 := 0, readers := 0, pend := 0,
    part := 0, v := true, mxf := false, pidx := 0, cidx := 0, owner := 1 }
/-- The four words of a shape record that may be read and written: a format, its order, LEN and VECS. -/
def shapeWords (fmt rowMaj len vecs : Nat) : List Nat :=
  [fmt + 16 * rowMaj + 256 + 512 + 2 ^ 63, len + 2 ^ 32 * vecs, 0, 0]
/-- The small state with a tile table at 0x12000 and a shape table at 0x13000 with three f32 shapes: 1 row-major 1 × 16,
2 bit-plane 1 × 64, 3 row-major 1 × 64. Tile 1 is READY, 2 EMPTY, 3 FILLING, 4 failed, 5 a ring over 6 (READY) and 7 (EMPTY),
8 DRAINING, 9 READY, 11 FILLING for `mma`, 62 and 63 EMPTY. The thread's parameter words from `kN` on are `ps`. -/
def tiled (n : Nat) (ps : List Nat) (f : Slot → Slot) : State :=
  let s := small fun t => f { t with res := 1000 }
  let s := s.modCore 0 fun k => { k with ttb := 0x12000 }
  let s := s.modPart 0 fun p => { p with words := (p.words.set 1 0x13000).set 6 4 }
  let t (h : Nat) (e : Tile) : Nat × List Nat := (0x12000 + 64 * h, e.words)
  let mem := image
      [(0xC000 + 8 * n, ps), t 1 (tile 0x20000 2 .ready), t 2 (tile 0x21000 1 .empty), t 3 (tile 0x22000 1 .filling),
       t 4 { tile 0x23000 1 .empty with err := 1 }, t 5 { tile 0 0 .empty with size := 0, ring := true, first := 6, nm1 := 1, pidx := 1 },
       t 6 { tile 0x24000 3 .ready with memb := true }, t 7 { tile 0x25000 2 .empty with memb := true },
       t 8 { tile 0x26000 1 .draining with readers := 1 }, t 9 (tile 0x29000 1 .ready), t 11 { tile 0x2A000 1 .filling with mxf := true, pend := 1 },
       t 62 (tile 0x28000 1 .empty), t 63 (tile 0x27000 2 .empty),
       (0x13020, shapeWords 7 1 16 1 ++ shapeWords 7 0 64 1 ++ shapeWords 7 1 64 1)]
  { s with mem }
/-- Tiles, `tldef` and `tlring`: a tile of the smallest size for its shape; a ring of two at the end of the table, and what
stops at 64. -/
theorem hyp_Tiles_definition :
    ((tiled 252 [0x30000, 64, 1, 0] id).calm ∧ (tiled 252 [0x30000, 64, 1, 0] id).isSup = false ∧
      Memory.wf (tiled 252 [0x30000, 64, 1, 0] id).mem = true ∧ ((tiled 252 [0x30000, 64, 1, 0] id).tile 0 10).v = false ∧
      ∃ v, (tiled 252 [0x30000, 64, 1, 0] id).params 252 = .ok v ∧ (v.1 == (0x30000, 64, 1, 0) && v.2.ownsLocal 0 0x30000 (64 + 32) &&
        (v.2.shape 1 .either).toOption.any fun h => decide (h.1.size ≤ 64)) = true) ∧
    (∀ r, span (vaultBase 0 + 0x30000 + 64) 32 r → ¬ (tiled 252 [0x30000, 64, 1, 0] id).tileTable r) ∧
    ((tiled 0 [] id).tile 0 10).v = false ∧
    (tiled 0 [] id).owned 62 ∧ (62 : TileH).val + (2 : KIdx).val ≤ 64 ∧
    (10 : TileH).val < (62 : TileH).val ∧
    ∀ k, k < 64 → 62 ≤ k →
      ((tiled 0 [] id).tile 0 k).v = true ∧
      ((tiled 0 [] id).tile 0 k).part = 0 ∧
      ((tiled 0 [] id).tile 0 k).ring = false ∧
      ((tiled 0 [] id).tile 0 k).memb = false := by
  refine ⟨⟨calm_of ?_, ?_, ?_, ?_, ok_and ?_⟩, of_span ?_, ?_, ?_, ?_⟩
  all_goals (try unfold State.tileTable); (try unfold State.owned); decide +kernel
/-- The small state's tiles, as they are. -/
def tiles : State := tiled 0 [] id
/-- Tiles, waits and transitions: handles in each state of R191, a ring, and slots that are READY, failed, EMPTY and neither. -/
theorem hyp_Tiles_waits :
    (tiles.calm ∧ Memory.wf tiles.mem = true ∧ tiles.ownEntries = []) ∧
    (∀ h ∈ [1, 2, 3, 4, 5, 8, (63 : TileH)], tiles.owned h) ∧
    (tiles.tile 0 (tiles.consumerSlot 0 5)).state = .ready ∧ (tiles.tile 0 (tiles.producerSlot 0 5)).state = .empty ∧
    (tiles.tile 0 (tiles.producerSlot 0 5)).err = 0 ∧ tiles.consumerSlot 0 5 < 64 ∧
    (tiles.tile 0 4).state = .empty ∧ (tiles.tile 0 4).err ≠ 0 ∧ (tiles.tile 0 3).state ≠ .ready ∧ (tiles.tile 0 3).state ≠ .empty ∧
    (tiles.tile 0 63).state = .empty ∧ (tiles.tile 0 63).err = 0 ∧ (tiles.tile 0 63).ring = false ∧
    (tiles.tile 0 3).state = .filling ∧ (tiles.tile 0 3).pend = 0 ∧ (tiles.tile 0 3).ring = false ∧
    (tiles.tile 0 1).ring = false ∧ (tiles.tile 0 1).memb = false ∧ (tiles.tile 0 1).readers = 0 ∧ (tiles.tile 0 1).pend = 0 ∧
    tiles.statusClear 63 ∧ tiles.statusClear 3 := by
  and_intros
  rotate_right 2
  iterate 2 refine of_span ?_; rotate_left
  all_goals (try unfold State.tileTable); (try unfold State.owned); decide +kernel
/-- Those tiles of a population that runs, but 6, which is of one that has finished. -/
def orphaned : State :=
  { tiles with pops := [pop 0], mem := tiles.mem.map fun c => if c.1 = 0x12000 + 64 * 6 + 32 then (c.1, 9) else c }
/-- Tiles, `tlfree` of a ring with a member of a population that has finished and one of a population that runs. -/
theorem hyp_Tiles_ring :
    orphaned.owned 5 ∧ (orphaned.tile 0 5).ring = true ∧ (orphaned.tile 0 5).pend = 0 ∧ (orphaned.tile 0 5).first = 6 ∧ (orphaned.tile 0 5).nm1 = 1 ∧
    (∀ j < 8, 6 ≤ j → (orphaned.tile 0 j).readers = 0 ∧ (orphaned.tile 0 j).ring = false) ∧
    (∀ j < 64, (orphaned.tile 0 j).v = true → j ≠ 6 → orphaned.pop? (BitVec.ofNat 32 (orphaned.tile 0 j).owner) ≠ none) ∧
    (orphaned.tile 0 6).v = true ∧ (orphaned.tile 0 6).pend = 0 ∧ orphaned.pop? (BitVec.ofNat 32 (orphaned.tile 0 6).owner) = none := by
  refine ⟨by unfold State.owned; decide +kernel, ?_⟩
  decide +kernel
/-- Tiles, banks: the status words of those handles, and the bytes of the FILLING one, in banks that are not locked. -/
theorem hyp_Tiles_unlocked :
    (tiled 252 [0x30000, 64, 1, 0] id).unlockedAt (vaultBase 0 + 0x30000 + 64) = .ok () ∧
    (∀ h ∈ [1, 3, 4, 6, (63 : TileH)], tiles.unlockedAt (tiles.statusAt 0 h.val 0) = .ok ()) ∧
    tiles.unlockedRange (tiles.tileBase 0 3) (64 * (tiles.tile 0 3).size + 32) = .ok () ∧ tiles.withheld = [] ∧ tiles.ownEntries = [] := by
  refine ⟨ok_of (by decide +kernel), fun h hh => ok_of ?_, ok_of (by decide +kernel), by decide +kernel⟩
  revert h; decide +kernel

/-- Weight slot 0 of core 0's cluster is held for the thread's population: K = 64, 16 columns, f32. -/
def weighted (ps : List Nat) : State :=
  (tiled 252 ps id).modWeights 0 0 fun k => { k with holder := some (0, 1), k := 64, cols := 16, fmt := 7 }
/-- EngineCommands, matrix commands: source 1, targets 2 (EMPTY), 9 (READY) and 11 (FILLING for `mma`). -/
theorem hyp_EngineCommands_matrix :
    ((weighted []).calm ∧ (weighted []).isSup = false ∧ (weighted []).myCore.matrixQ.length < 16 ∧
      ((weighted []).weights 0 0).holder = some (0, 1) ∧ Memory.wf (weighted []).mem = true) ∧
    ((weighted []).owned 1 ∧ (weighted []).owned 2 ∧ (weighted []).owned 9 ∧ (weighted []).owned 11 ∧ (weighted []).me.prog ≠ .granted) ∧
    ((1 : TileH).val = (weighted []).consumerSlot 0 1 ∧ ((weighted []).tile 0 1).state = .ready ∧
      ((weighted []).shape ((weighted []).tile 0 1).shape .source).toOption.any (fun a =>
        !a.1.rowMaj && decide (1 ≤ a.1.fmt ∧ a.1.fmt ≤ 8) && !isPs a.1.fmt && a.1.len == 64 && a.1.vecs == 1) = true ∧
      ((weighted []).params 252).toOption.any (fun v => v.1 == (0, 0, 0, 0)) = true ∧ declared 7 (0 % 16) 2 = .ok 7 ∧
      1 ≤ 336 / digits 7 ∧ (weighted []).weightsFree 0 1 0 = true ∧ 64 ≤ (weighted []).me.res) ∧
    (((weighted []).shape ((weighted []).tile 0 2).shape .dest).toOption.any (fun o =>
        o.1.rowMaj && o.1.fmt == resultFmt (fmtClass 7) && o.1.vecs == 1 && o.1.len == 16) = true ∧
      fmtClass 7 = fmtClass 7 ∧ (2 : TileH) ≠ 1 ∧ 11 * 1 * digits 7 ≤ (weighted []).me.res ∧
      ((weighted []).tile 0 2).ring = false ∧ ((weighted []).tile 0 2).state = .empty ∧ ((weighted []).tile 0 2).err = 0 ∧
      (weighted []).statusClear 2 ∧
      ((weighted []).tile 0 9).shape = 1 ∧ ((weighted []).tile 0 9).ring = false ∧ ((weighted []).tile 0 9).state = .ready ∧
      ((weighted []).tile 0 9).readers = 0 ∧
      ((weighted []).tile 0 11).shape = 1 ∧ ((weighted []).tile 0 11).state = .filling ∧ ((weighted []).tile 0 11).mxf = true) := by
  refine ⟨⟨calm_of ?_, ?_, ?_, ?_, ?_⟩, ⟨?_, ?_, ?_, ?_, ?_⟩, ⟨?_, ?_, ?_, ?_, rfl, ?_, ?_, ?_⟩, ?_, rfl, ?_, ?_, ?_, ?_, ?_, of_span ?_, ?_, ?_, ?_, ?_, ?_, ?_, ?_⟩
  all_goals (try unfold State.tileTable); (try unfold State.owned); decide +kernel
/-- Copies of 8 bytes between tile 63 or 1 and the vault, with and without a new shape. -/
def copying (w0 w1 w2 : Nat) : State := tiled 252 [w0, w1, w2, 0] id
/-- EngineCommands, copies and `dec`: `tcopy.in` and `tfill` into 63, `tcopy.out` from 1, `tconv` from ring 5 to 63. -/
theorem hyp_EngineCommands_copy :
    ((copying 0x10000 8 0).calm ∧ (copying 0x10000 8 0).isSup = false ∧ Memory.wf (copying 0x10000 8 0).mem = true ∧
      (copying 0x10000 8 0).me.prog ≠ .granted ∧
      ((copying 0x10000 8 0).params 252).toOption.any (fun v => v.1 == (0x10000, 8, 0, 0)) = true) ∧
    ((63 : TileH).val = (copying 0x10000 8 0).producerSlot 0 63 ∧ (copying 0x10000 8 0).owned 63 ∧
      ((copying 0x10000 8 0).tile 0 63).state = .empty ∧ ((copying 0x10000 8 0).tile 0 63).err = 0 ∧
      (copying 0x10000 8 0).statusClear 63 ∧ (copying 0x10000 8 0).myCore.copyQ.length < 8 ∧
      copyLen ((copying 0x10000 8 0).tile 0 63).size 8 = .ok 8 ∧ 0 ≤ (copying 0x10000 8 0).me.res ∧
      ∃ pages, (copying 0x10000 8 0).pages 0x10000 .r 8 = .ok pages ∧ true = true) ∧
    ((copying 0x10000 0 (2 ^ 16 + 3)).shape 3 .dest).toOption.any (fun e =>
      decide (e.1.size ≤ 64 * ((copying 0x10000 0 (2 ^ 16 + 3)).tile 0 63).size)) = true ∧
    ((1 : TileH).val = (copying 0x10000 8 0).consumerSlot 0 1 ∧ (copying 0x10000 8 0).owned 1 ∧
      ((copying 0x10000 8 0).tile 0 1).state = .ready ∧ copyLen ((copying 0x10000 8 0).tile 0 1).size 8 = .ok 8 ∧
      ∃ pages, (copying 0x10000 8 0).pages 0x10000 .w 8 = .ok pages ∧
        (pages.all fun p => !inCtl (p.2 % 2 ^ 43)) = true) ∧
    ((6 : TileH).val = (copying 4 0 0).consumerSlot 0 5 ∧ (copying 4 0 0).owned 5 ∧ ((copying 4 0 0).tile 0 6).state = .ready ∧
      (((copying 4 0 0).shape ((copying 4 0 0).tile 0 6).shape .source).toOption.any fun a =>
        ((copying 4 0 0).shape ((copying 4 0 0).tile 0 63).shape .dest).toOption.any fun o => convOk a.1 o.1) = true) ∧
    ((copying 0x10000 32 0).myCore.decQ.length < 4 ∧ 0x10000 % 32 = 0 ∧ (32 + 63) / 64 ≤ (copying 0x10000 32 0).me.res ∧
      ∃ pages, (copying 0x10000 32 0).pages 0x10000 .r 32 = .ok pages ∧ true = true) := by
  refine ⟨⟨calm_of ?_, ?_, ?_, ?_, ?_⟩, ⟨?_, ?_, ?_, ?_, of_span ?_, ?_, rfl, ?_, ok_and ?_⟩, ?_, ⟨?_, ?_, ?_, rfl, ok_and ?_⟩,
    ⟨?_, ?_, ?_, ?_⟩, ?_, ?_, ?_, ok_and ?_⟩
  all_goals (try unfold State.tileTable); (try unfold State.owned); decide +kernel
/-- The thread waits for queue `q` with a command at its PC: the word of an instruction, beside the parameter words of `s`. -/
def enqueueing (s : State) (q : QueueKind) (w : Nat) : State :=
  let s := s.modSlot here fun t => { t with state := .wait, wait := some (.queue q) }
  { s with mem := Memory.write s.mem (cells 0x10000 (toBytes 4 w)) }
/-- EngineCommands, the second issue of a command that waited: one of each queue, by its own state. -/
theorem hyp_EngineCommands_enqueue :
    (let s := enqueueing (weighted []) .matrix (wordWdrop 0)
     let u := ({ s with cur := here } : State).modMe fun k => { k with state := .ready }
     (s.slotAt here).state = .wait ∧ (s.slotAt here).pending = none ∧ u.fetchAt = .ok (vaultBase 0 + 0x10000) ∧
      decode (BitVec.ofNat 32 (u.num (vaultBase 0 + 0x10000) 4)) = .ok (.wdrop 0) ∧
      (∃ v, exec (.wdrop 0) u = .next v ∧ (v.slotAt here).state ≠ .wait) ∧ u.calm ∧ Memory.wf s.mem = true ∧
      (u.weights 0 0).holder = some (0, (s.slotAt here).popid) ∧ (s.core 0).matrixQ.length < 16) ∧
    (let s := enqueueing (copying 0x10000 8 0) .copy (wordTfill 63 252)
     let u := ({ s with cur := here } : State).modMe fun k => { k with state := .ready }
     (s.slotAt here).state = .wait ∧ (s.slotAt here).pending = none ∧ u.fetchAt = .ok (vaultBase 0 + 0x10000) ∧
      decode (BitVec.ofNat 32 (u.num (vaultBase 0 + 0x10000) 4)) = .ok (.tfill 63 252) ∧ u.calm ∧ Memory.wf s.mem = true ∧ (s.slotAt here).prog ≠ .granted ∧
      (u.params 252).toOption.any (fun v => v.1 == (0x10000, 8, 0, 0)) = true ∧ (63 : TileH).val = u.producerSlot 0 63 ∧ u.owned 63 ∧
      (u.tile 0 63).state = .empty ∧ (u.tile 0 63).err = 0 ∧ u.statusClear 63 ∧ u.unlockedAt (u.statusAt 0 63 0) = .ok () ∧
      copyLen (u.tile 0 63).size 8 = .ok 8 ∧ (s.core 0).copyQ.length < 8) ∧
    (let s := enqueueing (copying 0x10000 32 0) .dec (wordDec 63 252)
     let u := ({ s with cur := here } : State).modMe fun k => { k with state := .ready }
     (s.slotAt here).state = .wait ∧ (s.slotAt here).pending = none ∧ u.fetchAt = .ok (vaultBase 0 + 0x10000) ∧
      decode (BitVec.ofNat 32 (u.num (vaultBase 0 + 0x10000) 4)) = .ok (.dec 63 252) ∧ u.calm ∧
      (u.params 252).toOption.any (fun v => v.1 == (0x10000, 32, 0, 0)) = true ∧ u.owned 63 ∧ (32 + 63) / 64 ≤ (s.slotAt here).res ∧
      (∃ pages, u.pages 0x10000 .r 32 = .ok pages ∧ true = true) ∧ (s.core 0).decQ.length < 4) := by
  refine ⟨⟨?_, ?_, ok_of ?_, ok_of ?_, ⟨_, rfl, ?_⟩, calm_of ?_, ?_, ?_⟩,
    ⟨?_, ?_, ok_of ?_, ok_of ?_, calm_of ?_, ?_, ?_, ?_, ?_, ?_, ?_, ?_, of_span ?_, ok_of ?_, rfl, ?_⟩,
    ⟨?_, ?_, ok_of ?_, ok_of ?_, calm_of ?_, ?_, ?_, ?_, ok_and ?_, ?_⟩⟩
  all_goals (try unfold State.tileTable); (try unfold State.owned); decide +kernel
/-- Core 0's matrix unit has one command. -/
def matrix (w : Work) : State := (weighted []).modCore 0 fun k => { k with matrixQ := [{ by_ := issuer, work := w }] }
/-- The shapes of tiles 1 and 2. -/
def shapeA : Shape := { fmt := 7, rowMaj := false, rd := true, wr := true, valid := true, len := 64, vecs := 1, blocks := 0 }
def shapeO : Shape := { fmt := 7, rowMaj := true, rd := true, wr := true, valid := true, len := 16, vecs := 1, blocks := 0 }
/-- Engines, the matrix unit: a pass to do, a `wload`, a `wdrop`, and a command whose passes are done. -/
theorem hyp_Engines_matrix :
    (∃ r, (matrix (.mma true 11 1 0 7 0 shapeA shapeO 0)).turn 0 0 = some r ∧ r.2.1 = 0) ∧
    ((matrix (.mma true 11 1 0 7 0 shapeA shapeO 0)).still = false ∧ Memory.wf (matrix (.mma true 11 1 0 7 0 shapeA shapeO 0)).mem = true ∧
      (matrix (.mma true 11 1 0 7 0 shapeA shapeO 0)).blocked 0 .matrix ((matrix (.mma true 11 1 0 7 0 shapeA shapeO 0)).tileLocks 0 11 ++ (matrix (.mma true 11 1 0 7 0 shapeA shapeO 0)).tileLocks 0 1) = false ∧
      (matrix (.mma true 11 1 0 7 0 shapeA shapeO 0)).blocked 0 .matrix ((matrix (.mma true 11 1 0 7 0 shapeA shapeO 0)).tileLocks 0 1) = false ∧ (matrix (.mma true 11 1 0 7 0 shapeA shapeO 0)).apart 0 11) ∧
    (∃ r, (matrix (.wload 0 1 shapeA 7)).turn 0 0 = some r ∧ r.2.2.work = .wload 0 1 shapeA 7) ∧
    (∃ r, (matrix (.wdrop 0)).turn 0 0 = some r ∧ r.2.2.work = .wdrop 0) ∧
    ((matrix (.mma true 11 1 0 7 0 shapeA shapeO 1)).passedMember 0 0 = some 0 ∧
      (∀ b ∈ (((matrix (.mma true 11 1 0 7 0 shapeA shapeO 1)).core 0).shadowOf 11).bytes, b.1 < 64 * 4) ∧
      ((((matrix (.mma true 11 1 0 7 0 shapeA shapeO 1)).core 0).shadowOf 11).bytes.map Prod.fst).Nodup ∧
      ((matrix (.mma true 11 1 0 7 0 shapeA shapeO 1)).tile 0 11).pend ≤ 1 ∧
      (matrix (.mma true 11 1 0 7 0 shapeA shapeO 1)).blocked 0 .matrix ((matrix (.mma true 11 1 0 7 0 shapeA shapeO 1)).tileLocks 0 11) = false) := by
  refine ⟨⟨_, rfl, rfl⟩, ⟨?_, ?_, ?_, ?_, of_span ?_⟩, ⟨_, rfl, rfl⟩, ⟨_, rfl, rfl⟩, ?_⟩
  all_goals (try unfold State.table); decide +kernel
/-- Core 0's copy queue has one command, or its decompression queue has. -/
def copier (w : Work) : State := (copying 0x10000 8 0).modCore 0 fun k => { k with copyQ := [{ by_ := issuer, work := w }] }
def unpacker (w : Work) : State := (copying 0x10000 8 0).modCore 0 fun k => { k with decQ := [{ by_ := issuer, work := w }] }
/-- A block of one byte, 0, in two bits, with its checksum, into tile 63. -/
def block (crc : BitVec 32) : DecBlock := { slot := 63, at_ := 0, bits := 2, size := 1, lens := 1, crc, last := true }
/-- The page of local address 0x10000. -/
def onePage : Pages := [(0x10, 0x10000)]
/-- Engines, copies and blocks: a fill, a copy in, a block to start, a block that decodes and one whose checksum is wrong. -/
theorem hyp_Engines_copy :
    ((copier (.fill 63 63 7 8)).still = false ∧ Memory.wf (copier (.fill 63 63 7 8)).mem = true ∧
      (rotation ((copier (.fill 63 63 7 8)).cluster 0 0).copyAt).find? (fun j => ((copier (.fill 63 63 7 8)).core (128 * 0 + 8 * 0 + j.val)).copyQ ≠ []) = some 0 ∧
      (copier (.fill 63 63 7 8)).blocked 0 .copy ((copier (.fill 63 63 7 8)).copyLocks 0 { by_ := issuer, work := .fill 63 63 7 8 }) = false ∧ (copier (.fill 63 63 7 8)).apart 0 63 ∧
      8 ≤ 64 * ((copier (.fill 63 63 7 8)).tile 0 63).size ∧ ((copier (.fill 63 63 7 8)).tile 0 63).pend ≤ 1) ∧
    ((copier (.copyIn 63 63 onePage 0x10000 8)).blocked 0 .copy ((copier (.copyIn 63 63 onePage 0x10000 8)).copyLocks 0 { by_ := issuer, work := .copyIn 63 63 onePage 0x10000 8 }) = false ∧
      ((copier (.copyIn 63 63 onePage 0x10000 8)).modCore 0 fun k => { k with lock := 1 }).blocked 0 .copy (((copier (.copyIn 63 63 onePage 0x10000 8)).modCore 0 fun k => { k with lock := 1 }).copyLocks 0 { by_ := issuer, work := .copyIn 63 63 onePage 0x10000 8 }) = true ∧
      ((copier (.copyIn 63 63 onePage 0x10000 8)).readRange onePage 0x10000 8).1.length ≤ 64 * ((copier (.copyIn 63 63 onePage 0x10000 8)).tile 0 63).size) ∧
    (0 = ((unpacker (.dec 63 onePage 0x10000 64 0 0 0 none none none)).cluster 0 0).decAt ∧
      (unpacker (.dec 63 onePage 0x10000 64 0 0 0 none none none)).decoding 0 0 = none ∧
      (63 : TileH).val = (unpacker (.dec 63 onePage 0x10000 64 0 0 0 none none none)).producerSlot 0 63 ∧
      (unpacker (.dec 63 onePage 0x10000 64 0 0 0 none none none)).blocked 0 .dec ((unpacker (.dec 63 onePage 0x10000 64 0 0 0 none none none)).tileLocks 0 63) = false ∧
      (unpacker (.dec 63 onePage 0x10000 64 0 0 0 none none none)).blocked 0 .dec ((unpacker (.dec 63 onePage 0x10000 64 0 0 0 none none none)).pagesLocks onePage 0x10000 32) = false) ∧
    ((unpacker (.dec 63 onePage 0x10000 64 0 0 0 none none (some (block 0x527D5351)))).decoding 0 0 =
        some (0, { by_ := issuer, work := .dec 63 onePage 0x10000 64 0 0 0 none none (some (block 0x527D5351)) }, block 0x527D5351) ∧
      (unpacker (.dec 63 onePage 0x10000 64 0 0 0 none none (some (block 0x527D5351)))).readBlock onePage 0x10000 64 (block 0x527D5351) = .ok [0]) ∧
    (unpacker (.dec 63 onePage 0x10000 64 0 0 0 none none (some (block 0)))).readBlock onePage 0x10000 64 (block 0) = .error (flagCSUM, 1, true, false) := by
  refine ⟨⟨?_, ?_, ?_, ?_, of_span ?_, ?_, ?_⟩, ⟨?_, ?_, ?_⟩, ⟨?_, ?_, ?_, ?_, ?_⟩, ⟨?_, ok_of ?_⟩, rfl⟩
  all_goals (try unfold State.table); decide +kernel
/-- Engines, a pass: no products, one chunk of each class, the first product of a second chunk, and operands that are finite. -/
theorem hyp_Engines_pass :
    ([] : List Fl).length = ([] : List Fl).length ∧ (List.replicate 16 (Fl.fin false 3 0)).length ≤ 16 ∧ 32 < (List.replicate 33 (Fl.fin true 3 0)).length ∧
    [Fl.fin false 3 (-1), Fl.fin true 5 2].zip [Fl.fin true 7 0, Fl.fin false 1 1] ≠ [] ∧
    ([Fl.fin false 3 (-1), Fl.fin true 5 2].zip [Fl.fin true 7 0, Fl.fin false 1 1]).map (fun p => match p.1, p.2 with
          | Fl.fin na ma ea, Fl.fin nb mb eb => if (-1 : Int) ≤ ea + eb then some ((if na = nb then 1 else -1) * (ma * mb * 2 ^ (ea + eb + 1).toNat : Nat) : Int) else none
          | _, _ => none) = [-21, -80].map some := by decide +kernel
/-- Tile 1 alone, and a copy of its first 8 bytes to 0x10000. -/
def copyOuter : State :=
  let s := (small id).modCore 0 fun k => { k with ttb := 0x12000, copyQ := [{ by_ := issuer, work := .copyOut 1 onePage 0x10000 8 }] }
  { s with mem := image [(0x12040, (tile 0x20000 2 .ready).words)] }
/-- Engines: a copy out of tile 1 into a page of its own, and a conversion of tile 6 into tile 63. -/
theorem hyp_Engines_out :
    (copyOuter.blocked 0 .copy (copyOuter.copyLocks 0 { by_ := issuer, work := .copyOut 1 onePage 0x10000 8 }) = false ∧
      (∀ j < 8, pageAddr onePage (0x10000 + j) / 2 ^ 43 = copyOuter.pkg ∧
        copyOuter.plain (pageAddr onePage (0x10000 + j) % 2 ^ 43) 1 ∧ copyOuter.offTables (pageAddr onePage (0x10000 + j) % 2 ^ 43) 1) ∧
      ∀ j < 8, ∀ l < 8, pageAddr onePage (0x10000 + j) = pageAddr onePage (0x10000 + l) → j = l) ∧
    (((copier (.fill 63 63 7 8)).shape 3 .source).toOption.any fun a => ((copier (.fill 63 63 7 8)).shape 2 .dest).toOption.any fun o =>
      convOk a.1 o.1 && decide (o.1.size ≤ 64 * ((copier (.fill 63 63 7 8)).tile 0 63).size)) = true ∧ (6 : TileH) ≠ 63 := by
  have t : ∀ j < 8, pageAddr onePage (0x10000 + j) % 2 ^ 43 = 0x10000 + j := by decide +kernel
  refine ⟨⟨?_, fun j hj => ⟨?_, plain_of ?_, off_of (fun r hr => tables_clear (s := copyOuter) ?_ ?_) rfl⟩, ?_⟩, ?_⟩
  rotate_left 3
  · obtain ⟨a, b⟩ := hr; rw [t j hj] at a b; omega
  · obtain ⟨a, b⟩ := hr
    obtain rfl : r = 0x10000 + j := by rw [t j hj] at a b; omega
    clear a b
    revert j
    unfold State.table
    decide +kernel
  all_goals (first | (revert j; decide +kernel) | decide +kernel)
/-! ### States that meet the hypotheses: the Mint and landing zones -/

/-- A work record at 0x20000 with the smallest table and stack, its state, destination and result; x1 names the root, x2 the
record. Layout 1 is defined, of no fixed words. -/
def minting (op state dest result : Nat) : State :=
  let s := small fun t => { (t.setX 1 0x30000).setX 2 0x20000 with res := 64 }
  let s := s.modPart 0 fun p => { p with words := p.words.set 2 0x14000 }
  let mem := image [(0x14020, [0, 2 ^ 63]), (0x20000, [op + 2 ^ 8 * state + 2 ^ 32 * 4, 0, dest, 0, 0, 160, result])]
  { s with mem }
/-- MintInstructions, traversals: a record that is DONE, and an IDLE one, for each operation. -/
theorem hyp_MintInstructions_record :
    ((minting 0 2 0x30000 7).calm ∧ (minting 0 2 0x30000 7).isSup = false ∧ ((minting 0 2 0x30000 7).x 2).toNat % 64 = 0 ∧
      (minting 0 2 0x30000 7).translate 0x20000 .rw 64 = .ok 0x20000 ∧ (minting 0 2 0x30000 7).touchable 0x20000 0x20000 64 true = .ok () ∧
      (∃ pages, (minting 0 2 0x30000 7).pages 0x20000 .rw (64 + 16 * 2 ^ 4 + 160) = .ok pages ∧ (pages.all fun p => !inCtl (p.2 % 2 ^ 43)) = true) ∧
      recordOk 0 ((minting 0 2 0x30000 7).num 0x20000 64) = true ∧ bits ((minting 0 2 0x30000 7).num 0x20000 64) 8 8 = 2) ∧
    (∀ op ∈ [0, 1, 2, 3, 4], let dest := if op = 1 then 2 ^ 63 + 2 ^ 43 else 0x30000
      recordOk op ((minting 0 0 dest 0).num 0x20000 64) = true ∧ bits ((minting 0 0 dest 0).num 0x20000 64) 8 8 = 0 ∧
      (minting 0 0 dest 0).destOk op dest = true ∧ (minting 0 0 dest 0).mintRuns 0 < 16 ∧ (minting 0 0 dest 0).me.prog ≠ .granted ∧
      64 ≤ (minting 0 0 dest 0).me.res) := by
  refine ⟨⟨calm_of ?_, ?_, ?_, ok_of ?_, ok_of ?_, ok_and ?_, ?_, ?_⟩, ?_⟩ <;> decide +kernel
/-- A heap whose descriptor is at 0x21000, with 16 bytes left; x1 is the template of an object of one word. -/
def heap : State :=
  let s := small fun t => (t.setX 1 (1 + 2 ^ 20)).setX 2 0x21000
  let s := s.modPart 0 fun p => { p with words := p.words.set 2 0x14000 }
  let mem := image [(0x14020, [0, 2 ^ 63]), (0x21000, [0x40000, 0x40010, 3, 0])]
  { s with mem }
/-- The entry of layout 5 as `lmdef` takes it, at 0x21000. -/
def mapping : State :=
  let s := small fun t => t.setX 1 0x21000
  let s := s.modPart 0 fun p => { p with words := p.words.set 2 0x14000 }
  let mem := image [(0x21000, [1, 2 ^ 63 + 1, 5, 0])]
  { s with mem }
/-- MintInstructions, `oalloc` of the last object that fits, and `lmdef`. -/
theorem hyp_MintInstructions_heap :
    (heap.calm ∧ heap.isSup = false ∧ (1 + 2 ^ 20) / 2 ^ 36 = 0 ∧ (∃ l, heap.headerLayout (1 + 2 ^ 20) (1 + 2 ^ 20) = .ok l ∧ true = true) ∧
      heap.translate (heap.x 2) .rw 32 = .ok 0x21000 ∧ heap.touchable (heap.x 2) 0x21000 32 true = .ok () ∧
      heap.num 0x21000 8 + 8 * (1 + 1) ≤ heap.num 0x21008 8 ∧
      ∃ v, ((heap.touch (heap.x 2)).commitWord 0x21000 0x40010).mintWrite none [(0x40000, 1 + 2 ^ 20 + 2 ^ 48 * heap.num 0x21010 2), (0x40008, 0)] = .ok v ∧ true = true) ∧
    (mapping.calm ∧ Memory.wf mapping.mem = true ∧ mapping.translateHere (mapping.x 1) .r 32 = .ok 0x21000 ∧
      mapping.touchable (mapping.x 1) 0x21000 32 true = .ok () ∧ (∀ o < 32, inCtl (0x21000 + o) = false) ∧
      layoutImageOk (mapping.num 0x21000 32) = true) := by
  refine ⟨⟨calm_of ?_, ?_, ?_, ok_and ?_, ok_of ?_, ok_of ?_, ?_, ok_and ?_⟩, calm_of ?_, ?_, ok_of ?_, ok_of ?_, ?_, ?_⟩ <;> decide +kernel
/-- MintInstructions, `gland`: the last zone, of 64 bytes at 0x50000, free and RECEIVING. -/
theorem hyp_MintInstructions_zone :
    let s := small fun t => (t.setX 1 (BitVec.ofNat 64 (64 + 2 ^ 36 * 7))).setX 2 0x50000
    s.calm ∧ s.isSup = false ∧ ((s.x 1).toNat < 2 ^ 39 ∧ (7 : ZoneId).val = (s.x 1).toNat / 2 ^ 36 ∧ (s.x 1).toNat % 2 ^ 32 = 64) ∧
    (∃ pages, s.pages 0x50000 .w 64 = .ok pages ∧
      (decide (pageAddr pages 0x50000 = 0x50000) && pages.all fun p => decide (p.2 + 0x50000 = p.1 * 4096 + 0x50000)) = true) ∧
    inVault 0x50000 = true ∧ inVault (0x50000 + 64 - 1) = true ∧
    (∀ e ∈ s.cores, ∀ j : ZoneId, e.2.zones[j.val].v = false) ∧ s.mbMode s.myId (bits (s.x 1).toNat 32 4) = 0 ∧
    s.myCore.zones[7].v = false := by
  refine ⟨calm_of ?_, ?_, ?_, ok_and ?_, ?_⟩ <;> decide +kernel
/-- A run of the record at 0x20000, and the thread that waits for it. -/
def run (op : Nat) (st : MintStage) : MintRun :=
  { op, xd := 3, recAddr := 0x20000, pages := [(0x20, 0x20000)], dest := 2 ^ 63 + 2 ^ 43, vtlog := 4, stk := 160, rooted := true, steps := 1024, stage := st }
def running (op : Nat) (st : MintStage) (f : Slot → Slot) : State :=
  (minting op 1 0x30000 64).modSlot here fun t => f { t with state := .wait, wait := some .mintRun, mint := some (run op st) }
/-- MintEvents, runs: each operation at the end of its run, each stage, a boundary trap, a grant, and a refused write. -/
theorem hyp_MintEvents_runs :
    (Memory.wf (running 0 .walking id).mem = true ∧ (running 0 .walking id).still = false ∧
      ((running 0 .walking id).slotAt here).mint = some (run 0 .walking) ∧ ((running 0 .walking id).slotAt here).state = .wait ∧
      (running 0 .walking id).recStalls here (run 0 .walking) = false ∧ (run 0 .walking).recAddr.toNat % 64 = 0 ∧
      (run 0 .walking).rooted = true ∧ (running 0 .walking id).stkTop (run 0 .walking) = 0 ∧
      ((running 0 .walking id).slotAt here).stopping = false ∧ ((running 0 .walking id).slotAt here).pending = none ∧
      ((running 0 .walking id).slotAt here).intr = none ∧ ((running 0 .walking id).core 0).rotLeft.getLsbD 0 = false ∧
      (running 0 .walking id).mintFirst here = true ∧ (running 0 .walking id).flagsOut here = false ∧
      ((running 0 .walking id).slotAt here).released = false ∧ (running 0 .walking id).boot.recovery = false) ∧
    ((running 4 .admitting fun t => { t with intr := some 1 }).slotAt here).intr = some 1 ∧
    (((running 4 .admitting id).slotAt here).intr = none ∧ ((running 4 .admitting id).slotAt here).prog ≠ .granted ∧
      64 ≤ ((running 4 .admitting id).slotAt here).res) ∧
    ((∀ o ∈ (running 1 .header id).out, o.mint ≠ some ((run 1 .header).at_ 0)) ∧ (running 1 .sizes id).recWord (run 1 .sizes) 0x38 = 0 ∧
      ((running 1 .sizes id).commitWord 0x20038 1).recWord (run 1 .sizes) 0x38 ≠ 0) ∧
    (({ running 1 .sizes id with cur := here } : State).mintTargets
      [((run 1 .sizes).dest.toNat + (running 1 .sizes id).recWord (run 1 .sizes) 0x30, 0)]).toOption.isSome = true := by
  decide +kernel
/-- A run that is walking: its record at 0x20000 has a stack of 256 bytes; where `deep`, one frame is on it, whose one pointer word names the
object at 0x30000, a leaf of one data word and of heap 3. -/
def walkRun (op dest : Nat) (deep : Bool) : MintRun :=
  { run op .walking with dest := BitVec.ofNat 64 dest, stk := 256, rooted := deep }
def walk (op dest : Nat) (deep : Bool) (ptr : Nat) : State :=
  let s := (small fun t => { t with res := 64, state := .wait, wait := some .mintRun, mint := some (walkRun op dest deep) }).modPort 0 fun k =>
    { k with up := true, beyond := [1] }
  let s := s.modPart 0 fun p => { p with words := p.words.set 2 0x14000 }
  let mem := image [(0x14040, [0, 2 ^ 63]),
    (0x20000, [op + 2 ^ 8 + 2 ^ 24 + 2 ^ 32 * 4, if deep then 0x38000 else ptr, dest, if deep then 1 else 0, 0,
      256 + if deep then 2 ^ 32 * (if op = 2 then 56 else 48) else 0]),
    (0x201C0, if deep then [0x38000, 0, 1, 0x41000, ptr] ++ (if op = 2 then [0x30040] else []) else []),
    (0x21000, [0x40000, 0x40100, 3, 0]), (0x30000, [2 + 2 ^ 20 + 2 ^ 48 * 3, 77]), (0x30040, [2 + 2 ^ 20 + 2 ^ 48 * 3, 77])]
  { s with mem }
/-- The state that the step starts from, and the pointer word that it examines. -/
def walked (op dest : Nat) (deep : Bool) (ptr : Nat) : State :=
  let s := walk op dest deep ptr
  let m := walkRun op dest deep
  if deep then ({ s with cur := here } : State).popFrames m (s.stkTop m / 32 + 1) else { s with cur := here }
def word0 (deep : Bool) : Option Examined := if deep then some { pos := 0, w2 := 1, idx := 0, out := 0x41000 } else none
/-- The bytes of such a record lie in order. -/
theorem walk_at {op dest : Nat} {deep : Bool} {o : Nat} (h : o < 4096) : (walkRun op dest deep).at_ o = 0x20000 + o := by
  have e : (walkRun op dest deep).at_ o = (SMap.get 0 [(0x20, 0x20000)] ((0x20000 + o) / 4096) + (0x20000 + o) % 4096) % 2 ^ 43 := rfl
  rw [e, show (0x20000 + o) / 4096 = 0x20 by omega, show SMap.get 0 [(0x20, 0x20000)] 0x20 = 0x20000 by decide]
  omega
theorem walk_size {op dest : Nat} {deep : Bool} : (walkRun op dest deep).opArea + (walkRun op dest deep).stk = 576 := rfl
theorem walk_sound (op dest : Nat) (deep : Bool) (ptr : Nat) : (walk op dest deep ptr).soundRecord (walkRun op dest deep) := by
  unfold State.soundRecord
  rw [walk_size]
  refine ⟨fun o ho => ?_, fun a b ha hb h => ?_, fun a j _ ha hj => ?_⟩
  · rw [walk_at (by omega)]
    exact off_tables rfl (by omega) (by omega)
  · rw [walk_at (by omega), walk_at (by omega)] at h; omega
  · rw [walk_at (by omega), walk_at (by omega)]; omega
/-- What lies above the record and below the end of vault 0 is clear of it and of the tile tables. -/
theorem walk_clear {op dest : Nat} {deep : Bool} {ptr q : Nat} (h : 0x21000 ≤ q) (h' : q + 8 ≤ 2 ^ 24) :
    (walk op dest deep ptr).clearOf (walkRun op dest deep) q := by
  refine ⟨off_of (fun r hr => off_tables rfl (by have := hr.1; omega) (by have := hr.2; omega)) rfl, ?_⟩
  rintro r ⟨ha, hb⟩ o ho
  rw [walk_size] at ho
  rw [walk_at (by omega)]
  omega
/-- MintEvents, steps: what every step needs, at the root and at a pointer word, for each operation. -/
theorem hyp_MintEvents_steps :
    ∀ op ∈ [0, 1, 2, 3, 4], ∀ deep ∈ [true, false],
      let dest := if op = 1 then 2 ^ 63 + 2 ^ 43 else 0x21000
      let s := walk op dest deep 0x30000
      let m := walkRun op dest deep
      let v := walked op dest deep 0x30000
      (decide (m.rooted = true ∨ s.visited m ≠ 0) = deep) ∧
      (deep = true → v.topFrame m = some (0, 1) ∧ v.recWord m (m.frames + 32 + m.entry - 8) = 0 ∧ v.recWord m (m.frames + 24) = 0x41000 ∧
        v.recWord m (m.frames + 32) = 0x30000 ∧ m.frames + 32 ≤ m.opArea + m.stk ∧ 32 ≤ v.stkTop m) ∧
      (deep = false → s.recWord m 0x08 = 0x30000) ∧
      (Memory.wf s.mem = true ∧ s.still = false ∧ (s.slotAt here).mint = some m ∧ (s.slotAt here).state = .wait ∧
        ((s.slotAt here).stopping = false ∧ (s.slotAt here).intr = none ∧ (s.slotAt here).pending = none) ∧ s.recStalls here m = false ∧
        (s.core 0).rotLeft.getLsbD 0 = false ∧ s.mintFirst here = true ∧ m.recAddr.toNat % 64 = 0) ∧
      4 ≤ m.vtlog ∧ m.vtlog ≤ 28 ∧ 160 ≤ m.stk ∧ m.stk % 16 = 0 ∧ m.stk < 2 ^ 32 ∧ v.visited m + 1 < 2 ^ 32 ∧ v.stkTop m % 8 = 0 ∧
      v.recWord m 0x20 + 2 ^ 18 < 2 ^ 64 ∧ v.recWord m 0x30 + 2 ^ 20 < 2 ^ 64 := by
  decide +kernel
/-- A new target. -/
theorem new_of {a : Act Target} {n : Nat} (h : (match a with | .ok (.new _ i) => decide (i < n) | _ => false) = true) :
    ∃ o i, a = .ok (.new o i) ∧ i < n := by
  split at h
  · exact ⟨_, _, rfl, of_decide_eq_true h⟩
  · cases h
/-- Where the stores of a step go. -/
def roomy (s : State) (ts : List (Nat × Nat)) : Bool :=
  decide (ts.map fun w => w.1 % 2 ^ 43).Nodup && ts.all fun w => decide (w.1 / 2 ^ 43 = s.pkg) && decide (w.1 % 8 = 0) &&
    (List.range 8).all (fun i => bare s (w.1 % 2 ^ 43 + i)) && decide (0x30000 ≤ w.1 % 2 ^ 43) && decide (w.1 % 2 ^ 43 + 8 ≤ 2 ^ 24)
theorem roomy_apart {op dest : Nat} {deep : Bool} {ptr : Nat} {ts : List (Nat × Nat)} (h : roomy (walk op dest deep ptr) ts = true) :
    (ts.map fun w => w.1 % 2 ^ 43).Nodup ∧ (∀ w ∈ ts, w.1 / 2 ^ 43 = (walk op dest deep ptr).pkg ∧ w.1 % 8 = 0 ∧
      (walk op dest deep ptr).plain (w.1 % 2 ^ 43) 8 ∧ (walk op dest deep ptr).clearOf (walkRun op dest deep) (w.1 % 2 ^ 43)) ∧
    ∀ w ∈ ts, ∀ r, span (w.1 % 2 ^ 43) 8 r → ¬ span (0x21000 % 2 ^ 43) 8 r := by
  simp only [roomy, Bool.and_eq_true, decide_eq_true_eq, List.all_eq_true] at h
  obtain ⟨n, h⟩ := h
  refine ⟨n, fun w hw => ?_, fun w hw r hr hd => ?_⟩
  · obtain ⟨⟨⟨⟨p, a⟩, b⟩, lo⟩, hi⟩ := h w hw
    exact ⟨p, a, plain_of fun i hi => b i (List.mem_range.2 hi), walk_clear (by omega) hi⟩
  · obtain ⟨⟨-, lo⟩, -⟩ := h w hw
    have := hr.1
    have := hd.2
    omega
/-- What a step of `gcopy` on a new object needs: one allocation, and stores that are apart. -/
def Copies (v : State) (m : MintRun) (e : Option Examined) (p : Nat) (fit : List (Nat × Nat) → Bool) : Prop :=
  ∃ o i a heap t0 ts, v.reach m p = .ok (.new o i) ∧ i < m.cap ∧
    v.allocate m.dest.toNat (8 * (1 + o.body.length)) = .ok (some (a, heap, t0)) ∧
    t0.mintTargets ((match e with | some x => [(x.out + 8 * (1 + x.idx), a)] | none => []) ++
      (a, o.hdr % 2 ^ 48 + 2 ^ 48 * heap) :: (o.data.map fun j => (a + 8 + 8 * j, o.body.getD j 0)) ++ o.ptrs.map fun j => (a + 8 + 8 * j, 0)) = .ok ts ∧
    fit ts = true
def copies (v : State) (m : MintRun) (e : Option Examined) (p : Nat) (fit : List (Nat × Nat) → Bool) : Bool :=
  match v.reach m p with
  | .ok (.new o i) => (match v.allocate m.dest.toNat (8 * (1 + o.body.length)) with
    | .ok (some (a, heap, t0)) => (match t0.mintTargets ((match e with | some x => [(x.out + 8 * (1 + x.idx), a)] | none => []) ++
        (a, o.hdr % 2 ^ 48 + 2 ^ 48 * heap) :: (o.data.map fun j => (a + 8 + 8 * j, o.body.getD j 0)) ++ o.ptrs.map fun j => (a + 8 + 8 * j, 0)) with
      | .ok ts => decide (i < m.cap) && fit ts
      | _ => false)
    | _ => false)
  | _ => false
theorem copies_of {v : State} {m : MintRun} {e : Option Examined} {p : Nat} {fit : List (Nat × Nat) → Bool} (h : copies v m e p fit = true) :
    Copies v m e p fit := by
  unfold copies at h
  split at h
  · rename_i o i ho
    split at h
    · rename_i a heap t0 ha
      split at h
      · rename_i ts ht
        rw [Bool.and_eq_true] at h
        exact ⟨o, i, a, heap, t0, ts, ho, of_decide_eq_true h.1, ha, ht, h.2⟩
      · cases h
    · cases h
  · cases h
/-- MintEvents, a step of `gcopy` on a new object. -/
theorem hyp_MintEvents_copy : ∀ deep : Bool,
    let v := walked 0 0x21000 deep 0x30000
    let m := walkRun 0 0x21000 deep
    v.translate m.dest .rw 32 = .ok 0x21000 ∧ (walk 0 0x21000 deep 0x30000).clearOf m (0x21000 % 2 ^ 43) ∧
      Copies v m (word0 deep) 0x30000 (roomy (walk 0 0x21000 deep 0x30000)) := by
  intro deep
  refine ⟨ok_of ?_, walk_clear (by decide) (by decide), copies_of ?_⟩ <;> cases deep <;> decide +kernel
/-- MintEvents, a step of `gcopy` on a nil pointer word, and the parent's. -/
theorem hyp_MintEvents_copyNil :
    (walked 0 0x21000 true 0).reach (walkRun 0 0x21000 true) 0 = .ok .nil ∧
    ∃ ts, (walked 0 0x21000 true 0).mintTargets [(0x41000 + 8, 0)] = .ok ts ∧ roomy (walk 0 0x21000 true 0) ts = true :=
  ⟨rfl, ok_and (by decide +kernel)⟩
/-- What a step of `gsend` on a new object needs: stores to package 1, to which port 0 leads. -/
def Sends (v : State) (m : MintRun) (e : Option Examined) (p : Nat) : Prop :=
  ∃ o i ts, v.reach m p = .ok (.new o i) ∧ i < m.cap ∧
    v.mintTargets ((match e with | some x => [(m.dest.toNat + x.out + 8 * (1 + x.idx), 2 ^ 63 + v.visited m)] | none => []) ++
      (m.dest.toNat + v.recWord m 0x30, o.hdr) :: o.data.map fun j => (m.dest.toNat + v.recWord m 0x30 + 8 + 8 * j, o.body.getD j 0)) = .ok ts ∧
    (ts.all fun w => w.1 / 2 ^ 43 != v.pkg && v.route (w.1 / 2 ^ 43) == some 0) = true
def sends (v : State) (m : MintRun) (e : Option Examined) (p : Nat) : Bool :=
  match v.reach m p with
  | .ok (.new o i) => (match v.mintTargets ((match e with | some x => [(m.dest.toNat + x.out + 8 * (1 + x.idx), 2 ^ 63 + v.visited m)] | none => []) ++
      (m.dest.toNat + v.recWord m 0x30, o.hdr) :: o.data.map fun j => (m.dest.toNat + v.recWord m 0x30 + 8 + 8 * j, o.body.getD j 0)) with
    | .ok ts => decide (i < m.cap) && ts.all fun w => w.1 / 2 ^ 43 != v.pkg && v.route (w.1 / 2 ^ 43) == some 0
    | _ => false)
  | _ => false
theorem sends_of {v : State} {m : MintRun} {e : Option Examined} {p : Nat} (h : sends v m e p = true) : Sends v m e p := by
  unfold sends at h
  split at h
  · rename_i o i ho
    split at h
    · rename_i ts ht
      rw [Bool.and_eq_true] at h
      exact ⟨o, i, ts, ho, of_decide_eq_true h.1, ht, h.2⟩
    · cases h
  · cases h
/-- MintEvents, a step of `gsend` on a new object. -/
theorem hyp_MintEvents_send : ∀ deep : Bool,
    Sends (walked 1 (2 ^ 63 + 2 ^ 43) deep 0x30000) (walkRun 1 (2 ^ 63 + 2 ^ 43) deep) (word0 deep) 0x30000 := by
  intro deep
  refine sends_of ?_
  cases deep <;> decide +kernel
/-- MintEvents, steps of `ghash`: a new object, and a nil pointer word. -/
theorem hyp_MintEvents_hash :
    (∀ deep : Bool, let v := walked 3 0x21000 deep 0x30000
      let m := walkRun 3 0x21000 deep
      ((v.readSha m).fill % 8 = 0 ∧ (v.readSha m).fill < 64 ∧ (v.readSha m).count + 2 ^ 20 < 2 ^ 64) ∧
      ∃ o i, v.reach m 0x30000 = .ok (.new o i) ∧ i < m.cap) ∧
    (walked 3 0x21000 true 0).reach (walkRun 3 0x21000 true) 0 = .ok .nil := by
  refine ⟨fun deep => ⟨?_, new_of ?_⟩, rfl⟩ <;> cases deep <;> decide +kernel
/-- MintEvents, a step of `grel` on a new object of its heap, and on a nil pointer word. -/
theorem hyp_MintEvents_release :
    (∀ deep : Bool, let v := walked 4 0x21000 deep 0x30000
      let m := walkRun 4 0x21000 deep
      (∃ o i, v.reach m 0x30000 = .ok (.new o i) ∧ i < m.cap) ∧ v.translate (m.dest + 24) .rw 8 = .ok 0x21018 ∧
      v.touchable (m.dest + 24) 0x21018 8 true = .ok () ∧
      (∃ ts, v.mintTargets [(0x30000, (2 + 2 ^ 20 + 2 ^ 48 * 3) / 2 ^ 20 * 2 ^ 20)] = .ok ts ∧ roomy (walk 4 0x21000 deep 0x30000) ts = true) ∧
      (walk 4 0x21000 deep 0x30000).clearOf m (0x21018 % 2 ^ 43)) ∧
    (walked 4 0x21000 true 0).reach (walkRun 4 0x21000 true) 0 = .ok .nil := by
  refine ⟨fun deep => ⟨new_of ?_, ok_of ?_, ok_of ?_, ok_and ?_, walk_clear (by decide) (by decide)⟩, rfl⟩ <;> cases deep <;> decide +kernel
/-- MintEvents, a step of `gcmp`: a new pair that agrees, a pair of nil words, a word that is nil on one side. -/
theorem hyp_MintEvents_compare :
    (let v := walked 2 0x21000 true 0x30000
     (match v.pair (walkRun 2 0x21000 true) 0 0 0x30000 0x30040 with | .ok (_, .new _ _ i _) => decide (i < 16) | _ => false) = true) ∧
    (walked 2 0x21000 true 0).pair (walkRun 2 0x21000 true) 0 0 0 0 = .ok ([], .same) ∧
    (walked 2 0x21000 true 0).pair (walkRun 2 0x21000 true) 0 0 0 0x30040 = .ok ([], .differ 4 0 0 0) :=
  ⟨by decide +kernel, rfl, rfl⟩
/-- MintEvents, the end of `ghash`: the digest goes to 0x40000. -/
def hashed : State :=
  let m := walkRun 3 0x40000 true
  let s := walk 3 0x40000 false 0x30000
  s.modSlot here fun t => { t with mint := some m }
/-- Where the stores of the Mint go does not depend on what they store. -/
theorem targets_of {s : State} (w : Nat → Nat) {f g : Nat → Nat} {l : List Nat}
    (h : ∀ k ∈ l, (s.mintTargets [(f k, 0)]).toOption = some [(g k, 0)]) :
    s.mintTargets (l.map fun k => (f k, w k)) = .ok (l.map fun k => (g k, w k)) := by
  let one (vas : List Word) (va v : Nat) : Act (Nat × Nat) := afterAll vas do
    let da ← s.translate (BitVec.ofNat 64 va) .w 8
    s.touchable (BitVec.ofNat 64 va) da 8 false
    check (da / 2 ^ 43 != s.pkg || !inCtl (da % 2 ^ 43)) .prot (BitVec.ofNat 64 va)
    .ok (da, v)
  have each : ∀ k ∈ l, ∀ vas, one vas (f k) (w k) = .ok (g k, w k) := fun k hk vas => by
    have h := ok_of (h k hk)
    simp only [State.mintTargets, List.zipIdx_cons, List.zipIdx_nil, List.mapM_cons, List.mapM_nil, bind, Except.bind, pure, Except.pure] at h
    simp only [one, bind, Except.bind]
    split at h
    · cases h
    · rename_i v hv
      cases h
      iterate 3
        split at hv
        · cases hv
      simp only [afterAll, Except.ok.injEq, Prod.mk.injEq, and_true] at hv ⊢
      exact hv
  suffices go : ∀ (vas : Nat → List Word) (j : List Nat) (n : Nat), (∀ k ∈ j, k ∈ l) →
      ((j.map fun k => (f k, w k)).zipIdx n).mapM (fun e => one (vas e.2) e.1.1 e.1.2) = .ok (j.map fun k => (g k, w k)) from
    go (fun n => ((l.map fun k => (f k, w k)).take n).map fun e : Nat × Nat => BitVec.ofNat 64 e.1) l 0 fun _ => id
  intro vas j
  induction j with
  | nil => exact fun _ _ => rfl
  | cons k j ih =>
    intro n hj
    rw [List.map_cons, List.zipIdx_cons, List.mapM_cons, each k (hj k (List.mem_cons_self ..)) (vas n),
      ih (n + 1) fun i hi => hj i (List.mem_cons_of_mem _ hi)]
    rfl
theorem hyp_MintEvents_hashed :
    let m := walkRun 3 0x40000 true
    (hashed.slotAt here).mint = some m ∧ m.rooted = true ∧ hashed.stkTop m = 0 ∧ hashed.mintFirst here = true ∧
    (∀ w : Nat → Nat, ({ hashed with cur := here } : State).mintTargets ((List.range 4).map fun k => (m.dest.toNat + 8 * k, w k)) =
      .ok ((List.range 4).map fun k => (0x40000 + 8 * k, w k))) ∧ hashed.plain (0x40000 % 2 ^ 43) 32 ∧ 0x40000 / 2 ^ 43 = hashed.pkg ∧
    128 ≤ m.stk := by
  refine ⟨?_, ?_, ?_, ?_, fun w => targets_of w ?_, plain_of ?_, ?_⟩ <;> decide +kernel
/-- Zone 7 of core 0, of 64 bytes at 0x50000. -/
def zone (st : BitVec 2) : Zone :=
  { v := true, base := 0x50000, size := 64, mbx := 0, state := st, src := 5, vbase := 0x50000, owner := 1, part := 0, endAt := 0 }
def landing (st : BitVec 2) (w : Nat) : State :=
  let s := plainState.modCore 0 fun k => { k with zones := k.zones.set 7 (zone st) }
  let mem := image [(0x50000, [w])]
  { s with mem }
/-- A write of the zone's last byte. -/
def arriving (isEnd : Bool) : InWrite :=
  { addr := 0x5003F, data := [9], srcPkg := 5, srcCore := 0, part := 0, dom := none, tag := 0, front := false, isEnd }
/-- MintEvents, zones: an ARMED zone and a RECEIVING one that take a write and an end write; REWRITING zones that pass their
checks and that fail them. -/
theorem hyp_MintEvents_zones :
    (Memory.wf (landing 0 0).mem = true ∧ (∀ e ∈ (landing 0 0).withheld, ¬ (e.1.srcPkg = 5 ∧ e.1.srcCore = 0 ∧ e.1.front = false)) ∧
      0 < (arriving true).data.length ∧ inMbox 0x5003F = false ∧ (landing 0 0).plain 0x5003F 1 ∧ (landing 0 0).inboundOk 0 0x5003F 1 = true ∧
      (landing 0 0).zoneAt 0x5003F 1 = some (0, 7, zone 0) ∧ (landing 1 0).zoneAt 0x5003F 1 = some (0, 7, zone 1) ∧
      (zone 1).src = (arriving false).srcPkg ∧ (zone 0).base ≤ 0x5003F ∧ 0x5003F + 1 ≤ (zone 0).base + (zone 0).size) ∧
    (arriving false).isEnd = false ∧ (arriving true).isEnd = true ∧
    (((landing 2 0).core 0).zones[7].v = true ∧ ((landing 2 0).core 0).zones[7].state = 2 ∧
      ((landing 2 0x4B474E44).zoneCheck (zone 2)).toOption.isSome = true ∧ ((landing 2 0).zoneCheck (zone 2)).toOption.isNone = true) := by
  refine ⟨⟨?_, ?_, ?_, ?_, plain_of ?_, ?_⟩, ?_⟩ <;> decide +kernel

/-! ### States that meet the hypotheses: messages and virtual time -/

/-- A message of 12 lanes of core 0, of a kind, ordered or not. -/
def msg (kind ord mid : Nat) : Msg :=
  { h0 := 7, h1 := BitVec.ofNat 64 (mid + 2 ^ 28 * 12 + 2 ^ 55 * kind + 2 ^ 63 * ord), body := 0, part := 0, dom := some 3, colour := false,
    pop := 1, place := here, ack := .none }
/-- The small state with mailboxes at 0x15000: 0 and 2 FIFO of one message, 1 ORD-OPT, the others undefined; sixteen vector
registers; x5 names the set of 0 and 2; the population is bound to domain 3, and so is die 0. -/
def boxes (mail : SMap (List MboxMsg)) (f : Slot → Slot) : State :=
  let s := small fun t => f { t.setX 5 5 with v := List.replicate 16 0 }
  let s := s.modCore 0 fun k => { k with mbt := 0x15000, mail }
  let s := s.modDie 0 fun d => { d with dom := 3, domV := true }
  let mem := image [(0x15000, [0x80]), (0x15040, [0x81]), (0x15080, [0x80])]
  { s with mem, pops := [{ pop 0 with dom := some 3 }] }
/-- One message, not processed. -/
def one (m : Msg) : List MboxMsg := [{ msg := m, done := none }]
/-- An open event. -/
def event (t : Slot) : Slot := { t with opt := true, evo := true, evid := 1, lvt := 5 }
/-- MessageInstructions: a send outside events, a request, a send in an event, each mode of receiving with and without a message. -/
theorem hyp_MessageInstructions :
    ((boxes [] id).calm ∧ (boxes [] id).isSup = false ∧ (15 : VReg).val < (boxes [] id).me.vcnt ∧ (boxes [] id).noEvent ∧
      bits 0 14 13 = (boxes [] id).pkg ∧ (boxes [] id).sendCheck 0 0 = .ok () ∧ (boxes [] id).sendCheck (2 ^ 32) 7 = .ok () ∧
      bits 0 32 1 = 0 ∧ bits 0 43 21 = (boxes [] id).pkg) ∧
    ((boxes [] event).me.opt = true ∧ (boxes [] event).me.evo = true ∧ (boxes [] event).sendCheck 0 0 = .ok () ∧
      (boxes [] event).hasSpace 0 .escrow 1 = true) ∧
    ((boxes [(0, one (msg 0 0 1))] id).mbMode 0 0 = 0 ∧ (boxes [(0, one (msg 0 0 1))] id).box 0 0 = { msg := msg 0 0 1, done := none } :: []) ∧
    ((boxes [] id).me.opt = false ∧ (boxes [] id).recvCheck false [0] = .ok 0 ∧ (boxes [] id).recvCheck true [0] = .ok 0 ∧
      (boxes [(0, one (msg 0 0 1))] id).select 0 [0] = some (0, 0, msg 0 0 1) ∧ (boxes [] id).select 0 [0] = none ∧
      (boxes [] id).namedSet 5 = .ok 5 ∧ (boxes [] id).recvCheck false (mbSet 5) = .ok 0 ∧ (boxes [] id).recvCheck true (mbSet 5) = .ok 0 ∧
      (boxes [(2, one (msg 0 0 1))] id).select 0 (mbSet 5) = some (2, 0, msg 0 0 1) ∧ (boxes [] id).select 0 (mbSet 5) = none) ∧
    ((boxes [(1, one (msg 0 1 1))] fun t => { t with opt := true }).recvCheck false [1] = .ok 1 ∧
      (boxes [(1, one (msg 0 1 1))] fun t => { t with opt := true }).select 0 [1] = some (1, 0, msg 0 1 1) ∧
      (boxes [] fun t => { t with opt := true }).me.evo = false ∧
      ((boxes [] fun t => { t with opt := true }).modCore 0 fun k => { k with ulogb := 0x40000, ulogl := 0x50000 }).hasSpace 0 .undo 11 = true) ∧
    ((boxes [] id).mbValid 0 15 = false ∧ (boxes [] id).mbValid 0 0 = true ∧ (boxes [] id).mbPart 0 0 = 0) := by
  refine ⟨⟨calm_of ?_, ?_, ?_, ?_, ?_, ok_of ?_, ok_of ?_, ?_, ?_⟩, ⟨?_, ?_, ok_of ?_, ?_⟩, ⟨?_, ?_⟩,
    ⟨?_, ok_of ?_, ok_of ?_, ?_, ?_, ok_of ?_, ok_of ?_, ok_of ?_, ?_, ?_⟩, ⟨ok_of ?_, ?_, ?_, ?_⟩, ?_⟩
  all_goals (try unfold State.noEvent); decide +kernel
/-- The supervisor, and an image of a mailbox at 0x11000. -/
def defining : State :=
  let s := State.reset.modSlot { core := 0, slot := 15 } (·.setX 1 0x11000)
  let mem := image [(0x11000, [0x80, 0x4000])]
  { s with mem }
/-- MessageInstructions, `mbxdef`. -/
theorem hyp_MessageInstructions_define :
    defining.calm ∧ defining.isSup = true ∧ Memory.wf defining.mem = true ∧ (defining.x 1).toNat % 64 = 0 ∧ (defining.x 1).toNat < 2 ^ 24 ∧
    defining.translate (defining.x 1) .r 64 = .ok 0x11000 ∧ defining.touchable (defining.x 1) 0x11000 40 true = .ok () ∧
    defining.box 0 15 = [] ∧
    (let w (i : Nat) := ofBytes (((defining.captured (0x11000 % 2 ^ 43) 40).drop (8 * i)).take 8)
     mbxReserved w = false ∧ defining.boxRoom 0 (bits (w 0) 4 3) (w 1) (64 * (bits (w 0) 8 12 + 1)) = true ∧ w 2 % 2 = 0) := by
  refine ⟨calm_of ?_, ?_, ?_, ?_, ?_, ok_of ?_, ok_of ?_, ?_⟩ <;> decide +kernel
/-- MessageInstructions, `recv` whose checkpoint has no room, of a message at GVT. -/
theorem hyp_MessageInstructions_full :
    let s := (boxes [(1, one (msg 0 1 1))] event).modDie 0 fun d => { d with gvt := 7 }
    s.calm ∧ s.isSup = false ∧ s.recvCheck false [1] = .ok 1 ∧ s.select 0 [1] = some (1, 0, msg 0 1 1) ∧ s.hasSpace 0 .undo 11 = false ∧
    (msg 0 1 1).vrt = s.myDie.gvt.toNat := by
  refine ⟨calm_of ?_, ?_, ok_of ?_, ?_⟩ <;> decide +kernel
/-- … and of one above it, in an open event. -/
theorem hyp_MessageInstructions_space :
    let s := (boxes [(1, one (msg 0 1 1))] event).modDie 0 fun d => { d with gvt := 5 }
    s.calm ∧ s.isSup = false ∧ s.recvCheck false [1] = .ok 1 ∧ s.select 0 [1] = some (1, 0, msg 0 1 1) ∧ s.hasSpace 0 .undo 11 = false ∧
    (msg 0 1 1).vrt ≠ s.myDie.gvt.toNat ∧ s.me.evo = true := by
  refine ⟨calm_of ?_, ?_, ok_of ?_, ?_⟩ <;> decide +kernel

/-- A thread of an unbound population that may own an Escrow entry. -/
def owning (f : Slot → Slot) (g : Nat) (es : List EscEntry) : State :=
  (small fun t => f { t.setX 1 0x10100 with lvt := 5 }).modDie 0 fun d => { d with gvt := BitVec.ofNat 48 g, escrow := es }
/-- An Escrow entry of the thread. -/
def entry (lvt : Nat) : EscEntry :=
  { owner := here, lvt := BitVec.ofNat 48 lvt, score := 0, issue := 0, slot := 0, evid := 1, pop := 1, part := 0, act := .taskDec 0x10000 }
/-- VirtualTimeInstructions: no event, an open event below and above GVT, one that has ended; an Escrow entry or none. -/
theorem hyp_VirtualTimeInstructions :
    ((owning id 0 []).calm ∧ (owning id 0 []).isSup = false ∧ (owning id 0 []).me.opt = false ∧ (owning event 6 []).me.opt = true ∧
      (owning event 6 []).me.evo = true ∧ (owning event 6 []).me.lvt.toNat < (owning event 6 []).myDie.gvt.toNat ∧
      (owning event 5 []).myDie.gvt.toNat ≤ (owning event 5 []).me.lvt.toNat ∧
      (owning (fun t => { t with opt := true, prog := .ended }) 5 []).me.evo = false ∧
      (owning (fun t => { t with opt := true, prog := .ended }) 5 []).me.prog = .ended) ∧
    ((owning (fun t => { t with opt := true }) 5 []).me.evo = false ∧ (owning (fun t => { t with opt := true }) 5 []).me.prog ≠ .ended ∧
      ¬ (owning event 5 []).me.lvt.toNat < (owning event 5 []).myDie.gvt.toNat) ∧
    (¬ (∃ d ∈ (owning id 0 []).dies, ∃ e ∈ d.2.escrow, e.owner = here ∧ e.pop = 1) ∧
      ∃ d ∈ (owning id 0 [entry 0]).dies, ∃ e ∈ d.2.escrow, e.owner = here ∧ e.pop = 1) ∧
    (Memory.wf (owning id 0 []).mem = true ∧ (owning id 0 []).noEvent ∧ (owning id 0 []).translate 0x10100 .w 8 = .ok 0x10100 ∧
      (owning id 0 []).touchable 0x10100 0x10100 8 false = .ok () ∧ 0x10100 / 2 ^ 43 = (owning id 0 []).pkg ∧ (owning id 0 []).plain 0x10100 8 ∧
      (owning id 0 []).myDom = none ∧ (boxes [] id).myDom ≠ none ∧ (boxes [] id).hasSpace 0 .escrow 1 = true ∧
      (boxes [] id).translate 0x10100 .w 8 = .ok 0x10100) := by
  refine ⟨⟨calm_of ?_, ?_⟩, ?_, ?_, ⟨?_, ?_, ok_of ?_, ok_of ?_, ?_, plain_of ?_, ?_, ?_, ?_, ok_of ?_⟩⟩
  all_goals (try unfold State.noEvent); decide +kernel

/-- VirtualTimeInstructions, `escst` in an open event: a word in the state range, and one outside it. -/
def storing : State :=
  (small fun t => { event t with evsb := 0x10000, evsl := 0x20000, range := some (0x10000, 0x20000) }).modCore 0
    fun k => { k with ulogb := 0x50000, ulogl := 0x51000 }
theorem hyp_VirtualTimeInstructions_event :
    (∀ a : Word, a = 0x10100 ∨ a = 0x30000 → storing.translate a .w 8 = .ok a.toNat ∧ storing.touchable a a.toNat 8 false = .ok () ∧
      a.toNat / 2 ^ 43 = storing.pkg ∧ a.toNat % 8 = 0 ∧ storing.plain (a.toNat % 2 ^ 43) 8) ∧
    (storing.me.opt = true ∧ storing.me.evo = true ∧ storing.inRange ⟨0x10100, 0x10100, toBytes 8 0⟩ = true ∧
      storing.inRange ⟨0x30000, 0x30000, toBytes 8 0⟩ = false ∧ storing.hasSpace 0 .escrow 0 = true ∧ storing.hasSpace 0 .undo 1 = true ∧
      storing.hasSpace 0 .undo 0 = true ∧ storing.hasSpace 0 .escrow 1 = true) ∧
    ∀ r, span (vaultBase 0 + logBound storing.myCore.ulogb + storing.myCore.undoNext % storing.myCore.undoRoom * 16) 16 r →
      ¬ span 0x10100 8 r ∧ ¬ storing.tileTable r := by
  refine ⟨fun a h => ?_, by decide +kernel, of_span ?_⟩
  · rcases h with rfl | rfl <;> refine ⟨ok_of ?_, ok_of ?_, ?_, ?_, plain_of ?_⟩ <;> decide +kernel
  · unfold span State.tileTable; decide +kernel

/-- A message travels to a mailbox of core 0. -/
def travelling (mb : Mbox) (m : Msg) (mail : SMap (List MboxMsg)) : State := { boxes mail id with net := [.msg 0 mb false false m] }
/-- A thread with a rollback pending to its first event, whose checkpoint stands in the undo log. -/
def rolling : State :=
  let s := small fun t => { t with state := .stalled, opt := true, evid := 2, pending := some { evid := 1, causes := [3] } }
  s.modCore 0 fun k => { k with mbt := 0x15000, undo := [(0, .check { slot := 0, part := 0, evid := 1 } 3
    { vrt := 3, prio := 3, pr := 3, spkg := 0, score := 0, mid := 0 } (Vector.replicate 16 0) 0x10000 0 1 1),
    (11, .store { slot := 0, part := 0, evid := 1 } 0x10100 9)] }
/-- Die 0 is alone in domain 3. -/
def clearing (f : Die → Die) : State := State.reset.modDie 0 fun d => f { d with dom := 3, domV := true, tsc := 1000 }
/-- VirtualTimeEvents: a message that is refused, accepted and held; an anti-message with its partner; a rollback; a cut, a close
and a publication. -/
theorem hyp_VirtualTimeEvents :
    ((travelling 15 (msg 0 0 1) []).net[0]? = some (.msg 0 15 false false (msg 0 0 1)) ∧ ((travelling 15 (msg 0 0 1) []).core 0).fwdV = false ∧
      (∀ e ∈ (travelling 15 (msg 0 0 1) []).net.take 0, sameChannel 0 15 false (msg 0 0 1) e = false) ∧ (msg 0 0 1).kind ≠ 1 ∧
      (travelling 15 (msg 0 0 1) []).refuses 0 15 (msg 0 0 1) = true ∧ (travelling 0 (msg 0 0 1) []).refuses 0 0 (msg 0 0 1) = false ∧
      ((travelling 0 (msg 0 0 1) []).box 0 0).length < (travelling 0 (msg 0 0 1) []).mbCap 0 0 ∧
      (travelling 0 (msg 0 0 2) [(0, one (msg 0 0 1))]).refuses 0 0 (msg 0 0 2) = false ∧
      (travelling 0 (msg 0 0 2) [(0, one (msg 0 0 1))]).mbCap 0 0 ≤ ((travelling 0 (msg 0 0 2) [(0, one (msg 0 0 1))]).box 0 0).length) ∧
    ((travelling 15 (msg 1 1 1) []).refuses 0 15 (msg 1 1 1) = true ∧ (msg 1 1 1).ack = .none ∧
      (travelling 1 (msg 1 1 1) [(1, one (msg 0 1 1))]).refuses 0 1 (msg 1 1 1) = false) ∧
    ((msg 1 1 1).kind = 1 ∧ ((travelling 1 (msg 1 1 1) [(1, one (msg 0 1 1))]).box 0 1).find? (fun e => (msg 1 1 1).partner e.msg) =
      some { msg := msg 0 1 1, done := none }) ∧
    ((rolling.slotAt here).canRollBack = true ∧ rolling.stopLocked here = false ∧ (rolling.slotAt here).pending = some { evid := 1, causes := [3] } ∧
      (rolling.slotAt here).stopping = false ∧ (rolling.slotAt here).mint = none ∧ Memory.wf rolling.mem = true ∧
      ((rolling.core 0).undo.filter fun u => u.2.event.slot == 0 && u.2.event.part == 0 && decide (1 ≤ u.2.event.evid.toNat)) =
        [(rolling.core 0).undo.headD (0, .store { slot := 0, part := 0, evid := 1 } 0 0)] ++ (11, .store { slot := 0, part := 0, evid := 1 } 0x10100 9) :: [] ∧
      (rolling.slotAt here).antiOut = 0 ∧ (rolling.core 0).sent = [] ∧
      ((rolling.core 0).undo.find? fun u => u.2.event.slot == 0 && u.2.event.part == 0 && decide (1 ≤ u.2.event.evid.toNat) && u.2.units == 11).isSome = true) ∧
    ((clearing id).still = false ∧ (clearing id).domDies 3 ≠ [] ∧ (∀ d ∈ (clearing id).domDies 3, ((clearing id).die d).open_ = false) ∧
      ((clearing id).die 0).tsc.toNat % ((clearing id).domDies 3).foldl (fun m d => min m ((clearing id).die d).gvtr.toNat) (2 ^ 32) = 0 ∧
      ((clearing id).die 0).closedAt.toNat < ((clearing id).die 0).tsc.toNat ∧
      (∀ d ∈ (clearing fun d => { d with open_ := true }).domDies 3, ((clearing fun d => { d with open_ := true }).die d).open_ = true) ∧
      ofColour ((clearing id).die 0).sent true + ofColour ((clearing id).domRound 3).sent true + 0 =
        ofColour ((clearing id).die 0).rcvd true + ofColour ((clearing id).domRound 3).rcvd true + 0 ∧
      ((clearing fun d => { d with toGvt := [2 ^ 48 - 1, 5] }).die 0).toGvt = [2 ^ 48 - 1, 5]) := by decide +kernel
/-- VirtualTimeEvents, a rollback: the restored word lies in no mailbox's word 5 and in no earlier record. -/
theorem hyp_VirtualTimeEvents_word : ∀ r, span (0x10100 % 2 ^ 43) 8 r → ∀ b, ¬ span (rolling.mboxAt 0 b 5) 8 r := by
  rintro r ⟨-, h⟩ b ⟨k, -⟩
  unfold State.mboxAt at k
  rw [show (rolling.core 0).mbt.toNat = 0x15000 from rfl] at k
  omega
/-- VirtualTimeEvents, a publication that releases one Escrow entry: a store of the first two bytes of a line, and a `send`. -/
def releasing (a : EscAct) : State := clearing fun d => { d with toGvt := [7], escrow := [{ entry 3 with act := a }, entry 9] }
theorem hyp_VirtualTimeEvents_release :
    (∀ a ∈ [EscAct.store 0x30000 3 0x1234, EscAct.send 0 (msg 0 0 1)], (releasing a).still = false ∧ ((releasing a).die 0).toGvt = [7] ∧
      ((releasing a).die 0).escrow.filter (fun e => e.lvt.ult 7) = [{ entry 3 with act := a }]) ∧
    0x30000 % 64 = 0 ∧ 0x30000 < 2 ^ 56 ∧ 0x30000 / 2 ^ 43 = (releasing (.store 0x30000 3 0x1234)).pkg ∧
    (releasing (.store 0x30000 3 0x1234)).plain (0x30000 % 2 ^ 43) 64 ∧ (releasing (.store 0x30000 3 0x1234)).offTables (0x30000 % 2 ^ 43) 64 ∧ Memory.wf (releasing (.store 0x30000 3 0x1234)).mem = true ∧
    (∀ k ∈ (releasing (.store 0x30000 3 0x1234)).cores, k.2.mail = [] ∧ ∀ i : SlotId, k.2.slots[i.val].state ≠ .held) ∧
    bits (0 : Word).toNat 14 13 = (releasing (.send 0 (msg 0 0 1))).pkg := by
  refine ⟨?_, ?_, ?_, ?_, plain_of ?_, off_of (fun r hr => off_tables rfl (by have := hr.1; omega) (by have := hr.2; omega)) rfl, ?_⟩
  all_goals decide +kernel
/-- VirtualTimeReads. -/
theorem hyp_VirtualTimeReads : plainState.calm := ⟨rfl, rfl, rfl⟩

/-! ### States that meet the hypotheses: tasks, barriers, tickets -/

/-- The small state with words of memory, the thread's population on core 0, a free slot of the partition, 1, there, and a finished
thread of it in slot 3 of cores 0 and 1; x1 = 0x30000, x2 = `n`. -/
def tasks (n : Nat) (ws : List (Nat × List Nat)) : State :=
  let done (t : Slot) : Slot := { t with state := .done, popid := 1 }
  let s := ((small fun t => (t.setX 1 0x30000).setX 2 (BitVec.ofNat 64 n)).modSlot { core := 0, slot := 3 } done).modSlot { core := 1, slot := 3 } done
  let mem := image ws
  let s := s.modCore 0 fun k => { k with partmap := 0x80 }
  { s with mem, pops := [pop 0], parts := [(0, { Partition.reset with banks := [(0, 0xFFFF), (1, 0xFFFF)] })] }
/-- TasksAndThreads, the instructions: a count of 0 and of 1; a slot for the new thread, and none; a `migr` to the own core, to
core 1 with and without a slot. -/
theorem hyp_TasksAndThreads :
    ((tasks 0 []).calm ∧ (tasks 0 []).isSup = false ∧ (tasks 0 []).noEvent ∧ Memory.wf (tasks 0 []).mem = true ∧
      (tasks 0 []).opB (.reg 2) = .ok 0 ∧ (tasks 1 []).opB (.reg 2) = .ok 1 ∧ (tasks 0 []).translate 0x30000 .rw 64 = .ok 0x30000 ∧
      0x30000 / 2 ^ 43 = (tasks 0 []).pkg ∧ inVault 0x30000 = true ∧ (tasks 0 []).touchable 0x30000 0x30000 40 true = .ok () ∧
      (tasks 0 []).num 0x30000 8 % 4 = 0 ∧ (tasks 0 []).taskState 0x30000 ≠ 1 ∧
      (tasks 0 []).taskState 0x30000 ≠ 2 ∧ ((tasks 0 []).core 0).runList.length < 257 ∧ (tasks 0 []).translate 0x30000 .w 64 = .ok 0x30000) ∧
    ((tasks 0 []).myPop = some (pop 0) ∧ (tasks 0 []).freeSlot 0 (pop 0) false = some 1 ∧ (1 : SlotId) ≠ here.slot ∧
      (member 0 id).freeSlot 0 (pop 0) false = none ∧ (member 0 id).myPop = some (pop 0)) ∧
    ((tasks 0 []).translate 0x30000 .r 1 = .ok 0x30000 ∧ (tasks 0 []).me.vcnt = 0 ∧ (tasks 0 []).me.opt = false ∧ (tasks 0 []).me.prot = false ∧
      vaultCore 0x30000 = 0 ∧ (tasks 0 []).translate (2 ^ 63 + 0x1010000) .r 1 = .ok 0x1010000 ∧ inVault (0x1010000 % 2 ^ 43) = true ∧
      vaultCore (0x1010000 % 2 ^ 43) = 1 ∧ (tasks 0 []).freeSlot 1 (pop 0) = some 3 ∧
      (let s := (tasks 0 []).modSlot { core := 1, slot := 3 } fun t => { t with reserved := true }
       s.freeSlot 1 (pop 0) = none ∧ (s.translate (2 ^ 63 + 0x1010000) .r 1).toOption = some 0x1010000)) := by
  refine ⟨⟨calm_of ?_, ?_, ?_, ?_, ok_of ?_, ok_of ?_, ok_of ?_, ?_, ?_, ok_of ?_, ?_, ?_, ?_, ?_, ok_of ?_⟩, ?_, ok_of ?_, ?_, ?_, ?_, ?_, ok_of ?_, ?_⟩
  all_goals (try unfold State.noEvent); decide +kernel
/-- TasksAndThreads, `taskdec` and `tasknew` in an open event. -/
theorem hyp_TasksAndThreads_event :
    let s := (tasks 0 []).modMe event
    s.calm ∧ s.isSup = false ∧ s.me.opt = true ∧ s.me.evo = true ∧ s.hasSpace 0 .escrow 1 = true ∧ s.opB (.reg 2) = .ok 0 ∧
    s.translate (s.x 1) .w 64 = .ok 0x30000 ∧ s.translate (s.x 1) .rw 64 = .ok 0x30000 ∧ s.touchable 0x30000 0x30000 40 true = .ok () ∧
    s.taskState 0x30000 ≠ 1 ∧ s.taskState 0x30000 ≠ 2 := by
  refine ⟨calm_of ?_, ?_, ?_, ?_, ?_, ok_of ?_, ok_of ?_, ok_of ?_, ok_of ?_, ?_, ?_⟩ <;> decide +kernel
/-- TasksAndThreads, the events: a decrement of 2, of 1, and of a record that is not armed, and one that meets a locked bank; a task to start; a stage with a message;
a thread that arrives at core 1. -/
theorem hyp_TasksAndThreads_events :
    (∃ e, ({ tasks 0 [] with net := [.taskDec 0x30000 issuer []] } : State).net[0]? = some e) ∧
    ((tasks 0 [(0x30018, [2 + 2 ^ 32])]).taskState 0x30000 = 1 ∧ (tasks 0 [(0x30018, [2 + 2 ^ 32])]).num 0x30018 8 % 2 ^ 32 ≠ 1 ∧
      (tasks 0 [(0x30018, [1 + 2 ^ 32])]).taskState 0x30000 = 1 ∧ (tasks 0 [(0x30018, [1 + 2 ^ 32])]).num 0x30018 8 % 2 ^ 32 = 1 ∧
      (tasks 0 []).taskState 0x30000 ≠ 1) ∧
    (((tasks 0 []).modCore 0 fun k => { k with lock := 1 }).lockedAt 0x30000 = some (0, 0) ∧ freedFrom [] (0, 0) = false ∧
      freedFrom [{ core := 0, bank := 0, freed := true }] (0, 0) = true ∧ (tasks 0 []).lockedAt 0x30000 = none) ∧
    (tasks 0 [(0x30020, [1])]).pop? (BitVec.ofNat 32 ((tasks 0 [(0x30020, [1])]).num (0x30000 + 0x20) 4)) = some (pop 0) ∧
    (let s := tasks 0 [(16, [1 + 2 * 1 + 2 ^ 32, 0x10000, 0, 1])]
     bits (s.mboxWord 0 0 2) 0 1 = 1 ∧ bits (s.mboxWord 0 0 2) 5 12 < bits (s.mboxWord 0 0 5) 0 13 ∧
      bits (s.mboxWord 0 0 5) 32 4 < bits (s.mboxWord 0 0 2) 1 4 ∧ bits (s.mboxWord 0 0 4) 63 1 = 0 ∧
      s.pop? (BitVec.ofNat 32 (s.mboxWord 0 0 2 / 2 ^ 32)) = some (pop 0) ∧ s.freeSlot 0 (pop 0) = some 1) ∧
    (thread.stopping = false ∧ thread.intr = none ∧ here ≠ { core := 1, slot := 3 } ∧ thread.seen.toNat ≤ (plainState.die 0).tsc.toNat ∧
      (small fun t => { t with state := .transit }).othersStay here 1 = false ∧ ((small fun t => { t with state := .transit }).slotAt here).popid = thread.popid ∧
      ((small fun t => { t with state := .transit }).slotAt here).state = .transit) := by
  refine ⟨⟨_, rfl⟩, ?_⟩; decide +kernel

/-- The small state with a barrier table at 0x16000, whose entry 1 has `n` threads of which `arr` have arrived; x1 = `h`. -/
def barrier (n arr h : Nat) (f : Slot → Slot) : State :=
  let s := small fun t => f (t.setX 1 (BitVec.ofNat 64 h))
  let s := s.modPart 0 fun p => { p with words := p.words.set 3 0x16000 }
  let mem := image [(0x16010, [1 + n * 2 ^ 32 + 2 ^ 63, arr + 2 ^ 16 * 7])]
  { s with mem }
/-- Barriers: the least and the greatest count, what lies beside them, an arrival that is the last and one that is not, a
round that is over and one that is not. -/
theorem hyp_Barriers :
    ((barrier 2 0 1 id).calm ∧ (barrier 2 0 1 id).isSup = false ∧ Memory.wf (barrier 2 0 1 id).mem = true ∧ (barrier 2 0 1 id).me.evo = false ∧
      (barrier 2 0 1 fun t => { t with evo := true }).me.evo = true ∧ (barrier 2 0 1 id).barValid 0 1 = false ∧
      ((barrier 2 0 1 id).x 1).toNat = 1 ∧ ((barrier 2 0 15360 id).x 1).toNat = 15360 ∧
      (List.range 4096).find? (fun j => bits ((barrier 2 0 1 id).barWord 0 j 0) 63 1 == 0) = some 0 ∧
      ((barrier 2 0 0 id).x 1).toNat = 0 ∧ 15360 < ((barrier 2 0 15361 id).x 1).toNat) ∧
    ((barrier 2 0 4097 id).barValid 0 4097 = true ∧ (barrier 2 0 4097 id).travelling here 2 = false ∧
      (barrier 2 1 4097 id).barWord 0 1 1 % 2 ^ 16 + 1 = bits ((barrier 2 1 4097 id).barWord 0 1 0) 32 16 ∧
      (barrier 2 0 4097 id).barWord 0 1 1 % 2 ^ 16 + 1 ≠ bits ((barrier 2 0 4097 id).barWord 0 1 0) 32 16 ∧
      (barrier 2 0 4097 id).me.prog = .none ∧ (barrier 2 0 4097 fun t => { t with prog := .joined 6 }).me.prog = .joined 6 ∧
      (barrier 2 0 4097 id).barWord 0 1 1 / 2 ^ 16 % 2 ^ 16 = 7) ∧
    (barrier 2 0 4097 id).barWord 0 1 1 % 2 ^ 16 + 1 < 2 ^ 16 ∧
    (∃ v, (barrier 2 0 4097 fun t => t.setX 2 7).opB (.reg 2) = .ok v ∧ (v.toNat % 2 ^ 16 == 7) = true) := by
  refine ⟨⟨calm_of ?_, ?_, ?_, ?_, ?_, ?_, ?_, ?_, ?_⟩, ?_, ?_, ok_and ?_⟩ <;> decide +kernel

/-- The small state with a ticket table at 0x17000, whose entry 0 has NEXT, CALL and a list of one word at 0x18000; x1 = 0 names
it, x2 a ticket word at 0x10200; `word` stands there, and the list names it. -/
def ticket (next call word : Nat) : State :=
  let s := small fun t => (t.setX 1 0).setX 2 0x10200
  let s := s.modPart 0 fun p => { p with words := p.words.set 4 0x17000 }
  let mem := image [(0x10200, [word]), (0x17000, [next + 2 ^ 32 * call, 0x18000 + 2 ^ 63]), (0x18000, [0x10200])]
  { s with mem }
/-- Tickets: a word that is called and one that is not; a number that CALL has passed and one that it has not; a call of a number
that waits, and of none. -/
theorem hyp_Tickets :
    ((ticket 0 0 0).calm ∧ (ticket 0 0 0).isSup = false ∧ Memory.wf (ticket 0 0 0).mem = true ∧ (ticket 0 0 0).me.evo = false ∧
      ((ticket 0 0 0).modMe fun t => { t with evo := true }).me.evo = true ∧ (bits 0 16 13 = (ticket 0 0 0).pkg ∧ bits 0 12 4 = 0) ∧
      (ticket 0 0 0).boot.recovery = false ∧
      (ticket 0 0 0).outstandingAt here = false ∧ (ticket 0 0 0).translate 0x10200 .r 8 = .ok 0x10200 ∧
      (ticket 0 0 0).touchable 0x10200 0x10200 8 true = .ok () ∧ inCtl 0x10200 = false ∧
      ((ticket 0 0 (2 ^ 63)).word 0x10200).getLsbD 63 = true ∧ ((ticket 0 0 0).word 0x10200).getLsbD 63 = false ∧ (ticket 0 0 0).tickets = []) ∧
    ((ticket 0 0 0).ticketAt 0 0 = some 0x17000 ∧ bits ((ticket 0 0 0).num 0x17008 8) 63 1 = 1 ∧ (ticket 0 0 0).translate 0x10200 .w 8 = .ok 0x10200 ∧
      (0 + 2 ^ 32 - 0) % 2 ^ 32 ≠ 2 ^ Nat.min 16 (bits ((ticket 0 0 0).num 0x17008 8) 0 5) ∧ (ticket 0 0 0).plain 0x10200 8 ∧
      (∀ r, span 0x10200 8 r → ¬ span 0x17000 16 r) ∧ (∀ r, span 0x18000 8 r → ¬ span 0x17000 16 r ∧ ¬ span 0x10200 8 r) ∧
      (bits ((ticket 0 0 0).num 0x17008 8) 12 44 * 2 ^ 12 / 2 ^ 43 = (ticket 0 0 0).pkg ∧ (ticket 0 0 0).plain 0x18000 8) ∧
      (∀ r, span 0x17000 16 r → ∀ c, ¬ (ticket 0 0 0).table c r) ∧ (∀ r, span 0x18000 8 r → ∀ c, ¬ (ticket 0 0 0).table c r) ∧
      (ticket 0 0 0).offTables 0x10200 8) ∧
    ((ticket 0 1 0).num 0x17000 4 < (ticket 0 1 0).num 0x17004 4 ∧
      (0 + 2 ^ 32 - 1) % 2 ^ 32 ≠ 2 ^ Nat.min 16 (bits ((ticket 0 1 0).num 0x17008 8) 0 5)) ∧
    (∃ v, (small fun t => t.setX 3 65535).opB (.reg 3) = .ok v ∧ (v.toNat == 65535) = true) ∧
    ((ticket 1 0 0).num 0x17004 4 + 1 = (ticket 1 0 0).num 0x17000 4 ∧ (ticket 1 0 0).num 0x17004 4 + 65535 < 2 ^ 32 ∧
      (ticket 1 0 0).num 0x18000 8 / 2 ^ 43 = (ticket 1 0 0).pkg) := by
  refine ⟨⟨calm_of ?_, ?_, ?_, ?_, ?_, ?_, ?_, ?_, ok_of ?_, ok_of ?_, ?_⟩, ⟨?_, ?_, ok_of ?_, ?_, plain_of ?_, of_span ?_, of_span ?_, ⟨?_, plain_of ?_⟩,
    fun r hr => off_tables rfl (by have := hr.1; omega) (by have := hr.2; omega),
    fun r hr => off_tables rfl (by have := hr.1; omega) (by have := hr.2; omega),
    off_of (fun r hr => off_tables rfl (by have := hr.1; omega) (by have := hr.2; omega)) rfl⟩, ?_, ok_and ?_, ?_⟩
  all_goals (try unfold span); decide +kernel


/-! ### States that meet the hypotheses: shapes, protected contexts, the link -/

/-- Slot 15 of core 0 with x1 = `a` and x2 = `b`, words of memory, and `f`; every bank of core 0's vault belongs to partition 0. -/
def sup (a b : Nat) (ws : List (Nat × List Nat)) (f : State → State) : State :=
  let s := State.reset.modSlot { core := 0, slot := 15 } fun t => (t.setX 1 (BitVec.ofNat 64 a)).setX 2 (BitVec.ofNat 64 b)
  let mem := image ws
  f { s with mem, parts := [(0, { Partition.reset with banks := [(0, 0xFFFF)] })] }
/-- A partition with a shape table of 16 records at 0x18000, and an image that is valid or cleared. -/
def shapes (valid : Nat) : State :=
  sup 3 0x20000 [(0x20000, [7 + 16 + 2 ^ 8 + valid * 2 ^ 63, 16 + 2 ^ 32, 0, 0])] fun s =>
    s.modPart 0 fun p => { p with words := ((p.words.set 0 (2 ^ 63)).set 1 0x18000).set 6 16 }
/-- Context key 5, of partition 0 and count 7. -/
def key5 (live : Bool) : State → State := fun s => s.modKey 5 fun _ => { key := 0x0123456789, sc := 7, part := 0, v := true, live }
/-- Slot 2 of core 0 parked, changed by `f`. -/
def parked (f : Slot → Slot) : State → State := fun s => s.modSlot { core := 0, slot := 2 } fun t => f { t with state := .parked }
/-- ContextInstructions: shape images, keys to define, show, free and bind, a thread to save. -/
theorem hyp_ContextInstructions :
    (∀ v ∈ [0, 1], (shapes v).calm ∧ (shapes v).isSup = true ∧ Memory.wf (shapes v).mem = true ∧ 0x20000 % 32 = 0 ∧
      bits ((shapes v).partWord 0 0) 63 1 = 1 ∧ 3 < (shapes v).partWord 0 6 ∧ (shapes v).translateHere 0x20000 .r 32 = .ok 0x20000 ∧
      (shapes v).touchable 0x20000 ((shapes v).pkg * 2 ^ 43 + 0x20000) 32 true = .ok () ∧
      (bits (ofBytes ((shapes v).bytes 0x20000 32)) 63 1 = 0 ∨ shapeImageOk (ofBytes ((shapes v).bytes 0x20000 32)) = true)) ∧
    ((List.range 1024).find? (fun i => !((sup 0 7 [] (key5 false)).keyEntry i).v) = some 0 ∧
      ((sup 0 5 [] (key5 false)).keyEntry 5).v = true ∧ ((sup 0 5 [] (key5 false)).keyEntry 5).live = false) ∧
    (let s := sup 2 0x20000 [(0x20000, [5 + 2 ^ 32 * 64, 0x30000])] (parked id ∘ key5 false)
     s.translate 0x20000 .r 8 = .ok 0x20000 ∧ s.load 0x20000 0x20000 8 0 = .ok (5 + 2 ^ 32 * 64) ∧ s.translate (0x20000 + 8) .r 8 = .ok 0x20008 ∧
      s.load (0x20000 + 8) 0x20008 8 1 = .ok 0x30000 ∧ regionOk 0x30000 64 = true ∧ s.regionIn s.myId 0 0x30000 64 = true ∧
      (s.slotAt { core := 0, slot := 2 }).state = .parked ∧ (s.slotAt { core := 0, slot := 2 }).prot = false ∧
      (s.slotAt { core := 0, slot := 2 }).part = 0) ∧
    (let b : Binding := { key := 5, base := 0x30000, len := 64 }
     let s := sup 2 0x20000 [] (parked (fun t => { t with prot := true, binding := some b }) ∘ key5 true)
     (s.slotAt { core := 0, slot := 2 }).binding = some b ∧ (s.slotAt { core := 0, slot := 2 }).vcnt = 0) := by
  refine ⟨?_, ?_, ⟨ok_of ?_, ok_of ?_, ok_of ?_, ok_of ?_, ?_, ?_, ?_, ?_, ?_⟩, ?_⟩
  · intro v hv
    rcases List.mem_cons.1 hv with rfl | hv
    · refine ⟨calm_of ?_, ?_, ?_, ?_, ?_, ?_, ok_of ?_, ok_of ?_, ?_⟩ <;> decide +kernel
    · obtain rfl := List.mem_singleton.1 hv
      refine ⟨calm_of ?_, ?_, ?_, ?_, ?_, ?_, ok_of ?_, ok_of ?_, ?_⟩ <;> decide +kernel
  all_goals decide +kernel
/-- A map of `n` equal entries. -/
theorem get_all {α : Type} (d e : α) {n j : Nat} (a : Nat) (h : a ≤ j) (h' : j < a + n) :
    SMap.get d ((List.range' a n).map fun i => (i, e)) j = e := by
  induction n generalizing a with
  | zero => omega
  | succ n ih =>
    rw [List.range'_succ, List.map_cons, SMap.get]
    split
    · rfl
    · exact ih (a + 1) (by omega) (by omega)
/-- ContextInstructions, `ctxkey.new` where every key is in use. -/
theorem hyp_ContextInstructions_keys :
    let s := sup 0 7 [] id
    let keys := (List.range' 0 1024).map fun i => (i, { KeyEntry.reset with v := true })
    ∀ i < 1024, (({ s with keys } : State).keyEntry i).v = true := fun i h =>
  congrArg KeyEntry.v (get_all KeyEntry.reset { KeyEntry.reset with v := true } 0 (Nat.zero_le i) (by omega))
/-- Slot 2 of core 0 holds a protected thread, parked, with a region of 64 bytes at 0x30000; the image goes to `to_`. -/
def saving (to_ : Nat) (f : State → State) : State :=
  sup 2 to_ [] (f ∘ parked (fun t => { t with prot := true, binding := some { key := 5, base := 0x30000, len := 64 } }) ∘ key5 true)
/-- Bytes of vault 0, above its system area, where no map stands. -/
theorem plain_vault {s : State} {q n : Nat} (lo : 0x10000 ≤ q) (hi : q + n ≤ 2 ^ 24)
    (none_ : s.statusWords 0 ++ s.recordTables ++ s.partTables = []) : s.plain q n := fun r hr => by
  obtain ⟨ha, hb⟩ := hr
  have c : vaultCore r = 0 := by unfold vaultCore; omega
  have v : inVault r = true := by unfold inVault; exact decide_eq_true (by omega)
  have hc : inCtl r = false := by unfold inCtl Config.ctlBase; exact decide_eq_false (by omega)
  have hd : inRed r = false := by unfold inRed Config.redBase; exact decide_eq_false (by omega)
  have t : s.tables r = [] := by
    rw [← none_]
    unfold State.tables State.vaultTables
    rw [v, c, show r % 2 ^ 24 = r by omega]
    simp [show 0x10000 ≤ r by omega]
  refine ⟨hc, hd, fun b => ?_⟩
  unfold State.portBit State.portByte
  rw [hd, t]
  rfl
/-- ContextInstructions, `ctxsave`: a whole image on this package, one on package 1, an instruction that waits for flags, and one whose
image is whole already. -/
theorem hyp_ContextInstructions_save :
    (let s := saving 0x20000 id
     let u := s.publishFor { core := 0, slot := 2 } 0x30000 64
     s.calm ∧ s.isSup = true ∧ s.withheld = [] ∧ s.me.prog ≠ .sealed ∧ (s.x 2).toNat % 64 = 0 ∧ s.flagsOut { core := 0, slot := 2 } = false ∧
      s.pages 0x20000 .w 400 = .ok [(32, 0x20000)] ∧ ((s.touchImage [(32, 0x20000)] 0x20000 400 false).toOption == some ()) = true ∧
      u.touchable 0x30000 (s.pkg * 2 ^ 43 + 0x30000) 64 true = .ok () ∧ rangePieces [(32, 0x20000)] 0x20000 400 = [(0x20000, 400)] ∧
      u.imageRoom [(32, 0x20000)] 0x20000 400 ∧ ∀ r, span 0x20000 400 r → ¬ span 0x30000 64 r) ∧
    (let s := saving (2 ^ 63 + 2 ^ 43) id
     ∃ pages, s.pages (s.x 2) .w 400 = .ok pages ∧ (decide ((s.touchImage pages (s.x 2) 400 false).toOption = some ()) &&
      !pages.all fun g => g.2 / 2 ^ 43 == s.pkg) = true) ∧
    (saving 0x20000 fun s => { s with out := [{ tag := 0, place := { core := 0, slot := 2 }, pop := 0, gone := false, addr := 0, anti := false, float := true, mint := none }] }).flagsOut
      { core := 0, slot := 2 } = true ∧
    (saving 0x20000 fun s => s.modMe fun t => { t with prog := .sealed }).me.prog = .sealed := by
  have p : rangePieces [(32, 0x20000)] 0x20000 400 = [(0x20000, 400)] := by decide +kernel
  refine ⟨⟨calm_of ?_, ?_, ?_, ?_, ?_, ?_, ok_of ?_, ?_, ok_of ?_, p, ?_, ?_⟩, ok_and ?_, ?_, ?_⟩
  rotate_right 5
  · unfold State.imageRoom
    rw [p]
    refine ⟨List.pairwise_singleton _ _, fun o ho => ?_⟩
    obtain rfl := List.mem_singleton.1 ho
    exact ⟨by decide +kernel, plain_vault (by decide) (by decide) (by decide +kernel),
      off_of (fun r hr => off_tables rfl (by have := hr.1; omega) (by have := hr.2; omega)) rfl⟩
  · rintro r ⟨-, a⟩ ⟨b, -⟩
    omega
  all_goals decide +kernel
/-- The header of an image of a context of `v` vector registers of partition 0 under key 5 and count 7, with a region of 64 bytes at
0x30000. -/
def contextHead (v : Nat) : List Byte := imageHeader 5 0 2 7 v 64 0x30000 (400 + 128 * v)
theorem contextHead_length (v : Nat) : (contextHead v).length = 64 := by simp [contextHead, imageHeader, toBytes_length]
/-- What seals the zero text under that header. -/
def contextSeal (v : Nat) : List Byte × List Byte :=
  gcmSeal (keyNumber 0x0123456789) (imageIv 5 7) (contextHead v) (List.replicate (320 + 128 * v) 0)
@[irreducible] def contextMem (v : Nat) : List Host.Cell := Memory.write [] (cells 0x20000 (contextHead v ++ ((contextSeal v).1 ++ (contextSeal v).2)))
/-- Core 0 with that image at 0x20000; where `full`, no vector register is left. -/
def loading (v : Nat) (full : Bool) : State :=
  let s := sup 2 0x20000 [] fun s => (key5 false s).modCore 0 fun k =>
    let held (t : Slot) : Slot := { t with v := List.replicate 64 0 }
    { k with partmap := 2 ^ 11, slots := if full then k.slots.set 3 (held k.slots[3]) |>.set 4 (held k.slots[4]) |>.set 5 (held k.slots[5]) |>.set 6 (held k.slots[6])
                                         else k.slots }
  { s with mem := contextMem v }
theorem loading_mem (v : Nat) (full : Bool) : (loading v full).mem = contextMem v := by
  unfold loading
  rfl
/-- A read in two parts. -/
theorem read_add (m : List Host.Cell) (q a b : Nat) : Memory.read m q (a + b) = Memory.read m q a ++ Memory.read m (q + a) b := by
  induction a generalizing q with
  | zero => simp [Memory.read]
  | succ a ih => rw [Nat.succ_add]; simp [Memory.read, ih, Nat.add_comm 1 a, Nat.add_assoc]
theorem read_length (m : List Host.Cell) (q n : Nat) : (Memory.read m q n).length = n := by
  induction n generalizing q with
  | zero => rfl
  | succ n ih => simp [Memory.read, ih]
/-- Words of memory, read one by one. -/
theorem port_words {s : State} {q k : Nat} (h : ∀ i < k, inCtl (q + 8 * i) = false) :
    ((List.range k).flatMap fun i => s.portBytes (q + 8 * i) 8) = s.bytes q (8 * k) := by
  induction k with
  | zero => rfl
  | succ k ih =>
    rw [List.range_succ, List.flatMap_append, ih fun i hi => h i (by omega), List.flatMap_singleton, State.portBytes, h k (by omega)]
    exact (read_add s.mem q (8 * k) 8).symm
/-- The image reads back. -/
theorem loading_bytes (v : Nat) (full : Bool) :
    (loading v full).bytes 0x20000 (400 + 128 * v) = contextHead v ++ ((contextSeal v).1 ++ (contextSeal v).2) := by
  have m := loading_mem v full
  have h := Memory.read_write_cells (m := []) 0x20000 (contextHead v ++ ((contextSeal v).1 ++ (contextSeal v).2)) rfl
  rw [← contextMem, ← m] at h
  generalize (loading v full) = s at *
  rw [List.length_append, List.length_append, contextHead_length, contextSeal, gcmSeal_length, gcmSeal_tag, List.length_replicate,
    show 64 + (320 + 128 * v + 16) = 400 + 128 * v by omega] at h
  exact h
/-- Its header reads back. -/
theorem loading_head (v : Nat) (full : Bool) :
    ((List.range 8).flatMap fun i => (loading v full).portBytes (0x20000 + 8 * i) 8) = contextHead v := by
  rw [port_words (by decide +kernel)]
  have h := loading_bytes v full
  unfold State.bytes at h ⊢
  rw [show 400 + 128 * v = 64 + (336 + 128 * v) by omega, read_add] at h
  exact List.append_inj_left h ((read_length _ _ _).trans (contextHead_length v).symm)
/-- ContextInstructions, `ctxload`: an image that opens, for a FREE slot, with its registers and without. -/
theorem hyp_ContextInstructions_load :
    ∀ c ∈ [(0, false), (16, true)], let v := c.1
    let s := loading v c.2
    let n := 400 + 128 * v
    let h := (List.range 8).flatMap fun i => s.portBytes (0x20000 + 8 * i) 8
    s.calm ∧ s.isSup = true ∧ Memory.wf s.mem = true ∧ s.translate 0x20000 .r 64 = .ok 0x20000 ∧
    s.touchable 0x20000 0x20000 64 true = .ok () ∧ (s.slotAt { core := 0, slot := 2 }).state = .free ∧
    s.myCore.partOf 2 = some 0 ∧ imageHead h = some { key := 5, part := 0, sc := 7, vcnt := v, len := 64, base := 0x30000 } ∧
    ((s.keyEntry 5).v = true ∧ (s.keyEntry 5).part.val = 0 ∧ (s.keyEntry 5).live = false ∧ (s.keyEntry 5).sc.toNat = 7 ∧
      (s.myCore.request s.cur.slot v).granted s.cur.slot v = !c.2) ∧
    ∃ pages, s.pages 0x20000 .r n = .ok pages ∧ ((s.touchImage pages 0x20000 n true).toOption == some ()) = true ∧
      gcmOpen (keyNumber (s.keyEntry 5).key) (imageIv 5 7) h (((s.getPages pages 0x20000 n).drop 64).take (n - 80))
        (((s.getPages pages 0x20000 n).drop 64).drop (n - 80)) = some (List.replicate (320 + 128 * v) 0) := by
  have hp : ∀ c ∈ [(0, false), (16, true)], rangePieces [(32, 0x20000)] 0x20000 (400 + 128 * c.1) = [(0x20000, 400 + 128 * c.1)] := by decide +kernel
  have hk : ∀ c ∈ [(0, false), (16, true)], ((loading c.1 c.2).keyEntry 5).key = 0x0123456789 := by decide +kernel
  intro c hc
  refine ⟨calm_of ?_, ?_, (by rw [loading_mem]; unfold contextMem; exact Memory.wf_write _ rfl), ok_of ?_, ok_of ?_, ?_, ?_, ?_, ?_, [(32, 0x20000)], ok_of ?_, ?_, ?_⟩
  rotate_right 1
  · have w : ∃ k, 400 + 128 * c.1 = 8 * k ∧ ∀ i < k, inCtl (0x20000 + 8 * i) = false := by
      refine ⟨50 + 16 * c.1, by omega, ?_⟩
      clear hp hk; revert c; decide +kernel
    have p := hp c hc
    have k := hk c hc
    clear hp hk hc
    generalize c.1 = v at *
    generalize c.2 = full at *
    obtain ⟨k', e, hk⟩ := w
    have len : (contextSeal v).1.length = 320 + 128 * v := by rw [contextSeal, gcmSeal_length, List.length_replicate]
    have g : (loading v full).getPages [(32, 0x20000)] 0x20000 (400 + 128 * v) = contextHead v ++ ((contextSeal v).1 ++ (contextSeal v).2) := by
      rw [← loading_bytes v full]
      unfold State.getPages
      rw [p, List.flatMap_singleton]
      show ((List.range ((400 + 128 * v) / 8)).flatMap fun i => (loading v full).portBytes (0x20000 % 2 ^ 43 + 8 * i) 8) = _
      rw [e, Nat.mul_div_cancel_left _ (by decide)]
      exact port_words hk
    have d : (contextHead v ++ ((contextSeal v).1 ++ (contextSeal v).2)).drop 64 = (contextSeal v).1 ++ (contextSeal v).2 := List.drop_left' (contextHead_length v)
    rw [g, d, loading_head, k, show 400 + 128 * v - 80 = 320 + 128 * v by omega, ← len, List.take_left, List.drop_left]
    rw [len]
    exact gcmOpen_gcmSeal (keyNumber 0x0123456789) (imageIv 5 7) (contextHead v) (List.replicate (320 + 128 * v) 0)
  all_goals (try rw [loading_head]); clear hp hk; revert c; decide +kernel

/-- Port 5 changed by `f`; slot 15 of core 0 with x1 = 0x1000. -/
def linked (f : LinkPort → LinkPort) : State := sup 0x1000 0 [] fun s => s.modPort 5 f
/-- A key slot that is loaded. -/
def keySlot : KeySlot := { key := 0x0123456789, txsalt := 1, rxsalt := 2, rxlast := 6, loaded := true, due := false, spent := false }
/-- An up port that sends and receives under key slot 0, and has slot 1 loaded. -/
def upPort (k : LinkPort) : LinkPort :=
  { k with up := true, txs := false, rxs := false, swp := false, keys := #v[keySlot, keySlot], lkth := 100, next := 3, expect := 9,
           replay := [{ kind := 0, seq := 2, payload := List.replicate 224 0 }] }
/-- Link: slot 1 that may be loaded and slot 0 that is in use; a switch that goes and one that is under way; what the port owes
in each of its kinds, at the bound of the replay buffer; ports that train and fail. -/
theorem hyp_Link :
    ((linked upPort).calm ∧ (linked upPort).isSup = true ∧ Memory.wf (linked upPort).mem = true ∧ (0x1000 : Word).toNat % 64 = 0 ∧
      inSystemArea 0x1000 64 = true ∧
      (linked upPort).touchable 0x1000 ((linked upPort).pkg * 2 ^ 43 + (vaultBase (linked upPort).myId + 0x1000)) 64 true = .ok () ∧
      (linked upPort).bytes (vaultBase (linked upPort).myId + 0x1000 + 40) 24 = List.replicate 24 0 ∧
      ((linked upPort).port 5).txs ≠ true ∧ ((linked upPort).port 5).rxs ≠ true ∧ ((linked upPort).port 5).swp = false ∧
      ((linked upPort).port 5).txs = false ∧ ((linked fun k => { upPort k with swp := true }).port 5).swp = true ∧
      (((linked upPort).port 5).key true).loaded = true ∧ (((linked upPort).port 5).key false).spent = false ∧
      (((linked fun k => { upPort k with keys := #v[{ keySlot with spent := true }, keySlot] }).port 5).key false).spent = true ∧
      512 ≤ ((linked fun k => { upPort k with replay := List.replicate 512 { kind := 0, seq := 2, payload := [] } }).port 5).replay.length) ∧
    (((linked upPort).port 5).up = true ∧ (((linked upPort).port 5).key false).loaded = true ∧ ((linked upPort).port 5).count false < 2 ^ 48 - 2 ∧
      ((linked fun k => { upPort k with nak := true }).port 5).nak = true ∧
      (∃ f rest, ((linked fun k => { upPort k with again := k.replay ++ [{ kind := 0, seq := 1, payload := [] }] }).port 5).again = f :: rest) ∧
      (∃ g rest, ((linked fun k => { upPort k with txq := [{ kind := 0, target := 0, core := 0, part := 0, dom := none, tag := 0, isEnd := true, more := false, fn := 0, data := [1] }] }).port 5).txq = g :: rest) ∧
      ((linked upPort).port 5).replay.length < 512 ∧ ((linked upPort).port 5).again = [] ∧ ((linked upPort).port 5).nak = false) ∧
    (let s := (linked fun k => { upPort k with owed := some 1000 }).modDie 0 fun d => { d with tsc := 3000 }
     (s.port 5).owed = some 1000 ∧ (1000 : Word).toNat + 2000 ≤ s.time.toNat ∧ (s.port 5).count false < (s.port 5).lkth.toNat) ∧
    (linked id).port 5 = LinkPort.reset ∧ ((linked id).port 5).up = false ∧ (linked id).boot.recovery = false := by
  refine ⟨⟨calm_of ?_, ?_, ?_, ?_, ?_, ok_of ?_, ?_⟩, ⟨?_, ?_, ?_, ?_, ⟨_, _, rfl⟩, ⟨_, _, rfl⟩, ?_⟩, ?_, ?_⟩ <;> decide +kernel
/-- A flit of a TYPE, sealed under key slot 0 with count 7: SEQ 9, ACK 3. -/
def flit (kind : Nat) : List Byte :=
  let e := gcmSeal (keyNumber 0x0123456789) (flitIv 2 7) (flitHeader kind false 7 9 3) (List.replicate 224 0)
  flitHeader kind false 7 9 3 ++ (e.1 ++ e.2)
/-- Link: a flit of every TYPE opens, in order; an empty one does not. -/
theorem hyp_Link_flits :
    (∀ kind ∈ [0, 1, 2, 3, 4], (((flit kind).headD 0).toNat = kind) ∧ ((linked upPort).port 5).openFlit (flit kind) =
      some { kind, key := false, inv := 7, seq := 9, ack := 3, payload := List.replicate 224 0 }) ∧
    ((linked upPort).port 5).expect = 9 ∧ ((linked fun k => { upPort k with expect := 8 }).port 5).expect ≠ 9 ∧
    ((linked upPort).port 5).openFlit [] = none := by
  refine ⟨fun kind hk => ?_, by decide +kernel⟩
  have l : (flitHeader kind false 7 9 3).length = 16 := rfl
  have h : ((flit kind).headD 0).toNat = kind ∧ ofBytes (((flitHeader kind false 7 9 3).drop 0).take 1) = kind ∧
      (ofBytes (((flitHeader kind false 7 9 3).drop 1).take 1)).testBit 0 = false ∧
      ofBytes (((flitHeader kind false 7 9 3).drop 2).take 6) = 7 ∧ ofBytes (((flitHeader kind false 7 9 3).drop 8).take 4) = 9 ∧
      ofBytes (((flitHeader kind false 7 9 3).drop 12).take 4) = 3 := by
    revert kind
    decide +kernel
  have key : ((linked upPort).port 5).key false = keySlot := by decide +kernel
  generalize he : gcmSeal (keyNumber 0x0123456789) (flitIv 2 7) (flitHeader kind false 7 9 3) (List.replicate 224 0) = e
  have f : flit kind = flitHeader kind false 7 9 3 ++ (e.1 ++ e.2) := by rw [← he]; rfl
  have c : e.1.length = 224 := by rw [← he, gcmSeal_length, List.length_replicate]
  have g : e.2.length = 16 := by rw [← he, gcmSeal_tag]
  have o := gcmOpen_gcmSeal (keyNumber 0x0123456789) (flitIv 2 7) (flitHeader kind false 7 9 3) (List.replicate 224 0)
  rw [he] at o
  have t : (flit kind).take 16 = flitHeader kind false 7 9 3 := by rw [f, ← l, List.take_left]
  have d : (flit kind).drop 16 = e.1 ++ e.2 := by rw [f, ← l, List.drop_left]
  have d2 : (flit kind).drop 240 = e.2 := by
    have : (flit kind).drop 240 = ((flit kind).drop 16).drop 224 := by rw [List.drop_drop]
    rw [this, d, ← c, List.drop_left]
  have n : (flit kind).length = 256 := by rw [f, List.length_append, List.length_append, l, c, g]
  refine ⟨h.1, ?_⟩
  unfold LinkPort.openFlit
  simp only [t, h, key, n, d2, d]
  have a : (e.1 ++ e.2).take 224 = e.1 := by rw [← c, List.take_left]
  rw [if_neg (by decide), a]
  exact congrArg (Option.map _) o

/-! ### States that meet the hypotheses: what the cores do between instructions -/

/-- The thread of slot 0 changed by `f`, core 0 by `g`, at a time of 2,000,000. -/
def between (f : Slot → Slot) (g : Core → Core) : State :=
  ((small f).modCore 0 g).modDie 0 fun d => { d with tsc := 2000000 }
/-- Entry 3 of the population watchdog, for population `n`. -/
def watching (n : BitVec 32) : State :=
  between id fun k => { k with watch := k.watch.set 3 { pop := n, v := true, last := 0, win := 2000, idle := 0 } }
/-- SlotEvents: a wait that is over; a deadline with a READY slot, a STALLED one, and none; a population that is silent, and one
with no thread; a slot that a lock stops; a lock that is late; a forwarding entry and a supervisor that ends; a
translation-cache invalidation that may start and one that is under way. -/
theorem hyp_SlotEvents :
    (let s := between (fun t => { t with state := .wait, wait := some .acked }) id
     (s.slotAt here).state = .wait ∧ (s.slotAt here).wait = some .acked ∧ (s.slotAt here).pending = none ∧ (s.slotAt here).antiOut = 0 ∧
      s.holds here .acked = true) ∧
    (let s := between id fun k => { k with timer := 2000000 }
     (s.core 0).timer ≠ 0 ∧ (s.core 0).timer.toNat ≤ (s.die 0).tsc.toNat ∧ (s.core 0).slots[0].intr = none ∧
      (s.core 0).slots[0].state = .ready ∧ (s.core 0).slots[0].mint = none ∧
      (between (fun t => { t with state := .stalled }) id).me.state = .stalled ∧ (between (fun t => { t with state := .stalled }) id).me.intr = none ∧
      (∀ j : SlotId, j ≠ 0 → j.val < 15 → (s.core 0).slots[j.val].state = .free) ∧
      (s.slotAt here).released = false ∧ s.flagsOut here = false ∧
      ((between (fun t => { t with stalls := [{ core := 0, bank := 2, freed := true }] }) id).slotAt here).released = true ∧
      ({ s with out := [{ tag := 0, place := here, pop := 1, gone := false, addr := 0, anti := false, float := true, mint := none }] } : State).flagsOut here = true ∧
      (∀ j : SlotId, j.val < 15 → ((between (fun t => { t with state := .done }) id).core 0).slots[j.val].state = .free ∨
        ((between (fun t => { t with state := .done }) id).core 0).slots[j.val].state = .done) ∧ (s.core 0).records = []) ∧
    ((watching 1).still = false ∧ ((watching 1).core 0).watch[3].v = true ∧ ((watching 1).core 0).watch[3].win ≠ 0 ∧
      (watching 1).occupied 1 = true ∧ 1000 * ((watching 1).core 0).watch[3].win.toNat ≤ ((watching 1).die 0).tsc.toNat - 0 - ((watching 1).core 0).watch[3].idle.toNat ∧
      ((watching 1).core 0).records = [] ∧
      (watching 9).occupied 9 = false) ∧
    (let s := between (fun t => { t with wait := some (.bank 0 2) }) fun k => { k with lock := 4 }
     (s.slotAt here).wait = some (.bank 0 2) ∧ (s.core 0).lock.getLsbD 2 = true ∧ (3 : BitVec 16).getLsbD 2 = false) ∧
    (let s := between id fun k => { k with lock := 4, cycle := 300, lockAt := [(2, 44)] }
     (s.core 0).lock.getLsbD 2 = true ∧ SMap.get (s.core 0).cycle (s.core 0).lockAt 2 + 256 ≤ (s.core 0).cycle) ∧
    (let s := between id fun k => { k with fwdV := true, fwdAt := 1000000 }
     (s.core 0).fwdV = true ∧ (s.core 0).fwdAt.toNat + 1000000 ≤ (s.die 0).tsc.toNat) ∧
    ((plainState.slotAt here).state = .ready ∧ (plainState.slotAt here).pending = none ∧ (plainState.slotAt here).antiOut = 0 ∧
      (plainState.slotAt here).opt = false ∧ (plainState.slotAt here).prog ≠ .ended ∧
      (between (fun t => { t with state := .wait, wait := some .acked }) id).me.state ≠ .ready) ∧
    (let s := plainState.modSlot { core := 0, slot := 15 } fun t => { t with state := .stopped }
     (s.core 0).slots[15].state = .stopped ∧ (s.core 0).restop = false ∧ (s.core 0).current = none) ∧
    (plainState.die 0).xbusy = false ∧ (3 : Word).toNat % 8 < 4 ∧ ((plainState.modDie 0 fun d => { d with xbusy := true }).die 0).xbusy = true := by
  decide +kernel

/-- SlotEvents: a slot that waits for flags, those that leave TRANSIT, and an open event that is final and one that is not. -/
theorem hyp_SlotEvents_leave :
    (let s := between (fun t => { t with state := .stalled, wait := some (.flags here) }) id
     (s.slotAt here).state = .stalled ∧ (s.slotAt here).wait = some (.flags here) ∧ (s.slotAt here).pending = none ∧ (s.slotAt here).antiOut = 0 ∧
      s.holds here (.flags here) = true) ∧
    (∀ st ∈ [SlotState.ready, .held], let s := between (fun t => { t with state := .transit, into := some st, lvt := 5 }) id
     (s.slotAt here).state = .transit ∧ (s.slotAt here).into = some st ∧ (s.slotAt here).seen.toNat ≤ (s.die 0).tsc.toNat ∧
      (s.core 0).relocIn = false ∧ ((s.slotAt here).stopping = false ∧ (s.slotAt here).intr = none ∧ (s.slotAt here).pending = none) ∧
      (s.die 0).gvt.toNat ≤ (s.slotAt here).lvt.toNat) ∧
    (∀ g ∈ [4, 6], let s := (small fun t => { t with opt := true, evo := true, lvt := 5 }).modDie 0 fun d => { d with gvt := BitVec.ofNat 48 g }
     (s.slotAt here).opt = true ∧ (s.slotAt here).evo = true ∧ decide ((s.slotAt here).lvt.toNat < (s.die 0).gvt.toNat) = (g == 6)) := by
  decide +kernel
/-- Slot 0 of core 0, changed by `f`, is to rotate to partition 1, whose frame at 0x44000 has `w` at +0xD0; those of partition 0 stand
at 0x40000; core 0 is changed by `g`. -/
def rotating (f : Slot → Slot) (g : Core → Core) (w : Nat) : State :=
  let s := (small f).modCore 0 fun k => g { k with rotLeft := 1, rotPart := 1, partmap := 8, cycle := 20 }
  let mem := image [(0x440D0, [w])]
  { s with mem, parts := [(0, { Partition.reset with words := Partition.reset.words.set 5 0x40000 }),
                          (1, { Partition.reset with words := Partition.reset.words.set 5 0x44000 })] }
/-- Core 0 relocates to core `n`. -/
def relocating (n : BitVec 10) : State := (small id).modCore 0 fun k => { k with relocTo := n, relocBusy := true, partmap := 8 }
/-- The second event of that relocation is to come, with the thread of slot 0 in TRANSIT. -/
def departed : State := (small fun t => { t with state := .transit, into := some .ready }).modCore 0 fun k =>
  { k with relocTo := 1, relocBusy := true, relocIn := true, partmap := 8 }
/-- RotationAndRelocation: a rotation that may start and one that waits; targets that are refused (the core itself, another
die, an absent core, one with a thread or a slot that is reserved, one with a message), one that is not, and a store that waits; slots that leave, of each kind, and
that take a frame with a thread, without one, and without the registers; a relocation with every slot at a boundary, and its second
event. -/
theorem hyp_RotationAndRelocation :
    (Memory.wf (rotating id id (2 ^ 63)).mem = true ∧ (plainState.core 0).rotLeft = 0 ∧ ((rotating id id 0).core 0).rotLeft ≠ 0 ∧
      (plainState.core 0).relocBusy = false ∧ (0 : Word).toNat % 1024 = 0 ∧ (128 : Word).toNat % 1024 / 128 ≠ 0 ∧
      ((plainState.modCore 1 fun k => { k with absent := true }).core 1).absent = true ∧
      ((plainState.modSlot { core := 1, slot := 3 } fun t => { t with state := .done }).core 1).slots[3].state ≠ .free ∧
      (∃ e ∈ ((plainState.modCore 1 fun k => { k with mail := [(2, [{ msg := { h0 := 0, h1 := 0, body := 0, part := 0, dom := none, colour := false, pop := 1, place := here, ack := .none }, done := none }])] }).core 1).mail, e.2 ≠ []) ∧
      (plainState.core 1).absent = false ∧ (∀ i : SlotId, i.val < 15 → (plainState.core 1).slots[i.val].state = .free) ∧
      (∀ e ∈ (plainState.core 1).mail, e.2 = [])) ∧
    (∀ f ∈ [id, fun (t : Slot) => { t with state := .done }, fun (_ : Slot) => Slot.empty, fun (t : Slot) => { t with prot := true }, fun (t : Slot) => { t with reserved := true, state := .free }],
      let s := rotating f id 0
      let q := s.slotAt here
      (s.core 0).rotLeft.getLsbD 0 = true ∧ (s.core 0).rotFrom 0 < (s.core 0).cycle ∧ q.atBoundary = true ∧ q.intr = none ∧
        s.stopLocked here = false ∧ q.mint = none ∧ (s.core 0).partOf 0 = some 0 ∧ q.v.length ≤ 64 ∧ s.flagsOut here = false) ∧
    ((rotating (fun _ => Slot.empty) (fun k => { k with partmap := 0 }) 0).core 0).partOf 0 = none ∧
    (∀ w ∈ [0, 2 ^ 63, 2 ^ 63 + 16 * 2 ^ 8], let s := rotating (fun _ => { Slot.empty with state := .transit, evicting := true }) id w
      let v := s.num (s.frameAt (s.core 0).rotPart here + 0xD0) 8
      v = w ∧ (s.slotAt here).state = .transit ∧ (s.slotAt here).evicting = true ∧ (s.slotAt here).reserved = false ∧
        bits v 8 7 ≤ (s.core 0).freeVectors) ∧
    (let held (t : Slot) : Slot := { t with v := List.replicate 64 0 }
     let s := rotating (fun _ => { Slot.empty with state := .transit, evicting := true })
       (fun k => { k with slots := k.slots.set 3 (held k.slots[3]) |>.set 4 (held k.slots[4]) |>.set 5 (held k.slots[5]) |>.set 6 (held k.slots[6]) }) (2 ^ 63 + 16 * 2 ^ 8)
     (s.core 0).freeVectors < bits (s.num (s.frameAt (s.core 0).rotPart here + 0xD0) 8) 8 7) ∧
    ((1 : CoreId) ≠ 0 ∧ ((relocating 1).core 0).relocBusy = true ∧ ((relocating 1).core 0).relocTo.toNat = 1 ∧
      ((relocating 1).core 0).relocIn = false ∧ (relocating 1).canDepart 0 1 = true ∧
      (∀ i : SlotId, i.val < 15 → ((relocating 1).core 0).slots[i.val].mint = none) ∧ (departed.core 0).relocIn = true ∧
      (departed.core 0).relocBusy = true ∧ (departed.core 0).relocTo.toNat = 1 ∧ (departed.core 1).spill = []) ∧
    ((departed.core 1).absent = false ∧ ((departed.modCore 1 fun k => { k with absent := true }).core 1).absent = true ∧
      (plainState.core 0).absent = false ∧ ((plainState.modCore 0 fun k => { k with absent := true }).core 0).absent = true ∧
      ((plainState.modSlot { core := 1, slot := 3 } fun t => { t with reserved := true }).core 1).slots[3].reserved = true) := by
  refine ⟨?_, ?_, ?_, ?_, ?_, ?_, ?_⟩
  · refine ⟨?_, ?_, ?_, ?_, ?_, ?_, ?_, ?_, ⟨_, List.mem_cons_self .., fun h => nomatch h⟩, ?_, ?_, ?_⟩ <;> decide +kernel
  · intro f hf
    simp only [List.mem_cons, List.not_mem_nil, or_false] at hf
    rcases hf with rfl | rfl | rfl | rfl | rfl <;> decide +kernel
  all_goals decide +kernel
/-- RotationAndRelocation: what relocation copies as it stands lies outside the mailboxes of the target, such as the constants that are
its own. -/
theorem hyp_RotationAndRelocation_kept : ∀ b, span (vaultBase 1 + 0xC000 + 0x7C0) 64 b →
    ¬ span (vaultBase 1 + (departed.core 0).mbt.toNat % 2 ^ 24 / 4096 * 4096) 1024 b ∧ vaultBase 1 + 0xC000 ∈ windowsOf 1 := fun b h => by
  refine ⟨fun k => ?_, by decide +kernel⟩
  have := h.1
  have := k.2
  rw [show (departed.core 0).mbt.toNat = 0 from rfl] at this
  omega

/-! ### States that meet the hypotheses: the fabric and the front ports -/

/-- The small state whose thread has arrived at the phase of its population, with a buffered line of it, a 64-KiB shared range at
0x30000 and a spill area of `n` blocks. -/
def phased (n : Nat) : State :=
  let e : Entry := { who := { pop := 1, thidx := 0, slot := 0 }, retired := false, form := .dev, line := 0x30000, da := 0x30000, mask := 1, data := 7, at_ := [],
                     merged := false, inbound := false, left := none }
  let s := (small id).modCore 0 fun k => { k with buffer := [e], phbuf := BitVec.ofNat 64 (0x40000 + n * 2 ^ 32) }
  { s with pops := [{ pop 0 with arrived := [here], shared := [(0x30000, 0x10000)] }] }
/-- Phases, the end of one: a population whose only member has arrived, and one buffered line. -/
theorem hyp_PhaseEnds :
    Memory.wf (phased 0).mem = true ∧ (∃ p, (phased 0).pop? 1 = some p ∧ p.id = 1 ∧ ((phased 0).threads p).map Prod.fst = [here] ∧ here ∈ p.arrived) ∧
    (phased 0).withheld = [] ∧ (phased 0).plain (0x30000 % 2 ^ 43) 64 ∧ (∀ i < 64, (phased 0).offTables (0x30000 + i) 1) ∧ 0x30000 % 64 = 0 ∧ ∃ e, ((phased 0).core 0).buffer = [e] ∧ e.who.pop = 1 ∧ e.mask.getLsbD 0 = true := by
  refine ⟨by decide +kernel, ⟨_, rfl, by decide +kernel⟩, by decide +kernel, plain_of (by decide +kernel),
    fun i hi => off_of (fun r hr => off_tables rfl (by have := hr.1; omega) (by have := hr.2; omega)) rfl, rfl, _, rfl, by decide +kernel⟩

/-- A write of `n` bytes from package 2. -/
def write (q n : Nat) (p : Part) : InWrite :=
  { addr := q, data := List.replicate n 5, srcPkg := 2, srcCore := 0, part := p, dom := none, tag := 9, front := false, isEnd := true }
/-- A posted atomic from package 2. -/
def atomic (q : Nat) (vec : Bool) (fn : BitVec 5) : InAtomic :=
  { addr := q, vec, fn, data := List.replicate (if vec then 32 else 8) 1, srcPkg := 2, srcCore := 0, part := 0, mode := 0, tag := 9 }
/-- FabricEvents, writes: one byte to a vault, a partition with no bank, a shared line with and without a spill record, a mailbox
window. -/
theorem hyp_FabricEvents_writes :
    (plainState.ordinary (write 0x30000 1 0)) ∧
    (Memory.wf (phased 1).mem = true ∧ (phased 1).withheld = [] ∧ inMbox 0x30000 = false ∧ inCtl 0x30000 = false ∧
      (phased 1).inboundOk 1 0x30000 1 = false ∧ (phased 1).inboundOk 0 0x30000 1 = true ∧ ((phased 1).sharedBy 0x30000).isSome = true ∧
      inVault 0x30000 = true ∧ vaultCore 0x30000 = 0 ∧ ((phased 1).core 0).spillFree = some 0 ∧ ((phased 0).core 0).spillFree = none) ∧
    (phased 1).plain 0x30000 1 ∧ (∀ e ∈ (phased 1).cores, ∀ i : ZoneId, e.2.zones[i.val].v = false) ∧
    inMbox Config.mboxBase = true ∧ (write Config.mboxBase 64 0).data.length = 64 ∧ Config.mboxBase % 64 = 0 := by
  refine ⟨⟨?_, ?_, ?_, plain_of ?_, ?_, ?_, ?_⟩, ?_, plain_of ?_, ?_⟩ <;> decide +kernel
/-- FabricEvents, writes: recovery, a write of which more packets follow, a ticket word, and one that is none. -/
theorem hyp_FabricEvents_marks :
    plainState.boot.recovery = false ∧ ({ plainState with boot := { plainState.boot with recovery := true } } : State).boot.recovery = true ∧
    (write 0x30000 1 0).tag.getLsbD 61 = false ∧ ({ write 0x30000 1 0 with tag := 2 ^ 61 + 9 } : InWrite).tag.getLsbD 61 = true ∧
    plainState.isBroken 2 9 = false ∧ 0x30000 / 64 = (0x30000 + 1 - 1) / 64 ∧ (write 0x30000 8 0).data.length = 8 ∧
    ({ phased 1 with ticketWords := [0x30000] } : State).ticketWords.contains 0x30000 = true ∧
    ∀ i ∈ [0x30000, 0x30001], (phased 1).ticketWords.contains (i / 8 * 8) = false := by decide +kernel
/-- FabricEvents, the atomics act on plain memory. -/
theorem hyp_FabricEvents_plain : plainState.plain 0x30000 4 ∧ plainState.plain 0x30000 8 ∧ plainState.plain 0x30000 32 := by
  refine ⟨plain_of ?_, plain_of ?_, plain_of ?_⟩ <;> decide +kernel
/-- FabricEvents, an acknowledgement of a float atomic of a thread that is out of its slot. -/
def leaving : State :=
  { small fun _ => Slot.empty with
    out := [{ tag := 9, place := here, pop := 1, gone := false, addr := 0, anti := false, float := true, mint := none }],
    pops := [{ pop 0 with away := [{ place := here, slot := thread }] }] }
theorem hyp_FabricEvents_away :
    ∃ o, leaving.out.find? (fun o => bareTag o.tag == bareTag (2 ^ 62 + 9)) = some o ∧ o.anti = false ∧ o.gone = false ∧ o.float = true ∧
      (leaving.slotAt o.place).state = .free ∧ (leaving.pop? o.pop).isSome = true := ⟨_, rfl, by decide +kernel⟩
/-- FabricEvents, atomics and answers: a 4-byte atomic, a poisoned word, an 8-byte and a vector one; an answer to a thread that
is there. -/
theorem hyp_FabricEvents_atomics :
    (inRed 0x30000 = false ∧ (atomic 0x30000 false 8).fn.toNat % 16 < 9 ∧ plainState.inboundOk 0 0x30000 4 = true ∧
      plainState.poisonedAt 0x30000 4 = none ∧ plainState.lostAt 0x30000 4 = none ∧
      (({ plainState with poison := [0x30000 / 8] } : State).poisonedAt 0x30000 4).isSome = true ∧ plainState.inboundOk 0 0x30000 8 = true ∧
      (11 : BitVec 5).toNat < 12 ∧ plainState.inboundOk 0 0x30000 32 = true ∧ plainState.poisonedAt 0x30000 32 = none ∧
      plainState.lostAt 0x30000 32 = none) ∧
    ∃ o, sending.out.find? (fun o => bareTag o.tag == bareTag 0) = some o ∧ o.anti = false ∧ o.mint = none ∧ (sending.slotAt o.place).popid = o.pop ∧
      (sending.slotAt o.place).state ≠ .free ∧ o.gone = false ∧ (sending.core o.place.core.val).records = [] := by
  refine ⟨by decide +kernel, _, rfl, by decide +kernel⟩

/-- A reduction cell at the base of the window with a header, and rounds. -/
def reducing (h : Nat) (rs : List Round) : State :=
  let mem := image [(Config.redBase, [h])]
  { plainState with mem, rounds := rs }
/-- A contribution of a package. -/
def given (p : BitVec 13) : Contribution := { pkg := p, tag := 9, core := 0, off := 0, data := List.replicate 8 1 }
/-- A contribution to one half of a unit. -/
def half (p : BitVec 13) (o : Nat) : Contribution := { pkg := p, tag := 9, core := 0, off := o, data := List.replicate 4 1 }
/-- The header of an 8-byte add of `n` contributions. -/
def redHead (n : Nat) : Nat := n + 2 ^ 16 * 16 + 2 ^ 63
/-- A round of the unit at offset 32. -/
def round (h : Nat) (gs : List Contribution) : Round := { unit := Config.redBase + 32, head := BitVec.ofNat 64 h, given := gs, held := [] }
/-- ReductionRounds: a first contribution that fits and one that does not, a second one of another package and of the same; a
complete round of whole units, and one of a contribution to each half. -/
theorem hyp_ReductionRounds :
    (Memory.wf (reducing (redHead 2) []).mem = true ∧ inRed (Config.redBase + 32) = true ∧ (reducing (redHead 2) []).rounds = [] ∧
      (reducing (redHead 2) []).num Config.redBase 8 = redHead 2 ∧ (reducing 0 []).num Config.redBase 8 = 0 ∧
      (∀ n ∈ [1, 2, 4608], bits (redHead n) 63 1 = 1 ∧ 1 ≤ bits (redHead n) 0 13 ∧ bits (redHead n) 0 13 ≤ 4608 ∧ bits (redHead n) 16 5 = 16 ∧ bits (redHead n) 24 1 = 0) ∧
      bits 0 63 1 ≠ 1 ∧ (Config.redBase + 32) % 128 = 32 ∧ (Config.redBase + 32) % 8 = 0) ∧
    ((∀ g ∈ (round (redHead 2) [given 3]).given, g.pkg ≠ 2) ∧ (round (redHead 2) [given 3]).given.length < bits (round (redHead 2) []).head.toNat 0 13 ∧
      ∃ g ∈ (round (redHead 2) [given 2]).given, g.pkg = 2) ∧
    (let r := round (redHead 2) [given 2, given 3]
     (reducing (redHead 2) [r]).rounds[0]? = some r ∧ r.held = [] ∧ bits r.head.toNat 0 13 = 2 ∧ (given 2).pkg.toNat < (given 3).pkg.toNat ∧
      inRed r.unit = true ∧ 32 ≤ r.unit % 128 ∧ bits r.head.toNat 24 1 = 0 ∧ bits r.head.toNat 20 1 = 1 ∧
      (reducing (redHead 2) [r]).poisonedAt r.unit 8 = none ∧
      (({ reducing (redHead 2) [r] with poison := [(Config.redBase + 32) / 8] } : State).poisonedAt r.unit 8).isSome = true ∧ r.unit % 8 = 0 ∧
      (given 2).off = 0 ∧ (given 3).off = 0) ∧
    (let r := round (2 + 2 ^ 63) [half 3 4, half 2 0]
     r.given = [half 3 4, half 2 0] ∧ bits r.head.toNat 20 1 = 0 ∧ bits r.head.toNat 0 13 = 2 ∧ (half 2 0).off = 0 ∧ (half 3 4).off = 4) := by
  decide +kernel

/-- A datagram for partition 0: flags, operation, generation `gen`, id 9, a target, a length, a code and a payload. -/
def gram (op code gen target len flags : Nat) (data : List Byte) : Datagram :=
  { dst := 77, port := 50560, clean := true, ce := false,
    bytes := [1, BitVec.ofNat 8 op] ++ toBytes 2 flags ++ toBytes 4 gen ++ toBytes 8 9 ++ toBytes 8 target ++ toBytes 4 len ++ toBytes 2 code ++
      toBytes 2 0 ++ data }
/-- Partition 0 with an enabled queue set of generation 4 that sends `q`, and ring 1 of `part` at 0x20000, whose record 0 begins with `h`. -/
def fronts (q : List TxGram) (part : Part) (h : Nat) : State :=
  let s := plainState.modRing 1 fun r => { r with base := 0x20000, v := true, log := 4, part, ext := true }
  let s := s.modPart 0 fun p => { p with en := true, addr := 77, gen := 4, txq := q }
  let s := s.modDie 0 fun d => { d with tsc := 200000 }
  let mem := image [(0x20000, [h])]
  { s with mem }
/-- A datagram that waits. -/
def tx (sent : Bool) : TxGram := { id := 9, bytes := [1], sent }
/-- KdaEvents: a WRITE of 8 bytes, a RINGPUT to a ring of the partition (new, full, a duplicate) and of another, a NOTIFY, an ACK and a NAK, each
for the queue set of partition 0; one that is dropped, one that breaks the layout, one of another generation. -/
theorem hyp_KdaEvents :
    (Memory.wf (fronts [] 0 0).mem = true ∧ (fronts [] 0 0).kdaPart { gram 1 0 4 0 0 0 [] with clean := false } = none ∧
      (fronts [] 0 0).kdaPart (gram 1 0 4 0 0 0 []) = some 0 ∧ kdaWhole (gram 1 0 4 0 0 0 []) = false ∧
      kdaWhole (gram 1 0 3 0x30000 8 0 (List.replicate 8 5)) = true ∧ ((fronts [] 0 0).partition 0).gen.toNat = 4) ∧
    (∀ g ∈ [gram 1 0 4 0x30000 8 0 (List.replicate 8 5), gram 2 0 4 1 72 0 (toBytes 8 0 ++ List.replicate 64 5),
        gram 2 0 4 1 72 0 (toBytes 8 16 ++ List.replicate 64 5), gram 3 0 4 1 0 0 []],
      (fronts [] 0 0).kdaPart g = some 0 ∧ ofBytes (g.bytes.take 1) = 1 ∧ ofBytes ((g.bytes.drop 2).take 2) = 0 ∧
      g.bytes.length = 32 + ofBytes ((g.bytes.drop 24).take 4) ∧ ofBytes ((g.bytes.drop 28).take 4) = 0 ∧ ofBytes ((g.bytes.drop 4).take 4) = 4) ∧
    (fronts [] 0 0).ordinary { write 0x30000 8 0 with front := true, isEnd := false } ∧
    (let r := (fronts [] 0 0).ring 1
     r.part = 0 ∧ r.ext = true ∧ r.v = true ∧ ((fronts [] 1 0).ring 1).part ≠ 0 ∧ r.rd.toNat = 0 ∧ 2 ^ r.log.toNat = 16 ∧
      bits ((fronts [] 0 0).num (r.recordAt 0) 8) 16 48 = 0 ∧ bits ((fronts [] 0 (2 ^ 16 * 9)).num (r.recordAt 0) 8) 16 48 ≠ 0) ∧
    (fronts [] 0 0).offTables 0x30000 8 ∧ kdaWhole (gram 4 0 4 0 7 0 []) = false ∧ kdaWhole (gram 5 0 4 0 7 0 []) = false ∧
    (∀ g ∈ [gram 4 0 4 0 0 0 [], gram 4 0 4 0 0 1 [], gram 5 1 4 0 0 1 []], (fronts [] 0 0).kdaPart g = some 0 ∧ kdaWhole g = true) ∧
    ((fronts [] 0 0).partition 0).halved = 0 ∧ ((fronts [] 0 0).time.toNat = 200000) ∧
    ((fronts [tx true] 0 0).partition 0).txq.find? (fun e => e.id == 9 && e.sent) = some (tx true) ∧
    ((fronts [tx true, tx false] 0 0).partition 0).txq = [tx true] ++ tx false :: [] ∧ (tx false).sent = false ∧
    100000 ≤ (fronts [] 0 0).time.toNat - ((fronts [] 0 0).partition 0).raised.toNat ∧ ((fronts [] 0 0).partition 0).rate.toNat ≤ 1600000 := by
  refine ⟨?_, ?_, ⟨?_, ?_, ?_, plain_of ?_, ?_, ?_, ?_⟩, ?_, off_of (fun b hb => off_tables rfl (by have := hb.1; omega) (by have := hb.2; omega)) rfl, ?_⟩
  all_goals decide +kernel

/-! ### States that meet the hypotheses: rings, records and populations -/

/-- Ring 5 of partition 0 with 16 records at 0x20000, a control block at 0x30000, and whatever `f` changes; a journal of 4 entries
in HBM of which `n` are not consumed; the words of record 0. -/
def ringed (f : Ring → Ring) (n : Nat) (ws : List Nat) : State :=
  let s := plainState.modRing 5 fun r => f { r with base := 0x20000, v := true, log := 4, cb := 0x30000 }
  let mem := image [(0x20000, ws)]
  { s with mem, jbase := BitVec.ofNat 64 Config.hbmBase, jlog := 2, jhead := 7, jcons := BitVec.ofNat 64 (7 - n) }
/-- Every active slot holds ring 6, and ring 6 is idle. -/
def fullDevice (maxs : Nat) : State :=
  let s := (ringed id 0 []).modRing 6 fun r => { r with mapped := true, v := true, log := 4, base := 0x28000, part := 1 }
  let s := s.modPart 0 fun p => { p with maxs := BitVec.ofNat 6 maxs }
  { s with actives := (List.range 32).map fun q => (q, { ring := some 6, wait := 0, head := none }) }
/-- RingMapping: a ring that is not mapped with the lowest slot free, one that is not defined, one that is mapped, a pending
one; no free slot, and a partition with no slot to its name; a ring that overran, with a store that waits. -/
theorem hyp_RingMapping :
    (((ringed id 0 []).ring 5).mapped = false ∧ ((ringed id 0 []).ring 5).ok = true ∧ ((ringed (fun r => { r with v := false }) 0 []).ring 5).ok = false ∧
      ((ringed (fun r => { r with mapped := true }) 0 []).ring 5).mapped = true ∧ (ringed id 0 []).actives = [] ∧
      (ringed id 0 []).activeOf 0 < ((ringed id 0 []).partition 0).maxs.toNat ∧ ((ringed id 0 []).ring 5).pend = false ∧
      (ringed (fun r => { r with mapped := true }) 0 []).idle 0 = false ∧ ((fullDevice 4).ring 6).held = [] ∧ ((fullDevice 4).ring 6).slot = 0) ∧
    ((∀ n < 32, ((fullDevice 4).active n).ring = some 6 ∧ ((fullDevice 4).active n).head = none) ∧ (fullDevice 4).published ((fullDevice 4).ring 6) = false ∧
      (fullDevice 4).activeOf 0 < ((fullDevice 4).partition 0).maxs.toNat ∧ ¬ (fullDevice 0).activeOf 0 < ((fullDevice 0).partition 0).maxs.toNat) ∧
    ({ ringed id 0 [] with pendingRings := [5] } : State).pendingRings = 5 :: [] ∧
    (let s : State := { ringed (fun r => { r with mapped := true, held := [7] }) 0 [4 + 2 ^ 16 * 16] with actives := [(3, { ring := some 5, wait := 0, head := none })] }
     (s.active 3).ring = some 5 ∧ (s.active 3).head = none ∧ (s.ring 5).mapped = true ∧ (s.ring 5).held = [7] ∧ (s.ring 5).ok = true ∧
      1 * 2 ^ (s.ring 5).log.toNat < 2 ^ 47 ∧
      bits (s.num ((s.ring 5).recordAt (s.ring 5).rd.toNat) 8) 16 48 = ((s.ring 5).rd.toNat + 1 * 2 ^ (s.ring 5).log.toNat) % 2 ^ 48) := by
  decide +kernel

/-- The words of a MARK, a WAITQ, a SIGNAL, and a LAUNCH whose record address is no multiple of 64, each of the first lap. -/
def records : List (List Nat) :=
  [[4, 0, 0, 0, 0, 0, 0, 0], [2, 2 ^ 63 + 0x31000, 0, 1, 0, 0, 0, 0], [3, 2 ^ 63 + 0x31000, 0, 0, 0, 0, 0, 0], [1, 1, 2 ^ 63 + 0x32000, 0, 0, 0, 0, 0]]
/-- Ring 5 in active slot 3, with that record published, or a record at the head. -/
def accepting (n : Nat) (ws : List Nat) (head : Option Running) : State :=
  { ringed (fun r => { r with mapped := true }) n ws with actives := [(3, { ring := some 5, wait := 0, head })] }
/-- A record at the head of its slot. -/
def head (kind : BitVec 4) (at_ : Nat) (im : List Word) : Running :=
  { index := 0, kind, words := Vector.replicate 8 0, journal := 7, at_, image := im, pop := none }
/-- RecordsRun, acceptance: a record of each kind that stands, or is rejected; kinds that do not exist, bits that are not zero, an
address that is not aligned; a full journal, an overrun, a control block that does not translate. -/
theorem hyp_RecordsRun_accept :
    (∀ ws ∈ records, Memory.wf (accepting 3 ws none).mem = true ∧ ((accepting 3 ws none).active 3).ring = some 5 ∧
      ((accepting 3 ws none).active 3).head = none ∧ ((accepting 3 ws none).ring 5).ok = true ∧
      bits ((accepting 3 ws none).num (((accepting 3 ws none).ring 5).recordAt 0) 8) 0 4 ≠ 0 ∧
      bits ((accepting 3 ws none).num (((accepting 3 ws none).ring 5).recordAt 0) 8) 16 48 = 0 ∧
      (accepting 3 ws none).jhead.toNat - (accepting 3 ws none).jcons.toNat ≠ 4 ∧
      ((accepting 3 ws none).translateFor 0 (2 ^ 63 + 0x30000) .w 64).toOption = some 0x30000) ∧
    (let s := accepting 4 (records.getD 0 []) none
     s.jhead.toNat - s.jcons.toNat = 2 ^ s.jlog.toNat) ∧
    bits (4 + 2 ^ 16 * 16) 16 48 = (0 + 1 * 2 ^ 4) % 2 ^ 48 ∧
    (({ accepting 3 [] none with parts := [] } : State).translateFor 0 (2 ^ 63 + 0x30000) .w 64).toOption = none ∧
    ((accepting 3 [] none).ring 5).held = [] ∧ (∀ b, span ((accepting 3 [] none).journalAt 7) 64 b → ¬ span (0x30000 + 8) 8 b ∧ ¬ span 0x32000 64 b) ∧
    ((accepting 3 [] none).checkRecord 0 (records.getD 0 [])).toOption = some (0, []) ∧
    ((accepting 3 [] none).checkRecord 0 (records.getD 1 [])).toOption = some (0x31000, []) ∧
    ((accepting 3 [] none).checkRecord 0 (records.getD 2 [])).toOption = some (0x31000, []) ∧
    ((accepting 3 [] none).checkRecord 0 (records.getD 3 [])).toOption = none ∧
    ((accepting 3 [] none).translateFor 0 (BitVec.ofNat 64 (2 ^ 63 + 0x32000)) .w 64).toOption = some 0x32000 ∧
    ((accepting 3 [] none).checkRecord 0 [5]).toOption = none ∧ ((accepting 3 [] none).checkRecord 0 [4 + 16]).toOption = none ∧
    ((accepting 3 [] none).checkRecord 0 [2, 4]).toOption = none := by
  and_intros
  rotate_left 5
  refine of_span ?_
  all_goals (try unfold span); decide +kernel
/-- RecordsRun, completion: a WAITQ that holds in each mode and one that does not, a SIGNAL first in its ring and one behind a
population, a MARK. -/
theorem hyp_RecordsRun_complete :
    (let s (m v : Word) := accepting 3 [] (some { head 2 0x31000 [] with words := #v[2, 0, v, m, 0, 0, 0, 0] })
     (((s 0 0).active 3).head.map Running.kind = some 2) ∧ inCtl 0x31000 = false ∧ (s 0 0).num 0x31000 8 = 0 ∧ ¬ (1 : Word).toNat ≤ 0) ∧
    (accepting 3 [] (some (head 3 0x31000 []))).plain 0x31000 8 ∧ SMap.get [] (accepting 3 [] (some (head 3 0x31000 []))).running 5 = [] ∧
    SMap.get [] ({ accepting 3 [] (some (head 3 0x31000 [])) with running := [(5, [head 1 0 []])] } : State).running 5 ≠ [] ∧
    ((accepting 3 [] (some (head 4 0 []))).active 3).head = some (head 4 0 []) := by
  refine ⟨by decide +kernel, plain_of (by decide +kernel), by decide +kernel⟩

/-- The launch record of one thread on each of cores 0 and 1 with `n` user words at 0x31000. -/
def launchImage (n : Nat) : List Word := [0x10000, BitVec.ofNat 64 (1 + 2 ^ 8 * n), 1, 2, 3, 4, 2 ^ 63 + 0x31000] ++ List.replicate 9 0 ++ [3] ++ List.replicate 15 0
/-- A LAUNCH at the head of active slot 3; slots 0 and 1 of cores 0 and 1 belong to partition 0, and slot 0 of core 0 is `st`. -/
def launching (st : SlotState) (n : Nat) : State :=
  let s := (accepting 3 [] (some (head 1 0x32000 (launchImage n)))).modSlot here fun t => { t with state := st }
  (s.modCore 0 fun k => { k with partmap := 0x88 }).modCore 1 fun k => { k with partmap := 0x88 }
/-- Placement: cores with room and a core without; 0 and 248 user words. -/
theorem hyp_Placement :
    (Memory.wf (launching .free 0).mem = true ∧ (launching .free 0).active 3 = { ring := some 5, wait := 0, head := some (head 1 0x32000 (launchImage 0)) } ∧
      launchCores (launchImage 0) = [0, 1] ∧ (∀ c ∈ [0, 1], 1 ≤ (((launching .free 0).core c).freeFor 0).length) ∧ (launching .free 0).pops = [] ∧
      ((launching .free 0).core 0).watch[0].v = false ∧
      ¬ 3 ≤ (((launching .ready 0).core 0).freeFor 0).length ∧ inHbm ((launching .free 0).journalAt 7) = true) ∧
    (∀ n ∈ [0, 248], ((launching .free n).launchRanges 0 (launchImage n)).toOption = some [] ∧
      ((launching .free n).wordsFor 0 (2 ^ 63 + 0x31000) n).toOption = some (List.replicate n 0)) := by decide +kernel

/-- Placement, a rejection: a shared range of 64 KiB from VIRTUAL page 0, which has no mapping. -/
def sharing : List Word := [0x10000, BitVec.ofNat 64 (1 + 2 ^ 40), 1, 2, 3, 4, 2 ^ 63 + 0x31000, 0, 2 ^ 40, 2 ^ 40 + 0x10000] ++ List.replicate 6 0 ++ [1] ++ List.replicate 15 0
theorem hyp_Placement_rejected :
    let s := accepting 3 [] (some (head 1 0x32000 sharing))
    let s := s.modCore 0 fun k => { k with partmap := 0x80 }
    s.active 3 = { ring := some 5, wait := 0, head := some (head 1 0x32000 sharing) } ∧ (s.ring 5).held = [] ∧ launchCores sharing = [0] ∧
    1 ≤ ((s.core 0).freeFor 0).length ∧ s.pops = [] ∧ (s.core 0).watch[0].v = false ∧ bits (sharing.getD 1 0).toNat 32 1 = 0 ∧
    (match s.launchRanges 0 sharing with | .error e => decide (e.2 = 2 ^ 40) | .ok _ => false) = true ∧
    ∀ i < 64, ¬ span 0x32000 64 (s.journalAt 7 + i) := by
  unfold span
  decide +kernel
/-- A population whose only thread has halted. -/
def halted : State := member 0 fun t => { t with state := .done }
/-- PopulationsFinish: no thread is left and every write is answered; a forwarding record that no reset has closed. -/
theorem hyp_PopulationsFinish :
    Memory.wf halted.mem = true ∧ halted.pop? 1 = some (pop 0) ∧ halted.threads (pop 0) = [] ∧ halted.unsettled 1 = false ∧
    (halted.slotAt here).popid = 1 ∧ (halted.slotAt here).state = .done ∧ halted.withheld = [] ∧
    (∀ k ∈ halted.cores, k.2.buffer = [] ∧ k.2.spill = []) ∧ halted.num (halted.fwdRecord 0 + 0x30) 8 ≠ 2 ∧
    (halted.core (halted.num (halted.fwdRecord 0) 8 % 1024)).records = [] := by decide +kernel
/-- What holds of the entries of a map and of what stands for the others holds of every one. -/
theorem get_prop {α : Type} {P : α → Prop} {d : α} {m : SMap α} (hd : P d) (hm : ∀ e ∈ m, P e.2) (q : Nat) : P (SMap.get d m q) := by
  induction m with
  | nil => exact hd
  | cons e m ih =>
    rw [SMap.get]
    split
    · exact hm e (List.mem_cons_self ..)
    · exact ih fun e he => hm e (List.mem_cons_of_mem _ he)
/-- PopulationsFinish: the completion record and the journal entry lie outside barriers, tile tables and mailboxes. -/
theorem hyp_PopulationsFinish_apart :
    let s : State := { halted with jbase := BitVec.ofNat 64 (Config.hbmBase + 0x10000), jlog := 2 }
    (∀ b, span 0x38000 64 b → ¬ span (s.journalAt 7) 64 b) ∧
    ∀ b, span 0x38000 64 b ∨ span (s.journalAt 7) 64 b →
      (∀ i < 4096, ¬ span (s.barAt 0 i) 16 b) ∧ ∀ c, ¬ s.table c b ∧ ¬ span (s.mboxAt c 0 0) 1024 b := by
  intro s
  have j : s.journalAt 7 = Config.hbmBase + 0x100C0 := by decide +kernel
  have base : ∀ c, (s.core c).ttb = 0 ∧ (s.core c).mbt = 0 := by
    have all : ∀ e ∈ s.cores, e.2.ttb = 0 ∧ e.2.mbt = 0 := by decide +kernel
    exact get_prop (P := fun k : Core => k.ttb = 0 ∧ k.mbt = 0) ⟨rfl, rfl⟩ all
  unfold Config.hbmBase at j
  refine ⟨fun b h h' => by have := h.2; have := h'.1; omega, fun b hb => ?_⟩
  have off : 0x38000 ≤ b ∧ 0x10000 ≤ b % 2 ^ 24 := by
    rcases hb with h | h <;> obtain ⟨lo, hi⟩ := h <;> omega
  refine ⟨fun i hi h => ?_, fun c => ⟨fun h => ?_, fun h => ?_⟩⟩
  · have := h.2
    unfold State.barAt at this
    rw [show bits (s.partWord 0 3) 12 44 = 0 by decide +kernel] at this
    omega
  · obtain ⟨lo, hi⟩ := h
    unfold State.tileAt vaultBase at lo hi
    rw [(base c).1] at lo hi
    have : bits (0 : Word).toNat 12 12 = 0 := rfl
    omega
  · obtain ⟨lo, hi⟩ := h
    unfold State.mboxAt vaultBase at lo hi
    rw [(base c).2] at lo hi
    have : (0 : Word).toNat = 0 := rfl
    omega

/-! ### States that meet the hypotheses: the group clock and the service side -/

/-- Package 0 at `now`, in force in group 4 or not, with its own settled limit `own` and the members `ms`. -/
def grouped (in_ : Bool) (own : BitVec 16) (now : Word) (ms : List Member) : State :=
  let s := plainState.modDie 0 fun d => { d with tsc := now }
  { s with group := { Group.reset with gid := 4, self := { Member.start 0 4 own 0 with in_ }, members := ms } }
/-- Member 2 with a limit, in force. -/
def partner (l : BitVec 16) : Member := { Member.start 2 4 l 0 with in_ := true }
/-- Package 0 with changes of its membership to come. -/
def requested (in_ : Bool) (pend : List (Word × Option (BitVec 16))) (now : Word) (ms : List Member) : State :=
  let s := grouped in_ 2000 now ms
  { s with group := { s.group with self := { s.group.self with pend } } }
/-- A control write of member 2 in group 4. -/
def groupMsg (l : BitVec 16) : GroupMsg := { gid := 4, mhz := l, src := 2, time := 9000000, pad := true }
/-- Another package in force in the group. -/
def third : Member := { partner 1500 with pkg := 3 }
/-- The group with `ms`, whose own raise to 2,222 MHz at round 9 is not complete, and what has been heard. -/
def raising (ms : List Member) (heard : List (BitVec 16 × Word)) : State :=
  let s := grouped true 2000 0 ms
  { s with group := { s.group with self := { s.group.self with raise := some (2222, 9000000) }, heard } }
/-- ClockGroup: a tick of none, one and two counts where the last thousand were steady, and one where they were not; a die that is as
far ahead as it may be, and one that counts a watchdog entry whose population is out. -/
theorem hyp_ClockGroup_tick :
    (∀ e : DieId, (plainState.die 0).tsc.toNat + 2 ≤ (plainState.die e.val).tsc.toNat + 20) ∧ 1000 ≤ (plainState.die 0).steady ∧
    ((plainState.modDie 0 fun d => { d with steady := 999 }).die 0).steady < 1000 ∧
    (let s := plainState.modDie 0 fun d => { d with tsc := 20 }
     ∃ e : DieId, (s.die e.val).tsc.toNat + 20 < (s.die 0).tsc.toNat + 1) ∧
    (let s := plainState.modCore 1 fun k => { k with watch := k.watch.set 3 { k.watch[3] with v := true, pop := 7 } }
     (s.core 1).watch[3].v = true ∧ s.occupied (s.core 1).watch[3].pop = false) := by decide +kernel
/-- ClockGroup: a refill with no request and one, and one while issue is held; a ceiling with a silent member, and with no cap. -/
theorem hyp_ClockGroup_refill :
    (plainState.die 0).tsc.toNat % 1000 = 0 ∧ plainState.still = false ∧ (plainState.die 0).asks = [] ∧
    ((plainState.modDie 0 fun d => { d with asks := [{ place := here, cost := 5 }] }).die 0).asks = [{ place := here, cost := 5 }] ∧
    (({ plainState with boot := { plainState.boot with still := some 0 } } : State).still = true) ∧
    (let s := grouped true 2000 0 [{ partner 1500 with silent := true }]
     s.group.others.any Member.silent = true ∧ s.group.cap = none ∧ s.group.inForce.length = 2) := by decide +kernel
/-- ClockGroup: a limit that falls, one that rises with a member and without, one that stays, with a raise and without; stores of a request
to join and to leave, that change what is asked for and that do not. -/
theorem hyp_ClockGroup_limits :
    (let s := grouped true 2000 0 [partner 1500]
     s.group.self.settled.toNat = 2000 ∧ max 1200 (min 3300 (min 1500 s.group.own.toNat)) < 2000 ∧
      2000 < max 1200 (min 3300 (min 2500 s.group.own.toNat)) ∧ max 1200 (min 3300 (min 2000 s.group.own.toNat)) = 2000 ∧
      (∃ m ∈ s.group.others, m.pkg ≠ s.pkg16) ∧ s.group.self.raise = none) ∧
    ((raising [partner 1500] []).group.self.settled.toNat = 2000 ∧ (raising [partner 1500] []).group.self.raise ≠ none) ∧
    ((grouped false 2000 0 []).group.others = [] ∧ (grouped false 2000 0 []).group.talksTo = none ∧ (grouped true 2000 0 []).group.talksTo = some 4) ∧
    (2 ^ 63 + 4 : Word).getLsbD 63 = true ∧ (4 : Word).getLsbD 63 = false ∧
    ((grouped false 2000 0 []).group.aim = none ∧ (grouped true 2000 0 []).group.aim = some 4 ∧
      (requested false [(2, some 4)] 0 []).group.aim = some 4 ∧ (requested true [(2, none)] 0 []).group.aim = none) := by decide +kernel
/-- ClockGroup: the LIMIT of a member in force that falls, and one that rises with a member that has not acknowledged it and with
every one's acknowledgement heard; an ACK of the last member and of one of two. -/
theorem hyp_ClockGroup_writes :
    (let s := grouped true 2000 0 [partner 1500]
     s.group.self.in_ = true ∧ (groupMsg 1500).gid = s.group.self.gid ∧ (groupMsg 1500).pad = true ∧ (groupMsg 1500).src ≠ s.pkg16 ∧
      partner 1500 ∈ s.group.members ∧ (partner 1500).pkg = (groupMsg 1500).src ∧
      (∀ n ∈ s.group.members, n.pkg = (groupMsg 1500).src → n = partner 1500) ∧
      (groupMsg 1499).mhz.toNat < (partner 1500).settled.toNat ∧ (partner 1500).settled.toNat ≤ (groupMsg 1500).mhz.toNat ∧
      ∀ n ∈ s.group.others, n.pkg = 2) ∧
    (let s := raising [partner 1500, third] []
     s.group.self.raise = some (2222, (groupMsg 1500).time) ∧ (∃ n ∈ s.group.others, n.pkg ≠ 2 ∧ n.pkg ≠ s.pkg16 ∧ (n.pkg, (9 : Word)) ∉ s.group.heard) ∧
      ∃ n ∈ s.group.others, n.pkg ≠ s.pkg16 ∧ n.pkg ∉ (groupMsg 1500).src :: s.group.self.acks) ∧
    (let s := raising [partner 1500, third] [(3, 9)]
     ∀ n ∈ s.group.others, n.pkg = 2 ∨ n.pkg = s.pkg16 ∨ (n.pkg, (9 : Word)) ∈ s.group.heard) ∧
    (let s := raising [partner 1500] []
     ∀ n ∈ s.group.others, n.pkg ≠ s.pkg16 → n.pkg ∈ (groupMsg 1500).src :: s.group.self.acks) := by decide +kernel
/-- ClockGroup: a write of a package that is no member, and of one that was expelled; a beat that ends a silence. -/
theorem hyp_ClockGroup_others :
    (∀ m ∈ (grouped true 2000 0 [third]).group.members, m.pkg ≠ (groupMsg 0).src) ∧
    (let s := grouped true 2000 0 [third]
     let s : State := { s with group := { s.group with out := [2] } }
     (groupMsg 0).src ∈ s.group.out) ∧
    (let s := grouped true 2000 0 [{ partner 1500 with silent := true }]
     { partner 1500 with silent := true } ∈ s.group.others ∧ ({ partner 1500 with silent := true } : Member).pkg = (groupMsg 0).src) := by decide +kernel
/-- ClockGroup: a beat, a silence and an expulsion that are due; a membership that takes effect, a join and a leave, of this package and
of another, and one that is not due. -/
theorem hyp_ClockGroup_due :
    (let s := grouped true 2000 100000 []
     s.group.self.in_ = true ∧ 100000 ≤ s.time.toNat - s.group.lastBeat.toNat) ∧
    (let s := grouped true 2000 500000 [partner 1500]
     partner 1500 ∈ s.group.others ∧ (partner 1500).silent = false ∧ 500000 ≤ s.time.toNat - (partner 1500).beat.toNat) ∧
    (let s := grouped true 2000 5000000 [{ partner 1500 with silent := true }]
     5000000 ≤ s.time.toNat - (partner 1500).beat.toNat ∧ { partner 1500 with silent := true } ∈ s.group.others) ∧
    (let s := requested false [(2, some 4)] 2000000 []
     s.group.self.pend = [(2, some 4)] ∧ (2 : Word).toNat ≤ s.time.toNat / 1000000) ∧
    (requested true [(2, none)] 2000000 []).group.self.pend = [(2, none)] ∧
    (∀ m ∈ [{ partner 1500 with in_ := false, pend := [(2, some 4)] }, { partner 1500 with pend := [(2, none)] }, { partner 1500 with pend := [(3, none)] }],
      let s := grouped true 2000 2000000 [m]
      s.group.self.in_ = true ∧ s.group.self.pend = [] ∧ m ∈ s.group.members ∧ ∀ n ∈ s.group.members, n.pkg = m.pkg → n = m) ∧
    (2 : Word).toNat ≤ (2000000 : Word).toNat / 1000000 ∧ (2000000 : Word).toNat / 1000000 < (3 : Word).toNat := by decide +kernel

/-- An error of service data at time 0, seen 2 s later. -/
def quieted : State :=
  let s := plainState.modDie 0 fun d => { d with tsc := 2000000000 }
  { s with boot := { s.boot with quiet := some 0, still := some 0 } }
/-- ServiceEvents: recovery, with an image of no byte; a partition that is to be reset, that is being reset, and whose GO waits; one
that a thread of the small state runs in. Whether the root of trust accepts an image is an opaque predicate, which no state decides. -/
theorem hyp_ServiceEvents_reset :
    ({ plainState with boot := { plainState.boot with recovery := true } } : State).boot.recovery = true ∧ ([] : List Byte).length ≤ 2 ^ 26 ∧
    Memory.wf plainState.mem = true ∧ (plainState.partition 0).busy = false ∧ (plainState.partition 0).go = false ∧ plainState.boot.quiet = none ∧
    (let s := plainState.modPart 0 fun p => { p with busy := true }
     (s.partition 0).busy = true ∧ (s.partition 0).go = false) ∧
    (let s := plainState.modPart 0 fun p => { p with busy := true, go := true }
     (s.partition 0).busy = true ∧ (s.partition 0).go = true ∧ s.boot.quiet = none) ∧
    (let s := plainState.modCore 0 fun k => { k with partmap := 8 }
     (s.core 0).partOf 0 = some 0 ∧ (s.slotAt here).state ≠ .free) := by decide +kernel
/-- ServiceEvents: an error of service data with a SYSCALL that is interrupted, and its 2 s; a thermal hold and resume. -/
theorem hyp_ServiceEvents_quiet :
    quieted.boot.quiet = some 0 ∧ quieted.boot.lapsed = false ∧ (0 : Word).toNat + 2000000000 ≤ quieted.time.toNat ∧ quieted.boot.hot = false ∧
    bits ((plainState.modPart 0 fun p => { p with words := p.words.set 0 (2 ^ 63) }).partWord 0 0) 63 1 = 1 ∧ plainState.boot.hot = false ∧
    (let s : State := { plainState with boot := { plainState.boot with hot := true } }
     s.boot.hot = true ∧ s.boot.quiet = none) := by decide +kernel
/-- Core 1 has failed; its slot 0 waits parked. -/
def failed : State :=
  (State.reset.modCore 1 fun k => { k with vaultErrs := List.replicate 100 (0, 0) }).modSlot { core := 1, slot := 0 } fun t => { t with state := .parked }
/-- ServiceEvents: a core that fails, its threads at boundaries, with spares and with none; spare 0 and the lowest spare where it is taken. -/
theorem hyp_ServiceEvents_core :
    (failed.core 1).absent = false ∧ failed.failing 1 = true ∧
    (∀ l : SlotId, l.val < 15 → ((failed.core 1).slots[l.val].atBoundary = true ∧ failed.stopLocked { core := 1, slot := l } = false) ∨
      (failed.core 1).slots[l.val].state = .parked) ∧ (∀ l : SlotId, (failed.core 1).slots[l.val].mint = none) ∧
    (failed.die 0).spares.getLsbD 0 = true ∧ (∀ p : Part, (failed.partition p.val).go = false) ∧
    ((failed.modDie 0 fun d => { d with spares := 0 }).die 0).spares = 0 ∧
    (let d := (failed.modDie 0 fun d => { d with spares := 6 }).die 0
     d.spares.getLsbD 1 = true ∧ ∀ j < 1, d.spares.getLsbD j = false) := by decide +kernel
/-- ServiceEvents: a page whose line fails, one whose corrected errors pass the limit, and one whose do not; a failed word. -/
theorem hyp_ServiceEvents_page :
    let errs (s : State) : List (Nat × Word) := (s.hbmErrs.filter fun e => decide (s.time.toNat ≤ e.2.toNat + 1000000000)) ++ [(5, s.time)]
    let n (s : State) : Nat := ((errs s).filter fun e => e.1 == 5).length
    (6 : BitVec 512) ≠ 0 ∧ (6 : BitVec 512).getLsbD 1 = true ∧
    (let s : State := { plainState with boot := { plainState.boot with record := { plainState.boot.record with corLim := 0 } } }
     s.boot.record.corLim < n s) ∧
    (let s : State := { plainState with boot := { plainState.boot with record := { plainState.boot.record with corLim := 1 } } }
     ¬ ((0 : BitVec 512) ≠ 0 ∨ s.boot.record.corLim < n s)) := by decide +kernel

/-! ### States that meet the hypotheses: the machine as a whole -/

/-- The small state with a word at the thread's PC. -/
def fetching (w : Nat) : State :=
  let mem := image [(0x10000, [w])]
  { plainState with mem }
/-- StepRunsDecoded, IllegalWords: slot 0, to which the cycle belongs, fetches `nop`, a reserved word, and the two illegal words of R29;
a PC that does not fetch; a core's turn, a device's step, a service core's store and a datagram in the schedule. -/
theorem hyp_StepRunsDecoded :
    (∀ w ∈ [1, 0x12, 0, 0xFFFFFFFF], (fetching w).schedule = [] ∧
      let v : State := { fetching w with fresh := 1 }
      v.issues 0 = true ∧ (v.core 0).cycle % 16 = 0 ∧ (v.core 0).slots[0].state = .ready ∧ (v.core 0).slots[0].pending = none ∧
      (v.core 0).slots[0].yielded = false ∧ (v.core 0).rotLeft.getLsbD 0 = false ∧
      ((v.choose 0).1.any fun t => (t.fetchAt.toOption.any fun q => t.fetchable q == [BitVec.ofNat 32 w])) = true) ∧
    (let s := small fun t => { t with pc := 0x10002 }
     ((({ s with fresh := 1 } : State).choose 0).1.any fun t => t.fetchAt.toOption.isNone) = true) ∧
    ({ plainState with schedule := [.core 3, .event .packageReset] } : State).schedule = .core 3 :: [.event .packageReset] ∧
    encode .packageReset = none ∧
    ({ plainState with schedule := [.service 0x28000 8 5, .datagram 1 [0]] } : State).schedule = .service 0x28000 8 5 :: [.datagram 1 [0]] ∧
    ({ plainState with schedule := [.datagram 1 [0]] } : State).schedule = [.datagram 1 [0]] ∧ plainState.boot.recovery = false ∧
    ({ plainState with boot := { plainState.boot with recovery := true } } : State).boot.recovery = true := by
  decide +kernel
/-- DecodeEncode: the branch with the least and the greatest displacement, and a store pair of words. -/
theorem hyp_DecodeEncode : (Instr.br 15 true 0x3FFFF).wellFormed = true ∧ (encode (.br 15 true 0x3FFFF)).isSome = true ∧
    (Instr.br 0 false 0).wellFormed = true ∧ (encode (.br 0 false 0)).isSome = true := by decide +kernel
/-- StepKeepsMemoryWf: memory with a byte listed, and a step from it. -/
theorem hyp_StepKeepsMemoryWf : Memory.wf (fetching 1).mem = true ∧ Memory.wf State.reset.mem = true := by decide +kernel
/-- … and that step answers a next state. -/
theorem hyp_StepKeepsMemoryWf_step : ∃ t, step (fetching 1) = .next t := ⟨_, rfl⟩

/-! ### Decoding: for every instruction one word, its fields filled at the places that 02_encoding R32-R43 and the tables of the
instruction's chapter give them -/

theorem test_decode_sys :
    decode 0x00000001 = .ok .nop ∧
    decode 0x00000002 = .ok .halt ∧
    decode 0x00000003 = .ok .yield ∧
    decode 0x00143144 = .ok (.trap 5 0xc5) ∧
    decode 0x00000005 = .ok .sret ∧
    decode 0x00000045 = .ok .sretHalt ∧
    decode 0x00000085 = .ok .sretAbort ∧
    decode 0x0002AF06 = .ok (.brk 0xabc) ∧
    decode 0x00C0FD47 = .ok (.crd 3 (.lksta 15)) ∧
    decode 0x00144288 = .ok (.crw 5 .wdwin) ∧
    decode 0x00C00009 = .ok (.tsc 3) ∧
    decode 0x0000000A = .ok .fenceCore ∧
    decode 0x0000004A = .ok .fenceDie ∧
    decode 0x0000008A = .ok .fencePkg ∧
    decode 0x000000CA = .ok .fenceDom ∧
    decode 0x0000010A = .ok .fenceL ∧
    decode 0x0000014A = .ok .fenceCb ∧
    decode 0x0000000B = .ok .phase ∧
    decode 0x0014000C = .ok (.watch 5) ∧
    decode 0x00D4000D = .ok (.waitr 3 5) ∧
    decode 0x0000010E = .ok (.valloc 0x4) ∧
    decode 0x0000000F = .ok .vfree ∧
    decode 0x00140010 = .ok (.admitTake 5) ∧
    decode 0x00C00050 = .ok (.admitEnd 3) ∧
    decode 0x00D40011 = .ok (.clkq 3 5) :=
  by and_intros <;> rfl
theorem test_decode_alu :
    decode 0x04D420C8 = .ok (.add 3 5 (.k 200)) ∧
    decode 0x04D64100 = .ok (.sub 3 5 (.reg 9)) ∧
    decode 0x04D422C8 = .ok (.mul 3 5 (.k 200)) ∧
    decode 0x04D64300 = .ok (.mulh 3 5 (.reg 9)) ∧
    decode 0x04D424C8 = .ok (.mulhn 3 5 (.k 200)) ∧
    decode 0x04D64500 = .ok (.div 3 5 (.reg 9)) ∧
    decode 0x04D426C8 = .ok (.divn 3 5 (.k 200)) ∧
    decode 0x04D64700 = .ok (.rem 3 5 (.reg 9)) ∧
    decode 0x04D428C8 = .ok (.remn 3 5 (.k 200)) ∧
    decode 0x04D64900 = .ok (.and 3 5 (.reg 9)) ∧
    decode 0x04D42AC8 = .ok (.or 3 5 (.k 200)) ∧
    decode 0x04D64B00 = .ok (.xor 3 5 (.reg 9)) ∧
    decode 0x04D42CC8 = .ok (.andn 3 5 (.k 200)) ∧
    decode 0x04D64D00 = .ok (.shl 3 5 (.reg 9)) ∧
    decode 0x04D42EC8 = .ok (.shr 3 5 (.k 200)) ∧
    decode 0x04D64F00 = .ok (.sar 3 5 (.reg 9)) ∧
    decode 0x04D430C8 = .ok (.rol 3 5 (.k 200)) ∧
    decode 0x04D65100 = .ok (.min 3 5 (.reg 9)) ∧
    decode 0x04D432C8 = .ok (.max 3 5 (.k 200)) ∧
    decode 0x04D65300 = .ok (.minn 3 5 (.reg 9)) ∧
    decode 0x04D434C8 = .ok (.maxn 3 5 (.k 200)) ∧
    decode 0x04D65500 = .ok (.lea2 3 5 (.reg 9)) ∧
    decode 0x04D436C8 = .ok (.lea4 3 5 (.k 200)) ∧
    decode 0x04D65700 = .ok (.lea8 3 5 (.reg 9)) ∧
    decode 0x04D438C8 = .ok (.addw 3 5 (.k 200)) :=
  by and_intros <;> rfl
theorem test_decode_unary :
    decode 0x08D40000 = .ok (.clz 3 5) ∧
    decode 0x08D40100 = .ok (.ctz 3 5) ∧
    decode 0x08D40200 = .ok (.pop 3 5) ∧
    decode 0x08D40300 = .ok (.bswap 3 5) ∧
    decode 0x08D40400 = .ok (.sextB 3 5) ∧
    decode 0x08D40500 = .ok (.sextH 3 5) ∧
    decode 0x08D40600 = .ok (.sextW 3 5) ∧
    decode 0x08D40700 = .ok (.zextB 3 5) ∧
    decode 0x08D40800 = .ok (.zextH 3 5) ∧
    decode 0x08D40900 = .ok (.zextW 3 5) ∧
    decode 0x08D40A00 = .ok (.mov 3 5) ∧
    decode 0x08D42BC8 = .ok (.bfx 3 5 (.k 200)) ∧
    decode 0x08D64C00 = .ok (.bfi 3 5 (.reg 9)) :=
  by and_intros <;> rfl
theorem test_decode_compare :
    decode 0x0E9420C8 = .ok (.cmpEq 5 5 (.k 200)) ∧
    decode 0x0E964100 = .ok (.cmpNe 5 5 (.reg 9)) ∧
    decode 0x0E9422C8 = .ok (.cmpLt 5 5 (.k 200)) ∧
    decode 0x0E964300 = .ok (.cmpGe 5 5 (.reg 9)) ∧
    decode 0x0E9424C8 = .ok (.cmpLtn 5 5 (.k 200)) ∧
    decode 0x0E964500 = .ok (.cmpGen 5 5 (.reg 9)) ∧
    decode 0x0E9426C8 = .ok (.tstZ 5 5 (.k 200)) ∧
    decode 0x0E964700 = .ok (.tstNz 5 5 (.reg 9)) :=
  by and_intros <;> rfl
theorem test_decode_imm :
    decode 0x10D6C0DE = .ok (.addi 3 5 0x2c0de) ∧
    decode 0x14D6C0DE = .ok (.andi 3 5 0x2c0de) ∧
    decode 0x18D6C0DE = .ok (.ori 3 5 0x2c0de) ∧
    decode 0x1CD6C0DE = .ok (.xori 3 5 0x2c0de) ∧
    decode 0x20D40025 = .ok (.shli 3 5 37) ∧
    decode 0x20D40065 = .ok (.shri 3 5 37) ∧
    decode 0x20D400A5 = .ok (.sari 3 5 37) ∧
    decode 0x20D400E5 = .ok (.roli 3 5 37) ∧
    decode 0x24C2C0DE = .ok (.lui 3 0x2c0de) ∧
    decode 0x28C020A5 = .ok (.ldk 3 165) :=
  by and_intros <;> rfl
theorem test_decode_cmpi :
    decode 0x2E85BEEF = .ok (.cmpiEq 5 5 0xbeef) ∧
    decode 0x2E95BEEF = .ok (.cmpiNe 5 5 0xbeef) ∧
    decode 0x2EA5BEEF = .ok (.cmpiLt 5 5 0xbeef) ∧
    decode 0x2EB5BEEF = .ok (.cmpiGe 5 5 0xbeef) ∧
    decode 0x2EC5BEEF = .ok (.cmpiLtn 5 5 0xbeef) ∧
    decode 0x2ED5BEEF = .ok (.cmpiGen 5 5 0xbeef) :=
  ⟨rfl, rfl, rfl, rfl, rfl, rfl⟩
theorem test_decode_predicate :
    decode 0x32AE0000 = .ok (.pand 5 2 7) ∧
    decode 0x32AE0001 = .ok (.por 5 2 7) ∧
    decode 0x32AE0002 = .ok (.pxor 5 2 7) ∧
    decode 0x32AE0003 = .ok (.pandn 5 2 7) ∧
    decode 0x32A00004 = .ok (.pnot 5 2) ∧
    decode 0x32A00005 = .ok (.pmov 5 2) ∧
    decode 0x34D66800 = .ok (.sel 3 5 9 5) :=
  ⟨rfl, rfl, rfl, rfl, rfl, rfl, rfl⟩
theorem test_decode_memory :
    decode 0x42F32F01 = .ok (.ld 11 .d (.off 12 0x2F01)) ∧
    decode 0x46F17FFF = .ok (.ldz 11 .h (.post 12 0x3FFF)) ∧
    decode 0x4AF1A400 = .ok (.st 11 .h (.idx 12 9)) ∧
    decode 0x4EC2C0A5 = .ok (.stp 11 .w (.kAddr 0xA5)) :=
  ⟨rfl, rfl, rfl, rfl⟩
theorem test_decode_atomic :
    decode 0x50D65000 = .ok (.amoAdd 3 5 9 .d) ∧
    decode 0x50D64100 = .ok (.amoAnd 3 5 9 .w) ∧
    decode 0x50D65200 = .ok (.amoOr 3 5 9 .d) ∧
    decode 0x50D64300 = .ok (.amoXor 3 5 9 .w) ∧
    decode 0x50D65400 = .ok (.amoMin 3 5 9 .d) ∧
    decode 0x50D64500 = .ok (.amoMax 3 5 9 .w) ∧
    decode 0x50D65600 = .ok (.amoMinn 3 5 9 .d) ∧
    decode 0x50D64700 = .ok (.amoMaxn 3 5 9 .w) ∧
    decode 0x50D65800 = .ok (.amoSwap 3 5 9 .d) ∧
    decode 0x54D64000 = .ok (.cas 3 5 9 .w) :=
  by and_intros <;> rfl
theorem test_decode_vatomic :
    decode 0x5A958000 = .ok (.vamoAddI32 41 5 2) ∧
    decode 0x5A958001 = .ok (.vamoMinI32 41 5 2) ∧
    decode 0x5A958002 = .ok (.vamoMaxI32 41 5 2) ∧
    decode 0x5A958003 = .ok (.vamoMinnN32 41 5 2) ∧
    decode 0x5A958004 = .ok (.vamoMaxnN32 41 5 2) ∧
    decode 0x5A958005 = .ok (.vamoAnd 41 5 2) ∧
    decode 0x5A958006 = .ok (.vamoOr 41 5 2) ∧
    decode 0x5A958007 = .ok (.vamoXor 41 5 2) ∧
    decode 0x5A958008 = .ok (.vamoAddF32 41 5 2) ∧
    decode 0x5A958009 = .ok (.vamoMinF32 41 5 2) ∧
    decode 0x5A95800A = .ok (.vamoMaxF32 41 5 2) ∧
    decode 0x5A95800B = .ok (.vamoAddBf16 41 5 2) :=
  by and_intros <;> rfl
theorem test_decode_branch :
    decode 0x62C2C0DE = .ok (.br 5 true 0x2c0de) ∧
    decode 0x66D6C0DE = .ok (.bdec 5 true 5 0x2c0de) ∧
    decode 0x6802C0DE = .ok (.call 0x2c0de) ∧
    decode 0x6C140000 = .ok (.jmp 5) ∧
    decode 0x6C140100 = .ok (.callr 5) ∧
    decode 0x6C000200 = .ok .ret ∧
    decode 0x72A9BEEF = .ok (.brst 42 0x9 0xbeef) :=
  ⟨rfl, rfl, rfl, rfl, rfl, rfl, rfl⟩
theorem test_decode_vi :
    decode 0x82348760 = .ok (.vaddI32 35 18 7 3) ∧
    decode 0x82348761 = .ok (.vsubI32 35 18 7 3) ∧
    decode 0x82348762 = .ok (.vmulI32 35 18 7 3) ∧
    decode 0x82348763 = .ok (.vmulhI32 35 18 7 3) ∧
    decode 0x82348764 = .ok (.vminI32 35 18 7 3) ∧
    decode 0x82348765 = .ok (.vmaxI32 35 18 7 3) ∧
    decode 0x82348766 = .ok (.vminnI32 35 18 7 3) ∧
    decode 0x82348767 = .ok (.vmaxnI32 35 18 7 3) ∧
    decode 0x82348768 = .ok (.vandI32 35 18 7 3) ∧
    decode 0x82348769 = .ok (.vorI32 35 18 7 3) ∧
    decode 0x8234876A = .ok (.vxorI32 35 18 7 3) ∧
    decode 0x8234876B = .ok (.vshlI32 35 18 7 3) ∧
    decode 0x8234876C = .ok (.vshrI32 35 18 7 3) ∧
    decode 0x8234876D = .ok (.vsarI32 35 18 7 3) ∧
    decode 0x8234806E = .ok (.vabsI32 35 18 3) ∧
    decode 0x8234806F = .ok (.vnegI32 35 18 3) ∧
    decode 0x82348770 = .ok (.vaddsI32 35 18 7 3) ∧
    decode 0x82348771 = .ok (.vsubsI32 35 18 7 3) :=
  by and_intros <;> rfl
theorem test_decode_vf :
    decode 0x86348760 = .ok (.vaddF32 35 18 7 3) ∧
    decode 0x86348761 = .ok (.vsubF32 35 18 7 3) ∧
    decode 0x86348762 = .ok (.vmulF32 35 18 7 3) ∧
    decode 0x86348763 = .ok (.vdivF32 35 18 7 3) ∧
    decode 0x86348064 = .ok (.vsqrtF32 35 18 3) ∧
    decode 0x86348765 = .ok (.vminF32 35 18 7 3) ∧
    decode 0x86348766 = .ok (.vmaxF32 35 18 7 3) ∧
    decode 0x86348067 = .ok (.vabsF32 35 18 3) ∧
    decode 0x86348068 = .ok (.vnegF32 35 18 3) ∧
    decode 0x86348069 = .ok (.vrcpF32 35 18 3) ∧
    decode 0x8634806A = .ok (.vrsqrtF32 35 18 3) ∧
    decode 0x8634806B = .ok (.vexp2F32 35 18 3) ∧
    decode 0x8634806C = .ok (.vlog2F32 35 18 3) ∧
    decode 0x8634806D = .ok (.vfloorF32 35 18 3) ∧
    decode 0x8634806E = .ok (.vceilF32 35 18 3) ∧
    decode 0x8634806F = .ok (.vrintF32 35 18 3) :=
  by and_intros <;> rfl
theorem test_decode_vh :
    decode 0x8A348760 = .ok (.vaddH 35 18 7 3 .f16) ∧
    decode 0x8A348771 = .ok (.vsubH 35 18 7 3 .bf16) ∧
    decode 0x8A348762 = .ok (.vmulH 35 18 7 3 .f16) ∧
    decode 0x8A348773 = .ok (.vminH 35 18 7 3 .bf16) ∧
    decode 0x8A348764 = .ok (.vmaxH 35 18 7 3 .f16) ∧
    decode 0x8A348075 = .ok (.vabsH 35 18 3 .bf16) ∧
    decode 0x8A348066 = .ok (.vnegH 35 18 3 .f16) :=
  ⟨rfl, rfl, rfl, rfl, rfl, rfl, rfl⟩
theorem test_decode_vd :
    decode 0x8E348770 = .ok (.vaddD 35 18 7 3 .i64) ∧
    decode 0x8E348761 = .ok (.vsubD 35 18 7 3 .f64) ∧
    decode 0x8E348772 = .ok (.vmulD 35 18 7 3 .i64) ∧
    decode 0x8E348763 = .ok (.vdivF64 35 18 7 3) ∧
    decode 0x8E348064 = .ok (.vsqrtF64 35 18 3) ∧
    decode 0x8E348765 = .ok (.vminD 35 18 7 3 .f64) ∧
    decode 0x8E348776 = .ok (.vmaxD 35 18 7 3 .i64) :=
  ⟨rfl, rfl, rfl, rfl, rfl, rfl, rfl⟩
theorem test_decode_vfma :
    decode 0x923487D0 = .ok (.vfma 35 18 7 52 .f32) :=
  rfl
theorem test_decode_vcmp :
    decode 0x94648768 = .ok (.vcmpEq 6 18 7 3 .f32) ∧
    decode 0x94648771 = .ok (.vcmpNe 6 18 7 3 .f16) ∧
    decode 0x9464877A = .ok (.vcmpLt 6 18 7 3 .f64) ∧
    decode 0x94648763 = .ok (.vcmpGe 6 18 7 3 .i32) ∧
    decode 0x94648764 = .ok (.vcmpLtn 6 18 7 3) ∧
    decode 0x94648765 = .ok (.vcmpGen 6 18 7 3) ∧
    decode 0x9464877E = .ok (.vcmpUnord 6 18 7 3 .f64) ∧
    decode 0x9464877F = .ok (.vcmpOrd 6 18 7 3 .f64) :=
  by and_intros <;> rfl
theorem test_decode_vmem :
    decode 0x9A95018B = .ok (.vld 41 5 3 11) ∧
    decode 0x9A95019B = .ok (.vst 41 5 3 11) ∧
    decode 0x9A951DAB = .ok (.vlds 41 5 7 3 11) ∧
    decode 0x9A951DBB = .ok (.vsts 41 5 7 3 11) ∧
    decode 0x9A9535C2 = .ok (.vgath 41 5 13 3 2) ∧
    decode 0x9A9535D2 = .ok (.vscat 41 5 13 3 2) :=
  ⟨rfl, rfl, rfl, rfl, rfl, rfl⟩
theorem test_decode_vmisc :
    decode 0x9E394060 = .ok (.vbcast 35 .h 5 3) ∧
    decode 0x9E74A501 = .ok (.vextr .h 7 18 37) ∧
    decode 0x9E396502 = .ok (.vins 35 .h 5 37) ∧
    decode 0x9E348063 = .ok (.vredAddF32 35 18 3) ∧
    decode 0x9E348064 = .ok (.vredMaxF32 35 18 3) ∧
    decode 0x9E348065 = .ok (.vredAddI32 35 18 3) ∧
    decode 0x9E348066 = .ok (.vredMaxI32 35 18 3) ∧
    decode 0x9E348767 = .ok (.vperm 35 18 7 3) ∧
    decode 0x9E348768 = .ok (.vsel 35 18 7 3) ∧
    decode 0x9E348A69 = .ok (.vcvt 35 18 .f64i64 3) ∧
    decode 0x9E34850A = .ok (.vunpk 35 18 5 .ps2) ∧
    decode 0x9E34852B = .ok (.vpack 35 18 5 .ps4) ∧
    decode 0x9E34874C = .ok (.baddq 35 18 7 .ps7) ∧
    decode 0x9E34806D = .ok (.vmov 35 18 3) ∧
    decode 0x9E30006E = .ok (.viota 35 3) :=
  by and_intros <;> rfl
theorem test_decode_tile :
    decode 0xA2A000A5 = .ok (.tldef 42 165) ∧
    decode 0xA2A541A5 = .ok (.tlring 42 21 165) ∧
    decode 0xA2A00200 = .ok (.tlwaitR 42) ∧
    decode 0xA2A00300 = .ok (.tlwaitE 42) ∧
    decode 0xA2A00400 = .ok (.tlcons 42) ∧
    decode 0xA2A0C500 = .ok (.tlstat 42 3) ∧
    decode 0xA2A00600 = .ok (.tlfree 42) ∧
    decode 0xA2A00700 = .ok (.tlpub 42) ∧
    decode 0xA2A00800 = .ok (.tlopen 42) :=
  by and_intros <;> rfl
theorem test_decode_matrix :
    decode 0xA40560A5 = .ok (.wload 21 2 165) ∧
    decode 0xA6A561A5 = .ok (.mma 42 21 2 165) ∧
    decode 0xA6A562A5 = .ok (.mmaz 42 21 2 165) ∧
    decode 0xA4002300 = .ok (.wdrop 2) :=
  ⟨rfl, rfl, rfl, rfl⟩
theorem test_decode_copy :
    decode 0xAAA000A5 = .ok (.tcopyIn 42 165) ∧
    decode 0xA80541A5 = .ok (.tcopyOut 21 165) ∧
    decode 0xAAA002A5 = .ok (.dec 42 165) ∧
    decode 0xAAA003A5 = .ok (.tfill 42 165) ∧
    decode 0xAAA544A5 = .ok (.tconv 42 21 165) :=
  ⟨rfl, rfl, rfl, rfl, rfl⟩
theorem test_decode_mint :
    decode 0xC118C000 = .ok (.gcopy 4 6 3) ∧
    decode 0xC118C100 = .ok (.gsend 4 6 3) ∧
    decode 0xC118C200 = .ok (.gcmp 4 6 3) ∧
    decode 0xC118C300 = .ok (.ghash 4 6 3) ∧
    decode 0xC118C400 = .ok (.grel 4 6 3) ∧
    decode 0xC118C500 = .ok (.oalloc 4 6 3) ∧
    decode 0xC1000600 = .ok (.lmdef 4) ∧
    decode 0xC118C700 = .ok (.gland 4 6 3) :=
  by and_intros <;> rfl
theorem test_decode_message :
    decode 0xC5669D02 = .ok (.send 5 9 41 13 2) ∧
    decode 0xC5429D08 = .ok (.recv 5 41 13) ∧
    decode 0xC5669009 = .ok (.recvSet 5 9 41) ∧
    decode 0xC5429D10 = .ok (.peek 5 41 13) ∧
    decode 0xC5669011 = .ok (.peekSet 5 9 41) ∧
    decode 0xC5669D1A = .ok (.req 5 9 41 13 2) ∧
    decode 0xC5400D20 = .ok (.mbxdef 5 13) ∧
    decode 0xC5400D28 = .ok (.mbxq 5 13) :=
  by and_intros <;> rfl
theorem test_decode_vtime :
    decode 0xC8000000 = .ok .evend ∧
    decode 0xC8C00001 = .ok (.vtgetLvt 3) ∧
    decode 0xC8C00041 = .ok (.vtgetGvt 3) ∧
    decode 0xC8C00081 = .ok (.vtgetEvid 3) ∧
    decode 0xC8D40002 = .ok (.escst 3 5) ∧
    decode 0xC8000003 = .ok .escwait :=
  ⟨rfl, rfl, rfl, rfl, rfl, rfl⟩
theorem test_decode_task :
    decode 0xCCD420C8 = .ok (.tasknew 3 5 (.k 200)) ∧
    decode 0xCC140100 = .ok (.taskdec 5) :=
  ⟨rfl, rfl⟩
theorem test_decode_barrier :
    decode 0xD0D40000 = .ok (.barnew 3 5) ∧
    decode 0xD0D40100 = .ok (.bararr 3 5) ∧
    decode 0xD01422C8 = .ok (.barwait 5 (.k 200)) ∧
    decode 0xD0D40300 = .ok (.bararw 3 5) ∧
    decode 0xD0140400 = .ok (.barfree 5) :=
  ⟨rfl, rfl, rfl, rfl, rfl⟩
theorem test_decode_spawn :
    decode 0xD4D64000 = .ok (.spawn 3 5 (.reg 9)) ∧
    decode 0xD4D40100 = .ok (.migr 3 5) ∧
    decode 0xD4D40200 = .ok (.slotq 3 5) :=
  ⟨rfl, rfl, rfl⟩
theorem test_decode_ticket :
    decode 0xD8164000 = .ok (.tkget 5 9) ∧
    decode 0xD8D40100 = .ok (.tkwait 3 5) ∧
    decode 0xD81422C8 = .ok (.tkdone 5 (.k 200)) ∧
    decode 0xD8C00300 = .ok (.fdrain 3) :=
  ⟨rfl, rfl, rfl, rfl⟩
theorem test_decode_link :
    decode 0xDCD40640 = .ok (.lkey 3 5 1 9) ∧
    decode 0xDCC00241 = .ok (.lksw 3 9) ∧
    decode 0xDC140242 = .ok (.lkinj 5 9) ∧
    decode 0xDCC00243 = .ok (.lkstat 3 9) :=
  ⟨rfl, rfl, rfl, rfl⟩
theorem test_decode_context :
    decode 0xE0D40000 = .ok (.ctxsave 3 5) ∧
    decode 0xE0D40040 = .ok (.ctxsaveEvict 3 5) ∧
    decode 0xE0D40001 = .ok (.ctxload 3 5) ∧
    decode 0xE0D40002 = .ok (.ctxkeyNew 3 5) ∧
    decode 0xE0140042 = .ok (.ctxkeySel 5) ∧
    decode 0xE0D40082 = .ok (.ctxkeyBind 3 5) ∧
    decode 0xE01400C2 = .ok (.ctxkeyFree 5) ∧
    decode 0xE0D40003 = .ok (.shdef 3 5) :=
  by and_intros <;> rfl

/-! ### Words that do not decode, and terms that are not well formed -/

/-- Words that 02_encoding R29, R43 and the tables of the chapters name as no instruction. -/
theorem test_decode_reserved :
    (decode 0x00000000).toOption = none ∧ (decode 0xFFFFFFFF).toOption = none ∧ (decode 0x00000012).toOption = none ∧
    (decode 0x000001CA).toOption = none ∧ (decode 0x04000101).toOption = none ∧ (decode 0xE000003F).toOption = none := by decide +kernel
/-- The worked encodings of the spec: 02_encoding R32, 06_scalar, 07_vector, 11_matrix. -/
theorem test_decode_worked :
    decode 0x04C48000 = .ok (.add 3 1 (.reg 2)) ∧ decode 0x61C3FFFB = .ok (.br 3 true 0x3FFFB) ∧ decode 0x28802000 = .ok (.ldk 2 0) ∧
    decode 0x68000007 = .ok (.call 7) ∧ decode 0x9C61C02B = .ok (.vpack 6 7 0 .ps4) ∧ decode 0x9C81802A = .ok (.vunpk 8 6 0 .ps4) ∧
    decode 0xA4204214 = .ok (.mmaz 2 1 0 20) ∧ decode 0x0000004E = .ok (.valloc 1) := by and_intros <;> rfl
/-- Each rule of WellFormed refuses a term that breaks it, and passes one beside it; a term that is refused has no word, and the word
that the fields would spell does not decode. -/
theorem test_wellFormed :
    ((Instr.ld 5 .d (.post 5 8)).wellFormed = false ∧ (Instr.ld 5 .d (.post 6 8)).wellFormed = true) ∧
    ((Instr.ldz 5 .h (.post 5 8)).wellFormed = false ∧ (Instr.ldz 5 .d (.off 6 8)).wellFormed = false) ∧
    ((Instr.stp 5 .b (.off 6 8)).wellFormed = false ∧ (Instr.stp 5 .h (.off 6 8)).wellFormed = false) ∧
    ((Instr.br 0 true 4).wellFormed = false ∧ (Instr.br 0 false 4).wellFormed = true ∧ (Instr.bdec 0 true 1 4).wellFormed = false) ∧
    ((Instr.brst 1 0 4).wellFormed = false ∧ (Instr.valloc 0).wellFormed = false ∧ (Instr.valloc 5).wellFormed = false) ∧
    ((Instr.crw 1 .pc).wellFormed = false ∧ (Instr.crw 1 .frm).wellFormed = true) ∧
    ((Instr.vextr .d 1 2 16).wellFormed = false ∧ (Instr.vins 1 .w 2 32).wellFormed = false) ∧
    ((Instr.vcmpUnord 1 2 3 0 .i32).wellFormed = false ∧ (Instr.vcmpOrd 1 2 3 0 .i32).wellFormed = false) ∧
    ((Instr.vunpk 1 2 10 .ps4).wellFormed = false ∧ (Instr.vpack 1 2 7 .ps7).wellFormed = false) ∧
    ((Instr.tldef 1 253).wellFormed = false ∧ (Instr.wload 1 0 253).wellFormed = false ∧ (Instr.mma 1 2 0 253).wellFormed = false ∧
      (Instr.mmaz 1 2 0 253).wellFormed = false ∧ (Instr.tcopyIn 1 253).wellFormed = false ∧ (Instr.tcopyOut 1 253).wellFormed = false ∧
      (Instr.dec 1 253).wellFormed = false ∧ (Instr.tfill 1 253).wellFormed = false ∧ (Instr.tconv 1 2 253).wellFormed = false) := by decide +kernel
/-- The words that those fields would spell do not decode (02_encoding R36-R40, R43, 07_vector R124, R126). -/
theorem test_decode_ill_formed :
    (decode 0x41574008).toOption = none ∧
    (decode 0x60400004).toOption = none ∧ (decode 0x70100004).toOption = none ∧ (decode 0x0000000E).toOption = none ∧
    (decode 0x00040008).toOption = none ∧ (decode 0x9410C006).toOption = none ∧ (decode 0xA01000FD).toOption = none := by decide +kernel
/-- `decodeTableWord` and `withFetchWord`: the word `nop`, placed where the machine fetches after reset, runs as the first
instruction. -/
theorem test_first_instruction : decodeTableWord 32 1 = some .nop := by decide +kernel
theorem test_first_step : (match step (State.reset.withFetchWord 32 1) with
    | .next t => t.me.pc == Config.firmwareEntry + 4 | _ => false) = true := by decide +kernel

/-! ### Single steps with results from the spec -/

/-- What a test sees of the state that an instruction answers. -/
def after (i : Instr) (s : State) (f : State → Bool) : Bool := match exec i s with | .next t => f t | _ => false
/-- The thread with x1 and x2. -/
def two (a b : Word) : State := small fun t => (t.setX 1 a).setX 2 b

/-- 05_numbers R84: wrapping, a shift amount modulo 64, truncation toward zero, division by 0 and of the least value by −1. -/
theorem test_arithmetic :
    after (.add 3 1 (.reg 2)) (two (BitVec.allOnes 64) 2) (fun t => t.x 3 == 1) = true ∧
    after (.shl 3 1 (.reg 2)) (two 5 65) (fun t => t.x 3 == 10) = true ∧
    after (.div 3 1 (.reg 2)) (two (-7) 2) (fun t => t.x 3 == -3) = true ∧
    after (.rem 3 1 (.reg 2)) (two (-7) 2) (fun t => t.x 3 == -1) = true ∧
    after (.div 3 1 (.reg 2)) (two 7 0) (fun t => t.x 3 == BitVec.allOnes 64) = true ∧
    after (.rem 3 1 (.reg 2)) (two (2 ^ 63) (-1)) (fun t => t.x 3 == 0) = true := by decide +kernel
/-- 06_scalar R107, the two examples; a destination that is a source. -/
theorem test_bit_fields :
    after (.bfx 3 1 (.reg 2)) (two 0xABCD 0x0704) (fun t => t.x 3 == 0xBC) = true ∧
    after (.bfi 3 1 (.reg 2)) (small fun t => (t.setX 2 0x0304).setX 3 0xFFFF) (fun t => t.x 3 == 0xFF0F) = true := by decide +kernel
/-- 06_scalar, the trace: `call` at T + 4 writes T + 8 and goes to T + 0x24; `br` goes back five words from the next. -/
theorem test_branches :
    after (.call 7) (small fun t => { t with pc := 0x10004 }) (fun t => t.x 15 == 0x10008 && t.me.pc == 0x10024) = true ∧
    after (.br 3 true 0x3FFFB) plainState (fun t => t.me.pc == 0x10004 - 20) = true := by decide +kernel
/-- 06_scalar, the trace: k0 reaches x2. -/
theorem test_ldk : (let s : State := { plainState with mem := image [(0xC000, [0x2108421084450082])] }
    after (.ldk 2 0) s fun t => t.x 2 == 0x2108421084450082) = true := by decide +kernel
/-- 02_encoding R44, 08_slots R145-R147: a tenant's `crw` of TTB traps PRIV with its word; `trap 7` is a record with the next PC. -/
theorem test_traps :
    after (.crw 1 .ttb) plainState (fun t => (t.core 0).records ==
      [{ pop := 1, cause := .priv, sub := 0, slot := 0, async := false, tval := 0x00044008, tpc := 0x10000, tts := 0 }]) = true ∧
    after (.trap 2 7) (two 0 9) (fun t => (t.core 0).records ==
      [{ pop := 1, cause := .syscall, sub := 7, slot := 0, async := false, tval := 9, tpc := 0x10004, tts := 0 }] && t.me.state == .parked) = true := by
  decide +kernel
/-- 02_encoding R29: a core that fetches 0 traps ILLOP with the word. -/
theorem test_illegal_word : (match step (fetching 0) with
    | .next t => (t.core 0).records.map TrapRec.cause == [.illop] && t.me.state == .parked | _ => false) = true := by decide +kernel
/-- 04_registers, the trace: `valloc 16` gives sixteen zero registers and full masks; `vfree` takes them back. -/
theorem test_valloc :
    after (.valloc 1) plainState (fun t => t.me.v == List.replicate 16 0 && t.me.m.toList.drop 1 == List.replicate 7 (BitVec.allOnes 32)) = true ∧
    after .vfree vectors (fun t => t.me.v == []) = true := by decide +kernel

/-- The thread with v0, v1, v2 and v7. -/
def vecs (a b c d : Vec) : State :=
  small fun t => { t with v := (((List.replicate 16 0).set 0 a).set 1 b |>.set 2 c).set 7 d, m := Vector.replicate 8 (BitVec.allOnes 32) }
/-- 07_vector, the trace: the lanes 5, 1, 0, 6 and 2, 4, 7, 6 give mask 6; the sum of two lanes of 1 is 2. -/
theorem test_vector_compare :
    after (.vcmpLt 1 0 1 0 .i32) (vecs (ofLanes 32 [5, 1, 0, 6]) (ofLanes 32 [2, 4, 7, 6]) 0 0) (fun t => t.me.m[1] == 6) = true ∧
    after (.vredAddI32 5 2 0) (vecs 0 0 (ofLanes 32 [0, 1, 1, 0]) 0) (fun t => laneOf 32 (t.v 5) 0 == 2) = true := by decide +kernel
/-- 05_numbers, the hand example: 3.0, −0.75, 0.4, −0.3125 and zeros as a PS4 block; 07_vector: what `vunpk` gives back. -/
theorem test_vpack :
    after (.vpack 6 7 0 .ps4) (vecs 0 0 0 (ofLanes 32 [0x40400000, 0xBF400000, 0x3ECCCCCD, 0xBEA00000]))
      (fun t => t.v 6 == 0x090E6CFE80 && t.me.fflags == 0) = true ∧
    after (.vunpk 8 0 0 .ps4) (vecs 0x090E6CFE80 0 0 0) (fun t => (List.range 5).map (laneOf 32 (t.v 8)) ==
      [0x40400000, 0xBF400000, 0x3EC00000, 0xBE800000, 0]) = true := by decide +kernel
/-- 05_numbers R86, R87: 1 + 1, 1 / 3 to nearest with NX, and 1 / 0 with DZ. -/
theorem test_float :
    after (.vaddF32 2 0 1 0) (vecs (ofLanes 32 [0x3F800000]) (ofLanes 32 [0x3F800000]) 0 0) (fun t => laneOf 32 (t.v 2) 0 == 0x40000000) = true ∧
    after (.vdivF32 2 0 1 0) (vecs (ofLanes 32 (List.replicate 32 0x3F800000)) (ofLanes 32 (List.replicate 32 0x40400000)) 0 0)
      (fun t => laneOf 32 (t.v 2) 0 == 0x3EAAAAAB) = true := by decide +kernel
/-- 10_access R176, R180, R182: a load of a half with its sign; an atomic add that wraps; a `cas` that compares equal. -/
theorem test_memory :
    (let s : State := { priv with mem := image [(0x10100, [0x8001])] }
     after (.ld 3 .h (.off 1 0)) s fun t => t.x 3 == (0x8001 : BitVec 16).signExtend 64) = true ∧
    (let s : State := { priv with mem := image [(0x10100, [0xFFFFFFFF])] }
     after (.amoAdd 3 1 1 .w) s fun t => t.num 0x10100 8 == 0x100FF && t.x 3 == (0xFFFFFFFF : BitVec 32).signExtend 64) = true ∧
    after (.cas 2 1 1 .w) priv (fun t => t.num 0x10100 8 == 0x10100 && t.x 2 == 0) = true := by decide +kernel

/-! ### The published algorithms, on the vectors that their standards publish -/

/-- FIPS 197 C.3: AES-256. -/
theorem test_aes : aesBlock (roundKeys (ofBytesBE ((List.range 32).map (BitVec.ofNat 8)))) 0x00112233445566778899AABBCCDDEEFF =
    0x8EA2B7CA516745BFEAFC49904B496089 := by decide +kernel
/-- GCM, the test case of a zero key and IV with 16 zero bytes: ciphertext and tag. -/
theorem test_gcm : gcmSeal 0 0 [] (List.replicate 16 0) =
    (toBytesBE 16 0xCEA7403D4D606B6E074EC5D3BAF39D18, toBytesBE 16 0xD0D1C8A799996BF0265B98B5D48AB919) := by decide +kernel
/-- FIPS 180-4: SHA-256 of "abc". -/
theorem test_sha256 : ofBytesBE (sha256 [0x61, 0x62, 0x63]) =
    0xBA7816BF8F01CFEA414140DE5DAE2223B00361A396177A9CB410FF61F20015AD := by decide +kernel
/-- CRC-32C of "123456789". -/
theorem test_crc32c : crc32c ((List.range 9).map fun i => BitVec.ofNat 8 (0x31 + i)) = 0xE3069283 := by decide +kernel

end Sys2Proof.Tests
end

section
/-! SUPPORT. What committed words read back as, and the steps that leave populations and threads, with the bytes of memory that they may
change; the completion record and the journal entry as such steps (14_queues R258, R259). -/

namespace Sys2Proof.Machine

/-! ### Reading committed bytes -/

theorem Memory.read_congr {m m' : List Host.Cell} {q n : Nat} (h : ∀ b, span q n b → Memory.get m b = Memory.get m' b) :
    Memory.read m q n = Memory.read m' q n := by
  induction n generalizing q with
  | zero => rfl
  | succ n ih =>
    rw [Memory.read, Memory.read, h q ⟨Nat.le_refl _, by omega⟩]
    rw [ih fun b ⟨lo, hi⟩ => h b ⟨by omega, by omega⟩]

/-- A number whose bytes read the same is the same. -/
theorem State.num_congr {s t : State} {q n : Nat} (h : ∀ b, span q n b → Memory.get t.mem b = Memory.get s.mem b) :
    t.num q n = s.num q n := by
  unfold State.num State.bytes
  rw [Memory.read_congr h]

theorem State.num_commitAt_self {s : State} (q : Nat) (bs : List Byte) (h : Memory.wf s.mem = true) :
    (s.commitAt q bs).num q bs.length = ofBytes bs := by
  simp only [State.num, State.bytes, State.commitAt_mem, Memory.read_write_cells q bs h]

theorem State.num_commitWord_self {s : State} (q : Nat) (v : Word) (h : Memory.wf s.mem = true) :
    (s.commitWord q v).num q 8 = v.toNat := by
  have hn := State.num_commitAt_self q (toBytes 8 v.toNat) h
  rw [toBytes_length, ofBytes_toBytes] at hn
  exact hn.trans (Nat.mod_eq_of_lt v.isLt)

/-- Bytes that become committed leave the bytes outside their span. -/
theorem State.commitAt_bytesBut {s : State} (q : Nat) (bs : List Byte) (h : Memory.wf s.mem = true) :
    BytesBut (span q bs.length) s (s.commitAt q bs) := fun b hb => by
  rw [State.commitAt_mem]
  refine Memory.get_write_ne h fun e he => ?_
  rintro rfl
  exact hb (cells_le e he)

/-! ### Cores whose threads stand where they stood -/

/-- Each slot has the state and the population it had, and the tables of the core lie where they lay. -/
structure Core.Alike (k l : Core) : Prop where
  state : ∀ i : SlotId, l.slots[i.val].state = k.slots[i.val].state
  popid : ∀ i : SlotId, l.slots[i.val].popid = k.slots[i.val].popid
  ttb : l.ttb = k.ttb
  mbt : l.mbt = k.mbt

theorem Core.Alike.refl (k : Core) : k.Alike k := ⟨fun _ => rfl, fun _ => rfl, rfl, rfl⟩

theorem Core.Alike.trans {k l m : Core} (h : k.Alike l) (h' : l.Alike m) : k.Alike m :=
  ⟨fun i => (h'.state i).trans (h.state i), fun i => (h'.popid i).trans (h.popid i), h'.ttb.trans h.ttb, h'.mbt.trans h.mbt⟩

/-- A change of other fields than these keeps a core alike. -/
theorem Core.Alike.of_eq {k l : Core} (slots : l.slots = k.slots) (ttb : l.ttb = k.ttb) (mbt : l.mbt = k.mbt) : k.Alike l :=
  ⟨fun i => by rw [slots], fun i => by rw [slots], ttb, mbt⟩

theorem Core.Alike.fire (k : Core) (ws : List (Nat × Byte)) : k.Alike (k.fire ws) := by
  refine ⟨fun i => ?_, fun i => ?_, rfl, rfl⟩ <;>
  · simp only [Core.fire, Vector.getElem_map]
    split
    · split <;> rfl
    · rfl

/-- What a map holds after every listed value is changed by `f`; a key that is not listed keeps the default. -/
theorem SMap.get_map {α : Type} (d : α) (f : α → α) (m : SMap α) (q : Nat) :
    SMap.get d (m.map fun e => (e.1, f e.2)) q = f (SMap.get d m q) ∨
      (SMap.get d (m.map fun e => (e.1, f e.2)) q = d ∧ SMap.get d m q = d) := by
  induction m with
  | nil => exact .inr ⟨rfl, rfl⟩
  | cons e m ih =>
    simp only [List.map_cons, SMap.get]
    split
    · exact .inl rfl
    · exact ih

/-! ### Steps that leave every population and thread -/

/-- The populations are the same, and every core is alike. -/
structure KeepsThreads (s t : State) : Prop where
  pops : t.pops = s.pops
  cores : ∀ c, (s.core c).Alike (t.core c)

namespace KeepsThreads

theorem refl (s : State) : KeepsThreads s s := ⟨rfl, fun _ => .refl _⟩

theorem trans {s t u : State} (h : KeepsThreads s t) (h' : KeepsThreads t u) : KeepsThreads s u :=
  ⟨h'.pops.trans h.pops, fun c => (h.cores c).trans (h'.cores c)⟩

/-- A change of other fields than these. -/
theorem of_eq {s t : State} (pops : t.pops = s.pops := by rfl) (cores : t.cores = s.cores := by rfl) : KeepsThreads s t :=
  ⟨pops, fun c => by unfold State.core; rw [cores]; exact .refl _⟩

theorem foldl {α : Type} {f : State → α → State} (h : ∀ t a, KeepsThreads t (f t a)) (l : List α) (s : State) :
    KeepsThreads s (l.foldl f s) := by
  induction l generalizing s with
  | nil => exact refl s
  | cons a l ih => exact (h s a).trans (ih _)

theorem modCore (s : State) (c : Nat) {f : Core → Core} (h : ∀ k : Core, k.Alike (f k)) : KeepsThreads s (s.modCore c f) := by
  refine ⟨rfl, fun d => ?_⟩
  by_cases hd : d = c
  · subst hd; rw [State.core_modCore_self]; exact h _
  · rw [State.core_modCore_ne _ _ hd]; exact .refl _

theorem mapCores {s t : State} {f : Core → Core} (pops : t.pops = s.pops)
    (cores : t.cores = s.cores.map fun e => (e.1, f e.2)) (h : ∀ k : Core, k.Alike (f k)) : KeepsThreads s t := by
  refine ⟨pops, fun c => ?_⟩
  unfold State.core
  rw [cores]
  rcases SMap.get_map Core.reset f s.cores c with e | ⟨e, e'⟩
  · rw [e]; exact h _
  · rw [e, e']; exact .refl _

theorem commit (s : State) (ws : List (Nat × Byte)) : KeepsThreads s (s.commit ws) :=
  mapCores rfl rfl fun k => .fire k ws

theorem portCommit (s : State) (q : Nat) (ws : List (Nat × Byte)) : KeepsThreads s (s.portCommit q ws) :=
  (commit s (s.portCells q ws)).trans of_eq

theorem slotAt_state {s t : State} (h : KeepsThreads s t) (q : Place) : (t.slotAt q).state = (s.slotAt q).state := (h.cores _).state _
theorem slotAt_popid {s t : State} (h : KeepsThreads s t) (q : Place) : (t.slotAt q).popid = (s.slotAt q).popid := (h.cores _).popid _

end KeepsThreads

/-! ### Steps that change memory within bounds -/

/-- Populations and threads stay, and so do the withheld writes, the tables of the partitions, the place of the journal and every
byte of memory but those at `ws`. -/
structure Tidies (ws : Nat → Prop) (s t : State) : Prop extends KeepsThreads s t where
  withheld : t.withheld = s.withheld
  parts : t.parts = s.parts
  jbase : t.jbase = s.jbase
  jlog : t.jlog = s.jlog
  mem : Memory.wf s.mem = true → Memory.wf t.mem = true ∧ BytesBut ws s t

namespace Tidies

variable {ws : Nat → Prop}

theorem refl (s : State) : Tidies ws s s := ⟨.refl s, rfl, rfl, rfl, rfl, fun h => ⟨h, fun _ _ => rfl⟩⟩

theorem trans {s t u : State} (h : Tidies ws s t) (h' : Tidies ws t u) : Tidies ws s u :=
  ⟨h.toKeepsThreads.trans h'.toKeepsThreads, h'.withheld.trans h.withheld, h'.parts.trans h.parts, h'.jbase.trans h.jbase,
    h'.jlog.trans h.jlog, fun wf => by
    obtain ⟨wf', same⟩ := h.mem wf
    obtain ⟨wf'', same'⟩ := h'.mem wf'
    exact ⟨wf'', fun b hb => (same' b hb).trans (same b hb)⟩⟩

theorem mono {ws' : Nat → Prop} {s t : State} (h : Tidies ws s t) (sub : ∀ b, ws b → ws' b) : Tidies ws' s t :=
  ⟨h.toKeepsThreads, h.withheld, h.parts, h.jbase, h.jlog, fun wf => ⟨(h.mem wf).1, fun b hb => (h.mem wf).2 b fun hw => hb (sub b hw)⟩⟩

/-- A step that changes no memory. -/
theorem of_keeps {s t : State} (h : KeepsThreads s t) (withheld : t.withheld = s.withheld := by rfl) (parts : t.parts = s.parts := by rfl)
    (jbase : t.jbase = s.jbase := by rfl) (jlog : t.jlog = s.jlog := by rfl) (mem : t.mem = s.mem := by rfl) : Tidies ws s t :=
  ⟨h, withheld, parts, jbase, jlog, fun wf => ⟨by rwa [mem], fun _ _ => by rw [mem]⟩⟩

theorem commitAt (s : State) (q : Nat) (bs : List Byte) (h : ∀ b, span q bs.length b → ws b) : Tidies ws s (s.commitAt q bs) :=
  ⟨.commit s _, rfl, rfl, rfl, rfl, fun wf => ⟨State.commit_wf _ wf, fun b hb => State.commitAt_bytesBut q bs wf b fun hs => hb (h b hs)⟩⟩

theorem commitWord (s : State) (q : Nat) (v : Word) (h : ∀ b, span q 8 b → ws b) : Tidies ws s (s.commitWord q v) :=
  commitAt s q _ (by rwa [toBytes_length])

theorem modCore (s : State) (c : Nat) {f : Core → Core} (h : ∀ k : Core, k.Alike (f k)) : Tidies ws s (s.modCore c f) :=
  of_keeps (.modCore s c h)

/-- A number outside the bytes that may change reads as before. -/
theorem num {s t : State} (h : Tidies ws s t) (wf : Memory.wf s.mem = true) {q n : Nat} (out : ∀ b, span q n b → ¬ ws b) :
    t.num q n = s.num q n := State.num_congr fun b hb => (h.mem wf).2 b (out b hb)

theorem journalAt {s t : State} (h : Tidies ws s t) (j : Nat) : t.journalAt j = s.journalAt j := by
  rw [State.journalAt, State.journalAt, h.jbase, h.jlog]

end Tidies

/-! ### Words of a record, and the journal -/

theorem span_mono {q n q' n' : Nat} (lo : q' ≤ q) (hi : q + n ≤ q' + n') (b : Nat) (h : span q n b) : span q' n' b :=
  ⟨Nat.le_trans lo h.1, Nat.lt_of_lt_of_le h.2 hi⟩

/-- Words written in order, the first of them word `k` from `q`: each reads back, and no other byte changes. -/
theorem State.putWords_from (q : Nat) (ws : List Nat) (k : Nat) (s : State) :
    let t := (ws.zipIdx k).foldl (fun t w => t.commitWord (q + 8 * w.2) (BitVec.ofNat 64 w.1)) s
    Tidies (span (q + 8 * k) (8 * ws.length)) s t ∧
      (Memory.wf s.mem = true → ∀ i (hi : i < ws.length), t.num (q + 8 * (k + i)) 8 = ws[i] % 2 ^ 64) := by
  induction ws generalizing k s with
  | nil => exact ⟨.refl s, fun _ i hi => absurd hi (Nat.not_lt_zero i)⟩
  | cons w ws ih =>
    obtain ⟨rest, back⟩ := ih (k + 1) (s.commitWord (q + 8 * k) (BitVec.ofNat 64 w))
    refine ⟨?_, fun wf i hi => ?_⟩
    · simp only [List.length_cons]
      exact (Tidies.commitWord s _ _ (span_mono (Nat.le_refl _) (by omega))).trans (rest.mono (span_mono (by omega) (by omega)))
    · have wf' : Memory.wf (s.commitWord (q + 8 * k) (BitVec.ofNat 64 w)).mem = true := State.commit_wf _ wf
      cases i with
      | zero =>
        refine (rest.num wf' fun b hb hw => ?_).trans (State.num_commitWord_self _ _ wf)
        have := hb.2; have := hw.1; omega
      | succ i => rw [show k + (i + 1) = k + 1 + i by omega]; exact back wf' i (Nat.lt_of_succ_lt_succ hi)

theorem State.putWords_tidies (s : State) (q : Nat) (ws : List Nat) : Tidies (span q (8 * ws.length)) s (s.putWords q ws) :=
  (State.putWords_from q ws 0 s).1

theorem State.num_putWords {s : State} (q : Nat) (ws : List Nat) (wf : Memory.wf s.mem = true) (i : Nat) (hi : i < ws.length) :
    (s.putWords q ws).num (q + 8 * i) 8 = ws[i] % 2 ^ 64 := by
  have h := (State.putWords_from q ws 0 s).2 wf i hi
  rw [Nat.zero_add] at h
  exact h

/-- A completion record lies in its 64 bytes (14_queues R258). -/
theorem State.complete_tidies (s : State) (q w0 pop tval failAt fails placed tag : Nat) :
    Tidies (span q 64) s (s.complete q w0 pop tval failAt fails placed tag) :=
  ((s.putWords_tidies (q + 8) _).mono (span_mono (by omega) (by simp))).trans (.commitWord _ q _ (span_mono (Nat.le_refl q) (by omega)))

/-- The words of a completion record (14_queues R258). -/
theorem State.num_complete {s : State} (q w0 pop tval failAt fails placed tag : Nat) (wf : Memory.wf s.mem = true) :
    let t := s.complete q w0 pop tval failAt fails placed tag
    t.num q 8 = (w0 + 2 ^ 63) % 2 ^ 64 ∧ t.num (q + 8) 8 = pop % 2 ^ 64 ∧ t.num (q + 0x10) 8 = tval % 2 ^ 64 ∧
      t.num (q + 0x18) 8 = failAt % 2 ^ 64 ∧ t.num (q + 0x20) 8 = fails % 2 ^ 64 ∧ t.num (q + 0x28) 8 = placed % 2 ^ 64 ∧
      t.num (q + 0x30) 8 = s.time.toNat ∧ t.num (q + 0x38) 8 = tag % 2 ^ 64 := by
  intro t
  have wf' := ((s.putWords_tidies (q + 8) [pop, tval, failAt, fails, placed, s.time.toNat, tag]).mem wf).1
  have later : ∀ a i (hi : i < 7), a = q + 8 + 8 * i →
      t.num a 8 = [pop, tval, failAt, fails, placed, s.time.toNat, tag][i] % 2 ^ 64 := by
    rintro a i hi rfl
    refine ((Tidies.commitWord _ q _ (ws := span q 8) fun _ h => h).num wf' fun b hb hw => ?_).trans
      (State.num_putWords (q + 8) _ wf i (by exact hi))
    have := hb.1; have := hw.2; omega
  refine ⟨(State.num_commitWord_self q _ wf').trans (BitVec.toNat_ofNat ..), later _ 0 (by decide) rfl, later _ 1 (by decide) rfl,
    later _ 2 (by decide) rfl, later _ 3 (by decide) rfl, later _ 4 (by decide) rfl, ?_, later _ 6 (by decide) rfl⟩
  exact (later _ 5 (by decide) rfl).trans (Nat.mod_eq_of_lt s.time.isLt)

/-- A change of STATE stays in the 64 bytes of its journal entry (14_queues R259). -/
theorem State.journal_tidies (s : State) (j ring state kind status reason : Nat) (pop : Option Nat) :
    Tidies (span (s.journalAt j) 64) s (s.journal j ring state kind status reason pop) := by
  have word (t : State) (o : Nat) (ho : o + 8 ≤ 64) (v : Word) : Tidies (span (s.journalAt j) 64) t (t.commitWord (s.journalAt j + o) v) :=
    .commitWord t _ v (span_mono (Nat.le_add_right ..) (by omega))
  unfold State.journal
  dsimp only
  split
  · exact .refl s
  · refine .trans ?_ (.commitWord _ _ _ (span_mono (Nat.le_refl _) (by omega)))
    cases pop with
    | none => exact word s 0x18 (by decide) _
    | some p => exact (word s 0x18 (by decide) _).trans (word _ 0x20 (by decide) _)

/-- Word 0 of an entry whose SEQ still names it (14_queues R259). -/
theorem State.num_journal {s : State} {j : Nat} (ring state kind status reason : Nat) (pop : Option Nat)
    (wf : Memory.wf s.mem = true) (seq : s.num (s.journalAt j + 0x38) 8 = j) :
    (s.journal j ring state kind status reason pop).num (s.journalAt j) 8 = journalWord ring state kind status reason % 2 ^ 64 := by
  unfold State.journal
  rw [if_neg (not_not_intro seq)]
  refine (State.num_commitWord_self _ _ ?_).trans (BitVec.toNat_ofNat ..)
  cases pop with
  | none => exact State.commit_wf _ wf
  | some p => exact State.commit_wf _ (State.commit_wf _ wf)

end Sys2Proof.Machine
end

section
/-! SUPPORT. Inbound writes, accepted, refused or withheld, leave every population and thread (09_memories R159, R175). -/

namespace Sys2Proof.Machine

/-! ### Inbound writes leave populations and threads

Each rule extends a chain of steps from `s` to `t` by one operation of the model. -/

namespace KeepsThreads

variable {s t : State}

/-- A chain ends with a change of other fields. -/
theorem andEq {u : State} (h : KeepsThreads s t) (pops : u.pops = t.pops := by rfl)
    (cores : u.cores = t.cores := by rfl) : KeepsThreads s u :=
  h.trans (of_eq pops cores)

theorem answer (h : KeepsThreads s t) (pkg : BitVec 13) (kind : Nat) (tag : Word) (data : List Byte) :
    KeepsThreads s (t.answer pkg kind tag data) := by
  unfold State.answer
  dsimp only
  split
  · exact h
  · exact h.andEq

theorem acknowledge (h : KeepsThreads s t) (a : Ack) : KeepsThreads s (t.acknowledge a) := by
  cases a with
  | none => exact h
  | fabric pkg tag =>
    unfold State.acknowledge
    dsimp only
    split
    · exact h.andEq
    · exact h.answer ..
  | more pkg tag => exact h
  | kda p id ce => exact h.andEq

theorem refuse (h : KeepsThreads s t) (a : Ack) : KeepsThreads s (t.refuse a) := by
  cases a with
  | none => exact h
  | fabric pkg tag => exact answer h.andEq ..
  | more pkg tag => exact answer h.andEq ..
  | kda p id ce => exact h.andEq

theorem schedule16 (h : KeepsThreads s t) (e : Nat) : KeepsThreads s (t.schedule16 e) :=
  h.trans (foldl (f := fun u d => u.modDie d _) (fun _ _ => of_eq) _ t)

theorem sendGroup (h : KeepsThreads s t) (kind mhz time : Nat) : KeepsThreads s (t.sendGroup kind mhz time) := by
  unfold State.sendGroup
  split
  · exact h.andEq
  · exact h

theorem settleRaises (h : KeepsThreads s t) : KeepsThreads s t.settleRaises := by
  unfold State.settleRaises
  exact trans (andEq h) (foldl (fun u e => (refl u).schedule16 e) _ _)

theorem capCeiling (h : KeepsThreads s t) (c : BitVec 16) (announce : Bool) : KeepsThreads s (t.capCeiling c announce) := by
  unfold State.capCeiling
  refine settleRaises ?_
  split
  · exact sendGroup h.andEq ..
  · exact sendGroup h.andEq ..

theorem groupLimit (s : State) (g : GroupMsg) : KeepsThreads s (s.groupLimit g) := by
  unfold State.groupLimit
  split
  · exact refl s
  · dsimp only
    split
    · exact settleRaises (sendGroup of_eq ..)
    · exact schedule16 of_eq _

theorem groupAck (s : State) (g : GroupMsg) : KeepsThreads s (s.groupAck g) := by
  unfold State.groupAck
  split
  · exact refl s
  · exact settleRaises of_eq

theorem groupJoin (s : State) (g : GroupMsg) : KeepsThreads s (s.groupJoin g) := by
  unfold State.groupJoin
  split
  · exact of_eq
  · exact refl s

theorem groupLeave (s : State) (g : GroupMsg) : KeepsThreads s (s.groupLeave g) := by
  unfold State.groupLeave
  split
  · exact of_eq
  · exact refl s

theorem groupBeat (s : State) (g : GroupMsg) : KeepsThreads s (s.groupBeat g) := by
  unfold State.groupBeat
  split
  · exact refl s
  · dsimp only
    split
    · exact capCeiling of_eq ..
    · exact of_eq

theorem controlWrite (h : KeepsThreads s t) (bs : List Byte) : KeepsThreads s (t.controlWrite bs) := by
  refine h.trans ?_
  unfold State.controlWrite
  dsimp only
  split
  · exact groupLimit ..
  · exact groupAck ..
  · exact groupJoin ..
  · exact groupLeave ..
  · exact groupBeat ..
  · exact refl t

theorem writeEntry (s : State) (e : Entry) (skip : Nat → Bool) : KeepsThreads s (s.writeEntry e skip) := portCommit ..

theorem spillTo (h : KeepsThreads s t) (c n : Nat) (e : Entry) : KeepsThreads s (t.spillTo c n e) :=
  h.trans (((commit t _).trans (commit _ _)).trans (modCore _ c fun _ => .of_eq rfl rfl rfl))

theorem holdLine {e : Entry} (h : s.holdLine e = some t) : KeepsThreads s t := by
  unfold State.holdLine at h
  dsimp only at h
  split at h
  · cases h; exact writeEntry ..
  · split at h
    · cases h; exact writeEntry ..
    · obtain ⟨n, -, rfl⟩ := Option.map_eq_some_iff.mp h
      exact spillTo (writeEntry ..) ..

theorem holdLines {es : List Entry} (h : es.foldlM (fun (t : State) e => t.holdLine e) s = some t) : KeepsThreads s t := by
  induction es generalizing s with
  | nil => cases h; exact refl _
  | cons e es ih =>
    rw [List.foldlM_cons] at h
    obtain ⟨u, hu, rest⟩ := Option.bind_eq_some_iff.mp h
    exact trans (holdLine hu) (ih rest)

theorem zoneWrite {c : Nat} {i : ZoneId} {z : Zone} {w : InWrite} (h : s.zoneWrite c i z w = some t) : KeepsThreads s t := by
  unfold State.zoneWrite at h
  dsimp only at h
  split at h
  · cases h
  · cases h
    exact (portCommit ..).trans (modCore _ c fun _ => .of_eq rfl rfl rfl)

/-- An inbound write that is accepted or refused leaves every population and thread (09_memories R159, R175). -/
theorem takeWrite {w : InWrite} {a : Ack} (h : s.takeWrite w a = some t) : KeepsThreads s t := by
  unfold State.takeWrite at h
  dsimp only at h
  repeat' split at h
  · cases h; exact of_eq
  · cases h; exact (refl s).refuse a
  · cases h; exact ((refl s).acknowledge a).controlWrite _
  · cases h; exact (refl s).refuse a
  · cases h; exact (refl s).acknowledge a
  · cases h; exact (refl s).refuse a
  · rename_i u hu
    cases h; exact (zoneWrite hu).acknowledge a
  · cases h; exact (refl s).refuse a
  · cases h; exact (portCommit ..).acknowledge a
  · obtain ⟨u, hu, rfl⟩ := Option.map_eq_some_iff.mp h
    exact (holdLines hu).acknowledge a

theorem inbound (s : State) (w : InWrite) (a : Ack) : KeepsThreads s (s.inbound w a) := by
  unfold State.inbound
  dsimp only
  split
  · exact refl s
  · split
    · exact of_eq
    · cases h : s.takeWrite w a with
      | none => exact of_eq
      | some t => exact takeWrite h

theorem retryWithheld (h : KeepsThreads s t) : KeepsThreads s t.retryWithheld := by
  unfold State.retryWithheld
  exact trans (andEq h) (foldl (fun t (e : InWrite × Ack) => inbound t e.1 e.2) _ _)

end KeepsThreads

end Sys2Proof.Machine
end

section
/-! SUPPORT. The end of a population: the population is gone, and what follows changes no memory but barriers, tile tables and mailboxes
(01_device R18, 18_tables R314, 11_matrix R190, 15_messages R268). -/

namespace Sys2Proof.Machine

/-! ### What the end of a population may write -/

/-- The bytes that the upkeep of tables changes: barriers of the partition, tile tables and mailboxes. -/
def State.upkeep (s : State) (p : Part) (b : Nat) : Prop :=
  (∃ i < 4096, span (s.barAt p.val i) 16 b) ∨ ∃ c, s.table c b ∨ span (s.mboxAt c 0 0) 1024 b

theorem State.upkeep_congr {s t : State} (p : Part) (parts : t.parts = s.parts) (ttb : ∀ c, (t.core c).ttb = (s.core c).ttb)
    (mbt : ∀ c, (t.core c).mbt = (s.core c).mbt) : t.upkeep p = s.upkeep p := by
  funext b
  simp only [State.upkeep, State.barAt, State.partWord, State.partition, State.table, State.tileAt, State.mboxAt, parts, ttb, mbt]

/-! ### Where mailboxes and tiles lie -/

theorem State.mboxAt_eq (s : State) (c mb w : Nat) : s.mboxAt c mb w = s.mboxAt c 0 0 + 64 * mb + 8 * w := by
  simp only [State.mboxAt, Nat.mul_zero, Nat.add_zero]

/-- Word `w` of mailbox `mb` lies in the mailboxes of its core (15_messages R268). -/
theorem State.upkeep_of_mbox (s : State) (p : Part) (c mb w : Nat) (hmb : mb < 16) (hw : w < 8) (b : Nat) (hb : span (s.mboxAt c mb w) 8 b) :
    s.upkeep p b := by
  refine .inr ⟨c, .inr ?_⟩
  rw [State.mboxAt_eq] at hb
  exact span_mono (by omega) (by omega) b hb

theorem State.tileAt_eq (s : State) (c h : Nat) : s.tileAt c h = s.tileAt c 0 + 64 * h := by
  simp only [State.tileAt, Nat.mul_zero, Nat.add_zero]

theorem Tile.words_length (t : Tile) : (t.words.flatMap (toBytes 8)).length = 40 := by
  simp [Tile.words, toBytes_length]

/-- A ring names its members by six bits and a count of four (11_matrix R190). -/
theorem State.tile_member_lt (s : State) (c h i : Nat) (hi : i < (s.tile c h).nm1 + 1) : (s.tile c h).first + i < 80 := by
  have first : (s.tile c h).first < 2 ^ 6 := Nat.mod_lt _ (by decide)
  have nm1 : (s.tile c h).nm1 < 2 ^ 4 := Nat.mod_lt _ (by decide)
  omega

/-- A step that changes no memory but those bytes. -/
abbrev Upkeeps (p : Part) (s t : State) : Prop := Tidies (s.upkeep p) s t

namespace Upkeeps

variable {p : Part} {s t u : State}

theorem upkeep_eq {ws : Nat → Prop} (h : Tidies ws s t) (p : Part) : t.upkeep p = s.upkeep p :=
  State.upkeep_congr p h.parts (fun c => (h.cores c).ttb) fun c => (h.cores c).mbt

theorem trans (h : Upkeeps p s t) (h' : Upkeeps p t u) : Upkeeps p s u := by
  unfold Upkeeps at h'
  rw [upkeep_eq h] at h'
  exact Tidies.trans h h'

/-- A step that is taken only under a condition. -/
theorem onlyIf {c : Prop} [Decidable c] (h : Upkeeps p s t) (h' : Upkeeps p t u) : Upkeeps p s (if c then u else t) := by
  split
  · exact h.trans h'
  · exact h

theorem foldl {α : Type} {f : State → α → State} {l : List α} (h : ∀ t, ∀ a ∈ l, Upkeeps p t (f t a)) (s : State) :
    Upkeeps p s (l.foldl f s) := by
  induction l generalizing s with
  | nil => exact .refl s
  | cons a l ih =>
    exact trans (h s a (List.mem_cons_self ..)) (ih (fun t b hb => h t b (List.mem_cons_of_mem _ hb)) _)

/-! ### Mailboxes -/

theorem setMbox5 (s : State) (c : Nat) (mb : Mbox) (lo n v : Nat) : Upkeeps p s (s.setMbox5 c mb.val lo n v) :=
  .commitWord s _ _ (State.upkeep_of_mbox s p c mb.val 5 mb.isLt (by decide))

theorem letGo (s : State) (t : Slot) : Upkeeps p s (s.letGo t) := by
  have stage : Upkeeps p s (s.endStage t.stage) := by
    cases t.stage with
    | none => exact .refl s
    | some e => exact setMbox5 s ..
  exact stage.trans (foldl (fun u o _ => onlyIf (.refl u) (setMbox5 u ..)) _)

theorem endStages (s : State) (c : Nat) (pop : BitVec 32) : Upkeeps p s (s.endStages c pop) := by
  refine foldl (fun u m hm => onlyIf (.refl u) ?_) s
  exact .commitWord u _ _ (State.upkeep_of_mbox u p c m 2 (List.mem_range.mp hm) (by decide))

/-! ### Tiles and weights -/

theorem modTile (s : State) (c h : Nat) (hh : h < 80) (f : Tile → Tile) : Upkeeps p s (s.modTile c h f) := by
  refine .commitAt s _ _ fun b hb => .inr ⟨c, .inl ?_⟩
  rw [Tile.words_length, State.tileAt_eq] at hb
  obtain ⟨lo, hi⟩ := hb
  rw [State.table, State.tileAt_eq s c 80]
  exact ⟨by omega, by omega⟩

theorem freeTile (s : State) (c h : Nat) (hh : h < 64) : Upkeeps p s (s.freeTile c h) := by
  unfold State.freeTile
  refine trans ?_ (modTile _ c h (by omega) _)
  split
  · exact foldl (fun u i hi => modTile u c _ (State.tile_member_lt s c h i (List.mem_range.mp hi)) _) s
  · exact .refl s

theorem reapTiles (s : State) (c : Nat) : Upkeeps p s (s.reapTiles c) := by
  refine trans (foldl (fun u h hh => ?_) s) (foldl (fun u h hh => ?_) _)
  · exact onlyIf (.refl u) (freeTile u c h (List.mem_range.mp hh))
  · exact onlyIf (.refl u) (freeTile u c h (List.mem_range.mp hh))

theorem reap (s : State) (c : Nat) : Upkeeps p s (s.reap c) :=
  (reapTiles s c).trans (u := s.reap c) (.of_keeps .of_eq)

/-! ### Domains and barriers -/

theorem endDomain (s : State) (d : Nat) : Upkeeps p s (s.endDomain d) := by
  unfold State.endDomain
  dsimp only
  split
  · exact .refl s
  · split
    · exact .of_keeps .of_eq
    · split
      · exact .of_keeps .of_eq
      · exact .of_keeps .of_eq

theorem endBarriers (s : State) (pop : BitVec 32) : Upkeeps p s (s.endBarriers p pop) := by
  refine foldl (fun u i hi => onlyIf (.refl u) ?_) s
  exact .commitWord u _ _ fun b hb => .inl ⟨i, List.mem_range.mp hi, span_mono (Nat.le_refl _) (by omega) b hb⟩

end Upkeeps

/-! ### The end of a population -/

/-- A population is gone, with its records, its DONE slots and its landing zones (01_device R18, 08_slots R134). -/
def State.dropPop (s : State) (p : Pop) : State :=
  { s with
    pops := s.pops.filter fun q => q.id != p.id
    running := s.running.map fun e => (e.1, e.2.filter fun h => h.pop != some p.id)
    works := s.works.filter fun w => w.2 != p.id
    cores := s.cores.map fun c => (c.1, (c.2.freeSlots p.id).freeZones p.id) }

/-- The end of a population: it is gone, tables are kept, and the withheld writes are offered again (01_device R18). -/
theorem State.endPop_eq (s : State) (p : Pop) : ∃ t, Upkeeps p.part (s.dropPop p) t ∧ s.endPop p = t.retryWithheld := by
  refine ⟨_, ?_, rfl⟩
  refine .trans ?_ (Upkeeps.endBarriers _ _)
  refine .onlyIf ?_ (.foldl (fun t d _ => .endDomain t d) _)
  refine .trans ?_ (.foldl (fun t c _ => (Upkeeps.endStages t c p.id).trans (.reap _ c)) _)
  refine .trans ?_ (.modCore _ _ fun _ => .of_eq rfl rfl rfl)
  exact Upkeeps.foldl (fun t a _ => .letGo t a.slot) (s.dropPop p)

end Sys2Proof.Machine
end

section
/-! PROOF. Populations finish, and forwarded system calls (01_device R18, 08_slots R134, 14_queues R258, R259, 23_system R356, R358). -/

namespace Sys2Proof.Machine

/-! ### What the end of a population leaves -/

/-- A property of a core that `f` establishes on every core holds of each core once `f` has changed the listed ones, where it holds of
a core that is not listed. -/
theorem State.core_of_mapCores {s t : State} {f : Core → Core} {P : Core → Core → Prop} (cores : t.cores = s.cores.map fun e => (e.1, f e.2))
    (listed : ∀ k, P k (f k)) (reset : P Core.reset Core.reset) (c : Nat) : P (s.core c) (t.core c) := by
  unfold State.core
  rw [cores]
  rcases SMap.get_map Core.reset f s.cores c with e | ⟨e, e'⟩
  · rw [e]; exact listed _
  · rw [e, e']; exact reset

theorem State.dropPop_pop? (s : State) (p : Pop) : (s.dropPop p).pop? p.id = none := by
  refine List.find?_eq_none.mpr fun q hq => ?_
  have := (List.mem_filter.mp hq).2
  simpa using this

theorem State.dropPop_upkeep (s : State) (p : Pop) : (s.dropPop p).upkeep p.part = s.upkeep p.part :=
  State.upkeep_congr p.part rfl
    (State.core_of_mapCores (f := fun k => (k.freeSlots p.id).freeZones p.id) (P := fun k l => l.ttb = k.ttb) rfl (fun _ => rfl) rfl)
    (State.core_of_mapCores (f := fun k => (k.freeSlots p.id).freeZones p.id) (P := fun k l => l.mbt = k.mbt) rfl (fun _ => rfl) rfl)

/-- A DONE slot of the population is FREE (08_slots R134). -/
theorem State.dropPop_free (s : State) (p : Pop) (q : Place) (mine : (s.slotAt q).popid = p.id) (halted : (s.slotAt q).state = .done) :
    ((s.dropPop p).slotAt q).state = .free := by
  have no_thread : ∀ i : SlotId, Core.reset.slots[i.val].state ≠ .done := by decide
  refine State.core_of_mapCores (s := s) (t := s.dropPop p) (f := fun k => (k.freeSlots p.id).freeZones p.id)
    (P := fun k l => k.slots[q.slot.val].popid = p.id → k.slots[q.slot.val].state = .done → l.slots[q.slot.val].state = .free)
    rfl (fun k mine halted => ?_) (fun _ h => absurd h (no_thread _)) q.core.val mine halted
  simp [Core.freeZones, Core.freeSlots, Slot.freed, Slot.empty, mine, halted]

section
variable {s : State} {p : Pop}

theorem State.endPop_pop? : (s.endPop p).pop? p.id = none := by
  obtain ⟨t, tidy, e⟩ := s.endPop_eq p
  have pops := (tidy.toKeepsThreads.retryWithheld).pops
  rw [e, State.pop?, pops]
  exact s.dropPop_pop? p

theorem State.endPop_free (q : Place) (mine : (s.slotAt q).popid = p.id) (halted : (s.slotAt q).state = .done) :
    ((s.endPop p).slotAt q).state = .free := by
  obtain ⟨t, tidy, e⟩ := s.endPop_eq p
  rw [e, (tidy.toKeepsThreads.retryWithheld).slotAt_state]
  exact s.dropPop_free p q mine halted

/-- With no write withheld, a number outside the tables that the end of a population keeps reads as before. -/
theorem State.endPop_num (wf : Memory.wf s.mem = true) (none_withheld : s.withheld = []) {q n : Nat}
    (out : ∀ b, span q n b → ¬ s.upkeep p.part b) : (s.endPop p).num q n = s.num q n := by
  obtain ⟨t, tidy, e⟩ := s.endPop_eq p
  have kept : t.num q n = s.num q n := by
    unfold Upkeeps at tidy
    rw [s.dropPop_upkeep p] at tidy
    exact tidy.num (s := s.dropPop p) wf out
  have idle : t.retryWithheld.mem = t.mem := by
    unfold State.retryWithheld
    rw [tidy.withheld, show (s.dropPop p).withheld = [] from none_withheld]
    rfl
  rw [e, ← kept]
  exact State.num_congr fun b _ => by rw [idle]

end

/-! ### The stores of the last phase, and the completion record -/

/-- The end of a phase leaves every population and thread (09_memories R172). -/
theorem State.applyPhase_keeps (s : State) (pop : BitVec 32) : KeepsThreads s (s.applyPhase pop) := by
  unfold State.applyPhase
  exact (KeepsThreads.foldl (fun t (e : Entry) => .writeEntry t e _) _ s).trans (.mapCores (f := fun k => { k with
    buffer := k.buffer.filter fun e => e.who.pop != pop, spill := k.spill.filter fun e => e.2.who.pop != pop })
    rfl rfl fun _ => .of_eq rfl rfl rfl)

/-- A population that has no entry left in a buffer changes no memory. -/
theorem State.applyPhase_no_entries (s : State) (pop : BitVec 32)
    (none_left : ∀ k ∈ s.cores, ∀ e ∈ k.2.buffer ++ k.2.spill.map Prod.snd, e.who.pop ≠ pop) :
    ∃ cores, s.applyPhase pop = { s with cores } := by
  have all : s.cores.flatMap (fun c => c.2.entriesOf pop) = [] := by
    simp only [List.flatMap_eq_nil_iff, Core.entriesOf, List.filter_eq_nil_iff]
    intro k hk e he mine
    exact none_left k hk e (List.mem_append.mpr (List.mem_append.mp he).symm) (beq_iff_eq.mp mine)
  unfold State.applyPhase
  rw [all]
  exact ⟨_, rfl⟩

/-- The completion record of a population is written (14_queues R258). -/
def State.recorded (s : State) (p : Pop) : State :=
  s.complete p.compl (p.status.toNat + 2 ^ 8 * p.cause.toNat + 2 ^ 16 * p.faberr.toNat) p.id.toNat p.tval.toNat p.failAt.toNat
    p.fails.toNat p.placed.toNat p.tag.toNat

theorem State.report_eq (s : State) (p : Pop) :
    s.report p = (s.recorded p).journal p.journal.toNat p.ring.val 3 1 p.status.toNat 0 none := rfl

section
variable {s : State} {p : Pop}

theorem State.recorded_tidies : Tidies (span p.compl 64) s (s.recorded p) := s.complete_tidies ..

/-- The journal entry is closed after the completion record is written (14_queues R258, R259). -/
theorem State.report_closes : Tidies (span (s.journalAt p.journal.toNat) 64) (s.recorded p) (s.report p) := by
  have closes := (s.recorded p).journal_tidies p.journal.toNat p.ring.val 3 1 p.status.toNat 0 none
  rwa [State.recorded_tidies.journalAt] at closes

theorem State.report_keeps : KeepsThreads s (s.report p) :=
  State.recorded_tidies.toKeepsThreads.trans State.report_closes.toKeepsThreads

/-- The words of the completion record stand after the journal entry is closed, where the two lie apart (14_queues R258). -/
theorem State.report_record (wf : Memory.wf s.mem = true) (apart : ∀ b, span p.compl 64 b → ¬ span (s.journalAt p.journal.toNat) 64 b)
    {o : Nat} (ho : o + 8 ≤ 64) : (s.report p).num (p.compl + o) 8 = (s.recorded p).num (p.compl + o) 8 :=
  State.report_closes.num (State.recorded_tidies.mem wf).1 fun b hb => apart b (span_mono (Nat.le_add_right ..) (by omega) b hb)

theorem Pop.journalWord_lt (p : Pop) : journalWord p.ring.val 3 1 p.status.toNat 0 < 2 ^ 64 := by
  have ring := p.ring.isLt
  have status := p.status.isLt
  unfold journalWord
  omega

/-- Word 0 of the journal entry, where its SEQ names it (14_queues R259). -/
theorem State.report_journal (wf : Memory.wf s.mem = true) (apart : ∀ b, span p.compl 64 b → ¬ span (s.journalAt p.journal.toNat) 64 b)
    (seq : s.num (s.journalAt p.journal.toNat + 0x38) 8 = p.journal.toNat) :
    (s.report p).num (s.journalAt p.journal.toNat) 8 = p.ring.val + 2 ^ 12 * 3 + 2 ^ 16 + 2 ^ 24 * p.status.toNat := by
  have seq' : (s.recorded p).num (s.journalAt p.journal.toNat + 0x38) 8 = p.journal.toNat := by
    rw [State.recorded_tidies.num wf fun b hb hc => apart b hc (span_mono (Nat.le_add_right ..) (by omega) b hb)]
    exact seq
  rw [← State.recorded_tidies (s := s) (p := p).journalAt] at seq' ⊢
  rw [State.report_eq, State.num_journal _ _ _ _ _ _ (State.recorded_tidies.mem wf).1 seq', Nat.mod_eq_of_lt p.journalWord_lt]
  simp only [journalWord]
  omega

end

/-! ### The finish -/

theorem exec_populationFinish (pop : BitVec 32) (s : State) : exec (.populationFinish pop) s = execPopulationFinish pop s := by rfl
theorem exec_syscallDoorbell (v : Word) (s : State) : exec (.syscallDoorbell v) s = .next (s.storeDoorbell v) := by rfl
theorem exec_syscallReply (v : Word) (s : State) : exec (.syscallReply v) s = .next (s.storeReply v) := by rfl

/-- A population with no thread left and nothing to be answered finishes (01_device R18). -/
theorem exec_populationFinish_of_settled {s : State} {p : Pop} (running : s.pop? p.id = some p) (halted : s.threads p = [])
    (settled : s.unsettled p.id = false) :
    exec (.populationFinish p.id) s = .next (((s.applyPhase p.id).report p).endPop p) := by
  simp [exec_populationFinish, execPopulationFinish, running, halted, settled]

/-- An event is posted with PEND, and OVR where one was pending (23_system R356). -/
theorem State.post_posted (s : State) (e : Fin 7) (arg : Nat) : posted s (s.post e arg) e arg := by
  have bit (v : Word) (i : Nat) : v.getLsbD i = decide (v.toNat / 2 ^ i % 2 = 1) := Nat.testBit_eq_decide_div_mod_eq
  let old := s.events[e.val]
  let ovr := if bits old.toNat 62 2 ≠ 0 then 1 else 0
  have new : (s.post e arg).events[e.val] = BitVec.ofNat 64 (arg % 2 ^ 56 + 2 ^ 62 * ovr + 2 ^ 63) := Vector.getElem_set_self _
  have one : ovr ≤ 1 := by simp only [ovr]; split <;> decide
  have value : (BitVec.ofNat 64 (arg % 2 ^ 56 + 2 ^ 62 * ovr + 2 ^ 63)).toNat = arg % 2 ^ 56 + 2 ^ 62 * ovr + 2 ^ 63 := by
    rw [BitVec.toNat_ofNat]
    exact Nat.mod_eq_of_lt (by omega)
  have pending : (ovr = 1) ↔ (old.toNat / 2 ^ 62 % 2 = 1 ∨ old.toNat / 2 ^ 63 % 2 = 1) := by
    simp only [ovr, bits]
    split <;> omega
  unfold posted
  simp only [new, bit, value]
  refine ⟨by omega, decide_eq_true (by omega), ?_, rfl⟩
  rw [← Bool.decide_or, decide_eq_decide, ← pending]
  omega

/-- An INTR with no other queued at the core makes a record of its own (08_slots R143, R144). -/
theorem State.raiseEvent_records {s : State} {c : Nat} {cause : Cause} (sub : Nat) (tval : Word)
    (first : ∀ r ∈ (s.core c).records, ¬ (r.cause = cause ∧ r.async = true ∧ r.slot = 15)) :
    s.raiseEvent c cause sub tval = s.modCore c fun k => { k with records := k.records ++
      [{ pop := 0, cause, sub := BitVec.ofNat 8 sub, slot := 15, async := true, tval, tpc := 0, tts := 0 }] } := by
  unfold State.raiseEvent
  rw [if_neg]
  rw [List.any_eq_true]
  rintro ⟨r, hr, same⟩
  simp only [Bool.and_eq_true, beq_iff_eq] at same
  obtain ⟨⟨same_cause, is_async⟩, same_slot⟩ := same
  exact first r hr ⟨same_cause, is_async, Fin.ext same_slot⟩

/-- The reply INTR of a forwarded call, at the core that its record names (23_system R358). -/
theorem State.storeReply_records (s : State) (v : Word) (not_reset : s.num (s.fwdRecord v.toNat + 0x30) 8 ≠ 2)
    (first : ∀ r ∈ (s.core (s.num (s.fwdRecord v.toNat) 8 % 1024)).records, ¬ (r.cause = .intr ∧ r.async = true ∧ r.slot = 15)) :
    s.storeReply v = s.modCore (s.num (s.fwdRecord v.toNat) 8 % 1024) fun k => { k with records := k.records ++
      [{ pop := 0, cause := .intr, sub := 2, slot := 15, async := true, tval := v, tpc := 0, tts := 0 }] } := by
  have core : bits (s.num (s.fwdRecord v.toNat) 8) 0 10 = s.num (s.fwdRecord v.toNat) 8 % 1024 := by
    simp only [bits, Nat.pow_zero, Nat.div_one, Nat.reducePow]
  rw [State.storeReply, if_neg not_reset, State.replyIntr, core, State.raiseEvent_records _ _ first, BitVec.ofNat_toNat,
    BitVec.setWidth_eq]
  rfl

/-- What the completion record and the journal entry of a finished population hold (14_queues R258, R259), where no write is withheld
and the two lie apart from each other and from the tables. -/
theorem State.endPop_report_words {s : State} {p : Pop} (wf : Memory.wf s.mem = true) (none_withheld : s.withheld = [])
    (record_apart : ∀ b, span p.compl 64 b → ¬ span (s.journalAt p.journal.toNat) 64 b ∧ ¬ s.upkeep p.part b)
    (journal_apart : ∀ b, span (s.journalAt p.journal.toNat) 64 b → ¬ s.upkeep p.part b) :
    (∀ a o, a = p.compl + o → o + 8 ≤ 64 → ((s.report p).endPop p).num a 8 = (s.recorded p).num a 8) ∧
      (s.num (s.journalAt p.journal.toNat + 0x38) 8 = p.journal.toNat →
        ((s.report p).endPop p).num (s.journalAt p.journal.toNat) 8 = p.ring.val + 2 ^ 12 * 3 + 2 ^ 16 + 2 ^ 24 * p.status.toNat) := by
  have recorded := State.recorded_tidies (s := s) (p := p)
  have closes := State.report_closes (s := s) (p := p)
  have wf' : Memory.wf (s.report p).mem = true := (closes.mem (recorded.mem wf).1).1
  have none_withheld' : (s.report p).withheld = [] := by rw [closes.withheld, recorded.withheld, none_withheld]
  have upkeep : (s.report p).upkeep p.part = s.upkeep p.part := by rw [Upkeeps.upkeep_eq closes, Upkeeps.upkeep_eq recorded]
  have separate : ∀ b, span p.compl 64 b → ¬ span (s.journalAt p.journal.toNat) 64 b := fun b hb => (record_apart b hb).1
  constructor
  · rintro a o rfl ho
    rw [State.endPop_num wf' none_withheld', State.report_record wf separate ho]
    rw [upkeep]
    exact fun b hb => (record_apart b (span_mono (Nat.le_add_right ..) (by omega) b hb)).2
  · intro seq
    rw [State.endPop_num wf' none_withheld', State.report_journal wf separate seq]
    rw [upkeep]
    exact fun b hb => journal_apart b (span_mono (Nat.le_refl _) (by omega) b hb)

/-- Bytes of no barrier, no tile table and no mailbox are kept from upkeep. -/
theorem State.not_upkeep {s : State} {p : Part} {b : Nat}
    (h : (∀ i < 4096, ¬ span (s.barAt p.val i) 16 b) ∧ ∀ c, ¬ s.table c b ∧ ¬ span (s.mboxAt c 0 0) 1024 b) : ¬ s.upkeep p b := by
  rintro (⟨i, hi, hb⟩ | ⟨c, hb | hb⟩)
  · exact h.1 i hi hb
  · exact (h.2 c).1 hb
  · exact (h.2 c).2 hb

/-- Word 0 of a completion record: STATUS, CAUSE, FABERR and V (14_queues R258). -/
theorem Pop.recordWord_lt (p : Pop) : p.status.toNat + 2 ^ 8 * p.cause.toNat + 2 ^ 16 * p.faberr.toNat + 2 ^ 63 < 2 ^ 64 := by
  have status := p.status.isLt
  have cause := p.cause.isLt
  have faberr : p.faberr.toNat ≤ 1 := Bool.toNat_le _
  omega

/-- The words of the completion record of a population (14_queues R258). -/
theorem State.num_recorded {s : State} (p : Pop) (wf : Memory.wf s.mem = true) :
    (s.recorded p).num p.compl 8 = p.status.toNat + 2 ^ 8 * p.cause.toNat + (if p.faberr then 2 ^ 16 else 0) + 2 ^ 63 ∧
      (s.recorded p).num (p.compl + 0x08) 8 = p.id.toNat ∧ (s.recorded p).num (p.compl + 0x10) 8 = p.tval.toNat ∧
      (s.recorded p).num (p.compl + 0x18) 8 = p.failAt.toNat ∧ (s.recorded p).num (p.compl + 0x20) 8 = p.fails.toNat ∧
      (s.recorded p).num (p.compl + 0x28) 8 = p.placed.toNat ∧ (s.recorded p).num (p.compl + 0x30) 8 = s.time.toNat ∧
      (s.recorded p).num (p.compl + 0x38) 8 = p.tag.toNat := by
  obtain ⟨w0, id, tval, failAt, fails, placed, now, tag⟩ := State.num_complete p.compl
    (p.status.toNat + 2 ^ 8 * p.cause.toNat + 2 ^ 16 * p.faberr.toNat) p.id.toNat p.tval.toNat p.failAt.toNat p.fails.toNat
    p.placed.toNat p.tag.toNat wf
  have word (v : Word) : v.toNat % 2 ^ 64 = v.toNat := Nat.mod_eq_of_lt v.isLt
  refine ⟨?_, id.trans (Nat.mod_eq_of_lt (by have := p.id.isLt; omega)), tval.trans (word _), failAt.trans (word _),
    fails.trans (word _), placed.trans (word _), now, tag.trans (word _)⟩
  refine w0.trans ((Nat.mod_eq_of_lt p.recordWord_lt).trans ?_)
  cases p.faberr <;> rfl

/-- Settles O51: the slots that are freed stay free and the population stays gone, since the upkeep of tables and the withheld writes that
follow leave every population and thread; the completion record and the journal entry stay, since upkeep writes only to tables. -/
theorem populationsFinish : Obligations.PopulationsFinish := by
  unfold Obligations.PopulationsFinish
  refine fun s wf => ⟨fun p running halted settled => ⟨_, exec_populationFinish_of_settled running halted settled,
    State.endPop_pop?, fun q mine done => ?_, fun none_withheld none_left record_apart journal_apart => ?_⟩, fun v => ⟨?_, ?_⟩⟩
  · have keeps := (s.applyPhase_keeps p.id).trans (State.report_keeps (p := p))
    exact State.endPop_free q ((keeps.slotAt_popid q).trans mine) ((keeps.slotAt_state q).trans done)
  · have keeps := s.applyPhase_keeps p.id
    obtain ⟨cores, applied⟩ := s.applyPhase_no_entries p.id none_left
    rw [applied] at keeps ⊢
    have upkeep : ({ s with cores } : State).upkeep p.part = s.upkeep p.part :=
      State.upkeep_congr p.part rfl (fun c => (keeps.cores c).ttb) fun c => (keeps.cores c).mbt
    obtain ⟨record, journal⟩ := State.endPop_report_words (s := { s with cores }) (p := p) wf none_withheld
      (fun b hb => ⟨(record_apart b hb).1, by rw [upkeep]; exact State.not_upkeep (record_apart b hb).2⟩)
      (fun b hb => by rw [upkeep]; exact State.not_upkeep (journal_apart b hb))
    obtain ⟨w0, id, tval, failAt, fails, placed, now, tag⟩ := State.num_recorded (s := { s with cores }) p wf
    exact ⟨(record _ 0 rfl (by decide)).trans w0, (record _ 0x08 rfl (by decide)).trans id, (record _ 0x10 rfl (by decide)).trans tval,
      (record _ 0x18 rfl (by decide)).trans failAt, (record _ 0x20 rfl (by decide)).trans fails,
      (record _ 0x28 rfl (by decide)).trans placed, (record _ 0x30 rfl (by decide)).trans now,
      (record _ 0x38 rfl (by decide)).trans tag, journal⟩
  · exact ⟨_, exec_syscallDoorbell v s, s.post_posted 6 v.toNat⟩
  · intro q c not_reset first
    refine ⟨_, (exec_syscallReply v s).trans (congrArg _ (s.storeReply_records v not_reset first)), fun _ => rfl, ?_⟩
    rw [State.core_modCore_self]

end Sys2Proof.Machine
end

section
/-! PROOF. Placement (01_device R16, R17, 09_memories R161): a launch record with a QUOTA of 0 refutes the statement. -/

namespace Sys2Proof.Machine

/-! ### What a placement writes -/

theorem cells_append (q : Nat) (as bs : List Byte) : cells q (as ++ bs) = cells q as ++ cells (q + as.length) bs := by
  induction as generalizing q with
  | nil => rfl
  | cons a as ih =>
    rw [List.cons_append, cells, cells, ih, List.cons_append, List.length_cons, Nat.add_assoc, Nat.add_comm 1]

theorem Memory.write_append (m : List Host.Cell) (as bs : List (Nat × Byte)) :
    Memory.write m (as ++ bs) = Memory.write (Memory.write m as) bs := by
  induction as generalizing m with
  | nil => rfl
  | cons a as ih => exact ih _

/-- Words that become committed at once read back. -/
theorem State.num_commitAt_words {s : State} (q : Nat) (ws : List Nat) (wf : Memory.wf s.mem = true) (i : Nat) (hi : i < ws.length) :
    (s.commitAt q (ws.flatMap (toBytes 8))).num (q + 8 * i) 8 = ws[i] % 2 ^ 64 := by
  induction ws generalizing q s i with
  | nil => exact absurd hi (Nat.not_lt_zero i)
  | cons w ws ih =>
    let first := s.commitAt q (toBytes 8 w)
    have wf' : Memory.wf first.mem = true := State.commit_wf _ wf
    have split : (s.commitAt q ((w :: ws).flatMap (toBytes 8))).mem = (first.commitAt (q + 8) (ws.flatMap (toBytes 8))).mem := by
      simp only [first, State.commitAt_mem, List.flatMap_cons, cells_append, Memory.write_append, toBytes_length]
    have same (a : Nat) : (s.commitAt q ((w :: ws).flatMap (toBytes 8))).num a 8 =
        (first.commitAt (q + 8) (ws.flatMap (toBytes 8))).num a 8 := State.num_congr fun b _ => by rw [split]
    rw [same]
    cases i with
    | zero =>
      rw [State.num_congr (s := first) fun b hb => State.commitAt_bytesBut _ _ wf' b fun hw => by
        have := hb.2; have := hw.1; omega]
      have back := State.num_commitAt_self q (toBytes 8 w) wf
      rwa [toBytes_length, ofBytes_toBytes] at back
    | succ i =>
      rw [show q + 8 * (i + 1) = q + 8 + 8 * i by omega]
      exact ih (q + 8) wf' i (Nat.lt_of_succ_lt_succ hi)

/-- What no step of a fold changes, the fold leaves. -/
theorem State.foldl_same {α β : Type} {f : State → α → State} (g : State → β) (h : ∀ t a, g (f t a) = g t) (l : List α) (s : State) :
    g (l.foldl f s) = g s := by
  induction l generalizing s with
  | nil => rfl
  | cons a l ih => exact (ih (f s a)).trans (h s a)

/-- A die that joins a domain changes neither memory nor the place of the journal. -/
theorem State.joinDomain_same {β : Type} (g : State → β) (h : ∀ (s : State) dies domains, g { s with dies, domains } = g s) (s : State)
    (d : BitVec 16) (n : Nat) : g (s.joinDomain d n) = g s := by
  unfold State.joinDomain
  dsimp only
  split
  · rfl
  · split
    · exact h s _ _
    · exact h s _ s.domains

theorem State.flushHeld_mem (s : State) (r : RingId) : (s.flushHeld r).mem = s.mem := by
  unfold State.flushHeld State.unmap
  dsimp only
  split
  · split <;> rfl
  · rfl

/-- The threads and windows of one core: of memory, its window alone changes (01_device R17). -/
theorem State.fillCores_one_mem (s : State) (p : Part) (pop : Nat) (im users : List Word) (c : CoreId) (first : Nat) :
    (s.fillCores p pop im users [c] first).mem = (s.commitAt (vaultBase c.val + 0xC000 + 0x800 * p.val)
      ((s.windowWords p pop users c ((((s.core c.val).freeFor p).take (launchQuota im)).headD 0) first).flatMap (toBytes 8))).mem := by
  simp only [State.fillCores]
  exact State.foldl_same State.mem (by intros; rfl) _ _

theorem State.fillCores_journal (s : State) (p : Part) (pop : Nat) (im users : List Word) (cores : List CoreId) (first : Nat) :
    (s.fillCores p pop im users cores first).jbase = s.jbase ∧ (s.fillCores p pop im users cores first).jlog = s.jlog := by
  induction cores generalizing s first with
  | nil => exact ⟨rfl, rfl⟩
  | cons c cores ih =>
    simp only [State.fillCores]
    obtain ⟨jbase, jlog⟩ := ih _ _
    rw [jbase, jlog]
    exact ⟨State.foldl_same State.jbase (by intros; rfl) _ _, State.foldl_same State.jlog (by intros; rfl) _ _⟩

/-- A placement ends with the change of the journal entry, before which memory holds what the threads and windows of the cores left. -/
theorem State.place_journal (s : State) (q : Nat) (r : RingId) (h : Running) (users : List Word) (shared : List (Nat × Nat)) :
    ∃ t : State, t.mem = (s.fillCores (s.ring r.val).part s.nextPop.toNat h.image users (launchCores h.image) 0).mem ∧
      (∀ j, t.journalAt j = s.journalAt j) ∧
      (s.place q r h users shared).mem = (t.journal h.journal.toNat r.val 2 1 0 0 (some s.nextPop.toNat)).mem := by
  obtain ⟨jbase, jlog⟩ := s.fillCores_journal (s.ring r.val).part s.nextPop.toNat h.image users (launchCores h.image) 0
  unfold State.place
  dsimp only
  generalize s.fillCores (s.ring r.val).part s.nextPop.toNat h.image users (launchCores h.image) 0 = filled at jbase jlog ⊢
  generalize launchCores h.image = cores
  rw [State.flushHeld_mem, State.setActive_mem]
  have joins {β : Type} (g : State → β) (other : ∀ (t : State) dies domains, g { t with dies, domains } = g t) (d : BitVec 16) (t : State) :
      g (cores.foldl (fun (t : State) (c : CoreId) => t.joinDomain d (dieOf c.val)) t) = g t :=
    State.foldl_same g (fun t c => State.joinDomain_same g other t d (dieOf c.val)) cores t
  refine ⟨_, ?_, fun j => ?_, rfl⟩
  · split
    · exact joins State.mem (fun _ _ _ => rfl) _ _
    · rfl
  · rw [State.journalAt, State.journalAt, ← jbase, ← jlog]
    split
    · rw [joins State.jbase (fun _ _ _ => rfl), joins State.jlog (fun _ _ _ => rfl)]
      rfl
    · rfl

/-- Outside the journal entry of its record, a placement leaves of memory what the threads and windows of its cores leave (01_device
R17, 14_queues R256). -/
theorem State.place_num {s : State} (q : Nat) (r : RingId) (h : Running) (users : List Word) (shared : List (Nat × Nat)) {a n : Nat}
    (wf : Memory.wf (s.fillCores (s.ring r.val).part s.nextPop.toNat h.image users (launchCores h.image) 0).mem = true)
    (out : ∀ b, span a n b → ¬ span (s.journalAt h.journal.toNat) 64 b) :
    (s.place q r h users shared).num a n =
      (s.fillCores (s.ring r.val).part s.nextPop.toNat h.image users (launchCores h.image) 0).num a n := by
  obtain ⟨t, filled, at_, mem⟩ := s.place_journal q r h users shared
  generalize s.fillCores (s.ring r.val).part s.nextPop.toNat h.image users (launchCores h.image) 0 = u at filled wf ⊢
  have journal := t.journal_tidies h.journal.toNat r.val 2 1 0 0 (some s.nextPop.toNat)
  rw [at_] at journal
  calc (s.place q r h users shared).num a n
    _ = (t.journal h.journal.toNat r.val 2 1 0 0 (some s.nextPop.toNat)).num a n := State.num_congr fun b _ => by rw [mem]
    _ = t.num a n := journal.num (by rwa [filled]) out
    _ = u.num a n := State.num_congr fun b _ => by rw [filled]

theorem exec_populationPlacement (q : ActiveId) (s : State) : exec (.populationPlacement q) s = execPopulationPlacement q s := by rfl

/-- A LAUNCH that has room, and whose addresses translate, is placed (01_device R16, R17). -/
theorem exec_populationPlacement_of_room {s : State} {q : ActiveId} {r : RingId} {h : Running} {shared : List (Nat × Nat)} {users : List Word}
    (waits : s.headOf q.val 1 = some (r, h)) (room : s.placeable (s.ring r.val).part h.image = true)
    (ranges : s.launchRanges (s.ring r.val).part h.image = .ok shared)
    (words : s.wordsFor (s.ring r.val).part (launchWord h.image 6) (launchUsers h.image) = .ok users) :
    exec (.populationPlacement q) s = .next (s.place q.val r h users shared) := by
  simp [exec_populationPlacement, execPopulationPlacement, waits, room, ranges, words]

/-! ### A placement of no threads -/

/-- A launch record for core 0 whose QUOTA is 0. -/
def zeroQuotaImage : List Word := List.replicate 16 0 ++ [1] ++ List.replicate 15 0
/-- The record as a LAUNCH that was accepted. -/
def zeroQuotaLaunch : Running :=
  { index := 0, kind := 1, words := Vector.replicate 8 0, journal := 0, at_ := 0x32000, image := zeroQuotaImage, pop := none }
/-- That LAUNCH at the head of active slot 0, with the journal in HBM; of core 0, slot 1 alone belongs to partition 0. -/
def zeroQuotaState : State :=
  { State.reset with
    jbase := BitVec.ofNat 64 Config.hbmBase
    cores := [(0, { Core.reset with partmap := 0x80 })]
    actives := [(0, { ring := some 0, wait := 1, head := some zeroQuotaLaunch })] }

theorem zeroQuota_cores : launchCores zeroQuotaLaunch.image = [0] := by decide +kernel
theorem zeroQuota_freeFor : (zeroQuotaState.core 0).freeFor 0 = [1] := by decide +kernel

/-- The LAUNCH can be placed, and is. -/
theorem zeroQuota_placed : exec (.populationPlacement 0) zeroQuotaState = .next (zeroQuotaState.place 0 0 zeroQuotaLaunch [] []) :=
  exec_populationPlacement_of_room (q := 0) rfl (by decide +kernel) rfl rfl

/-- The words of the window that the placement fills (01_device R17). -/
def zeroQuotaWindow : List Nat := zeroQuotaState.windowWords 0 1 [] 0 0 0

theorem zeroQuota_filled : (zeroQuotaState.fillCores (zeroQuotaState.ring (0 : RingId).val).part zeroQuotaState.nextPop.toNat
    zeroQuotaLaunch.image [] (launchCores zeroQuotaLaunch.image) 0).mem =
      (zeroQuotaState.commitAt (vaultBase 0 + 0xC000 + 0x800 * 0) (zeroQuotaWindow.flatMap (toBytes 8))).mem := by
  have part : (zeroQuotaState.ring (0 : RingId).val).part = 0 := rfl
  have pop : zeroQuotaState.nextPop.toNat = 1 := rfl
  rw [zeroQuota_cores, part, pop]
  exact State.fillCores_one_mem ..

/-- Word 249 of the window, which names the slot of the first thread placed, is 0 where none is placed (09_memories R161). -/
theorem zeroQuota_word : (zeroQuotaState.place 0 0 zeroQuotaLaunch [] []).num (vaultBase 0 + 0xC000 + 0x800 * 0 + 8 * 249) 8 = 0 := by
  have wf : Memory.wf zeroQuotaState.mem = true := rfl
  have journal : zeroQuotaState.journalAt zeroQuotaLaunch.journal.toNat = 0x10000000000 := by decide +kernel
  have below : vaultBase 0 + 0xC000 + 0x800 * 0 + 8 * 249 + 8 < 0x10000000000 := by decide
  obtain ⟨long, word⟩ := List.getElem?_eq_some_iff.mp (show zeroQuotaWindow[249]? = some 0 by decide +kernel)
  rw [State.place_num]
  · refine (State.num_congr fun b _ => congrArg (Memory.get · b) zeroQuota_filled).trans ?_
    refine (State.num_commitAt_words _ zeroQuotaWindow wf 249 long).trans ?_
    exact (congrArg (· % 2 ^ 64) word).trans (Nat.zero_mod _)
  · rw [zeroQuota_filled]
    exact State.commit_wf _ wf
  · intro b hb hj
    rw [journal] at hj
    have := hb.2; have := hj.1; omega

/-- Refutes O50: a launch record may name a QUOTA of 0, of which acceptance alone is the check. Then no thread is placed, and word
249 of the window is 0, while the statement has it name the first free slot of the core. -/
theorem not_placement : ¬ Obligations.Placement := by
  unfold Obligations.Placement
  intro holds
  obtain ⟨-, whole⟩ := holds zeroQuotaState 0 0 zeroQuotaLaunch rfl rfl rfl rfl
  obtain ⟨-, -, placed⟩ := whole 0 [] [] (by rw [zeroQuota_cores]; rfl) (by decide +kernel) (by decide +kernel) (by decide +kernel)
  obtain ⟨t, ran, -, -, -, -, -, windows⟩ := placed rfl rfl (by decide +kernel)
  obtain ⟨-, -, window⟩ := windows 0 0 (by rw [zeroQuota_cores]; rfl)
  obtain ⟨-, -, slot, -⟩ := window (by decide)
  have same : zeroQuotaState.place 0 0 zeroQuotaLaunch [] [] = t := Host.Outcome.next.inj (zeroQuota_placed.symm.trans ran)
  rw [← same] at slot
  have named : (((zeroQuotaState.core 0).freeFor 0).headD 0).val = 1 := by rw [zeroQuota_freeFor]; rfl
  exact absurd ((zeroQuota_word.symm.trans slot).trans named) (by decide)

end Sys2Proof.Machine
end

section
/-! SUPPORT. Reads and writes of control registers (04_registers R75-R82): when `crd` and `crw` complete and when they wait, and what a
completed instruction leaves of a core, of a die and of the state outside them. -/

namespace Sys2Proof.Machine

/-! ### Dies, ports and the executing core after an update -/

@[simp] theorem State.die_modDie_self (s : State) (d : Nat) (f : Die → Die) : (s.modDie d f).die d = f (s.die d) := by
  simp [State.die, State.modDie]
theorem State.die_modDie_ne (s : State) {d e : Nat} (f : Die → Die) (h : e ≠ d) : (s.modDie d f).die e = s.die e := by
  simp [State.die, State.modDie, SMap.get_set_ne _ _ _ h]
@[simp] theorem State.port_modPort_self (s : State) (p : Nat) (f : LinkPort → LinkPort) : (s.modPort p f).port p = f (s.port p) := by
  simp [State.port, State.modPort]
theorem State.port_modPort_ne (s : State) {p q : Nat} (f : LinkPort → LinkPort) (h : q ≠ p) : (s.modPort p f).port q = s.port q := by
  simp [State.port, State.modPort, SMap.get_set_ne _ _ _ h]
theorem State.core_modMyCore_self (s : State) (f : Core → Core) : (s.modMyCore f).core s.myId = f s.myCore :=
  s.core_modCore_self _ f
theorem State.core_modMyCore_ne (s : State) (f : Core → Core) {c : Nat} (h : c ≠ s.myId) : (s.modMyCore f).core c = s.core c :=
  s.core_modCore_ne f h

/-- An update of the executing core's registers leaves every slot. -/
theorem State.slotAt_modMyCore (s : State) {f : Core → Core} (slots : (f s.myCore).slots = s.myCore.slots) (q : Place) :
    (s.modMyCore f).slotAt q = s.slotAt q := by
  unfold State.slotAt
  by_cases h : q.core.val = s.myId
  · rw [h, State.core_modMyCore_self, slots]
    rfl
  · rw [State.core_modMyCore_ne _ _ h]

/-- The same update of the dies from 0 up to `n`. -/
theorem State.die_foldl_modDie (f : Die → Die) (s : State) (n d : Nat) :
    ((List.range n).foldl (fun t e => t.modDie e f) s).die d = if d < n then f (s.die d) else s.die d := by
  induction n with
  | zero => rfl
  | succ n ih =>
    rw [List.range_succ, List.foldl_append, List.foldl_cons, List.foldl_nil]
    by_cases h : d = n
    · subst h; simp [ih]
    · rw [State.die_modDie_ne _ _ h, ih]
      simp only [show d < n + 1 ↔ d < n by omega]

/-- Updates of dies leave all but the dies. -/
theorem State.foldl_modDie_eq (f : Die → Die) (l : List Nat) (s : State) :
    l.foldl (fun t e => t.modDie e f) s = { s with dies := (l.foldl (fun t e => t.modDie e f) s).dies } := by
  induction l generalizing s with
  | nil => rfl
  | cons e l ih => rw [List.foldl_cons, ih]; rfl

/-! ### When `crd` and `crw` complete -/

theorem exec_crd (d : XReg) (r : Cr) (s : State) : exec (.crd d r) s = execCrd d r s := by rfl
theorem exec_crw (a : XReg) (r : Cr) (s : State) : exec (.crw a r) s = execCrw a r s := by rfl

section
variable {s : State} {r : Cr}

/-- The executing slot may read and write the register (04_registers R75). -/
theorem privileged_check (reach : privileged r = false ∨ s.isSup = true) : (!privileged r || s.isSup) = true := by
  rcases reach with h | h <;> simp [h]

/-- A register that the slot reaches, and that waits for no flags, is read into X[d] (04_registers R76). -/
theorem exec_crd_of_ready (d : XReg) (calm : s.calm) (reach : privileged r = false ∨ s.isSup = true) (ready : s.crReady r = .ok () := by rfl) :
    SetsX (.crd d r) s d (s.cr r) := by
  have done : exec (.crd d r) s = seq s (.ok (s.setX d (s.cr r))) := by
    rw [exec_crd, execCrd, privileged_check reach, ready]; rfl
  unfold SetsX
  rw [done]
  exact seq_setX s d (s.cr r) calm

/-- A register that the slot reaches, and that waits for no flags, is written field by field (04_registers R76). -/
theorem exec_crw_of_ready (a : XReg) (reach : privileged r = false ∨ s.isSup = true) (ready : s.crReady r = .ok () := by rfl)
    (other : r ≠ .phbuf := by nofun) :
    exec (.crw a r) s = seq s (s.writeCr r (s.x a)) := by
  rw [exec_crw, execCrw, privileged_check reach, ready]
  simp only [other, if_false]
  cases s.writeCr r (s.x a) <;> rfl

/-- FFLAGS is ready once no flags of the thread are to come (07_vector R117). -/
theorem State.crReady_fflags (none_out : s.flagsOut s.cur = false) : s.crReady .fflags = .ok () := by
  simp [State.crReady, needFlags, none_out]

/-- While flags of the thread are to come, `crd` and `crw` of FFLAGS stall (07_vector R117). -/
theorem exec_fflags_of_flagsOut (out : s.flagsOut s.cur = true) (a d : XReg) {i : Instr} (hi : i = .crd d .fflags ∨ i = .crw a .fflags) :
    exec i s = .next (s.modMe fun t => { t with state := .stalled, wait := some (.flags s.cur), stalls := [] }) := by
  have waits : s.crReady .fflags = .error (.interlock s (.flags s.cur)) := by simp [State.crReady, needFlags, out]
  rcases hi with rfl | rfl
  · rw [exec_crd, execCrd, privileged_check (.inl rfl), waits]; rfl
  · rw [exec_crw, execCrw, privileged_check (.inl rfl), waits]; rfl

/-- A write of a register that every slot reaches, whose effect is on the executing slot alone. -/
theorem crw_goes {a : XReg} {f : Slot → Slot} (write : s.writeCr r (s.x a) = .ok (s.modMe f)) (calm : (f s.me).calm)
    (reach : privileged r = false := by rfl) (ready : s.crReady r = .ok () := by rfl) (other : r ≠ .phbuf := by nofun) :
    Goes (.crw a r) s (s.me.pc + 4) f := by
  unfold Goes
  rw [exec_crw_of_ready a (.inl reach) ready other, write]
  exact seq_modMe s f calm

end

/-! ### What a completed instruction leaves of a core and outside it -/

/-- The instruction of the executing slot has completed with no effect on the slot: the PC has moved on, every other slot and every
byte of memory stand as they stood, and of the cores only watchdog entries may have changed. -/
def Moved (s t : State) : Prop :=
  t.me = { s.me with pc := s.me.pc + 4, wait := none, prog := .none, stalls := [] } ∧ SameBytes s t ∧
  (∀ q, q ≠ s.cur → t.slotAt q = s.slotAt q) ∧ ∀ c, t.core c = { s.core c with slots := (t.core c).slots, watch := (t.core c).watch }

/-- An effect outside the cores and memory, of a calm thread. -/
theorem retire_moved {s u : State} (cur : u.cur = s.cur) (mem : u.mem = s.mem) (cores : u.cores = s.cores) (calm : s.calm) :
    Moved s (u.retire (s.me.pc + 4)) ∧ u.retire (s.me.pc + 4) = { u with cores := (u.retire (s.me.pc + 4)).cores } := by
  have core : ∀ c, u.core c = s.core c := fun c => by unfold State.core; rw [cores]
  have slot : ∀ q, u.slotAt q = s.slotAt q := fun q => by unfold State.slotAt; rw [core]
  have me : u.me = s.me := by unfold State.me; rw [cur, slot]
  obtain ⟨⟨rest, bytes, slots, regs⟩, mine⟩ := u.retire_calm (s.me.pc + 4) (by rw [me]; exact calm)
  refine ⟨⟨by rw [mine, me], fun q => by rw [bytes, mem], fun q hq => ?_, fun c => by rw [regs, core]⟩, rest⟩
  rw [slots q (by rwa [cur]), slot]

/-- The instruction completes with the registers of the executing core changed by `f`, and nothing else but the PC and watchdog
entries. -/
def WritesCore (i : Instr) (s : State) (f : Core → Core) : Prop :=
  ∃ t, exec i s = .next t ∧ SameBytes s t ∧
    t.me = { s.me with pc := s.me.pc + 4, wait := none, prog := .none, stalls := [] } ∧ (∀ q, q ≠ s.cur → t.slotAt q = s.slotAt q) ∧
    t = { s with cores := t.cores } ∧
    (∀ c, c ≠ s.myId → t.core c = { s.core c with watch := (t.core c).watch }) ∧
    t.core s.myId = { f s.myCore with slots := (t.core s.myId).slots, watch := (t.core s.myId).watch }

/-- The end of a calm thread's instruction leaves another core as it was, but for watchdog entries (08_slots R155). -/
theorem State.retire_core_ne {s : State} (next : Word) (calm : s.calm) {c : Nat} (hc : c ≠ s.cur.core.val) :
    (s.retire next).core c = { s.core c with watch := ((s.retire next).core c).watch } := by
  obtain ⟨goes_on, no_intr, -⟩ := calm
  have cur : (s.advance next).cur = s.cur := (s.advance_only next).cur
  have intr : ((s.advance next).slotAt (s.advance next).cur).intr = none := by
    show (s.advance next).me.intr = none
    rw [State.advance_me]; exact no_intr
  have ends : s.retire next = (s.advance next).modMe Slot.holdBack := by simp [State.retire, goes_on, State.takeIntr, intr]
  have core : (s.retire next).core c = (s.advance next).core c := by
    rw [ends, State.modMe, State.modSlot, State.core_modCore_ne _ _ (by rwa [cur])]
  rw [core, State.advance, State.pulse_core, State.modMe, State.modSlot, State.core_modCore_ne _ _ hc]

/-- An effect on the registers of the executing core alone. -/
theorem seq_modMyCore {s : State} {i : Instr} {f : Core → Core} (slots : (f s.myCore).slots = s.myCore.slots) (calm : s.calm)
    (done : exec i s = seq s (.ok (s.modMyCore f))) : WritesCore i s f := by
  have slot := s.slotAt_modMyCore slots
  have me : (s.modMyCore f).me = s.me := slot s.cur
  have calm' : (s.modMyCore f).calm := by unfold State.calm; rwa [me]
  obtain ⟨⟨rest, bytes, others, regs⟩, mine⟩ := (s.modMyCore f).retire_calm (s.me.pc + 4) calm'
  refine ⟨(s.modMyCore f).retire (s.me.pc + 4), done, bytes, by rw [mine, me], fun q hq => by rw [others q hq, slot], rest,
    fun c hc => ?_, ?_⟩
  · rw [State.retire_core_ne _ calm' hc, State.core_modMyCore_ne s f hc]
  · rw [regs, State.core_modMyCore_self]

section
variable {s : State} {r : Cr} {a : XReg} (sup : s.isSup = true)
include sup

/-- A write in slot 15 whose effect is on the registers of its core alone. -/
theorem crw_core {f : Core → Core} (calm : s.calm) (write : s.writeCr r (s.x a) = .ok (s.modMyCore f))
    (slots : (f s.myCore).slots = s.myCore.slots := by rfl) (ready : s.crReady r = .ok () := by rfl) (other : r ≠ .phbuf := by nofun) :
    WritesCore (.crw a r) s f :=
  seq_modMyCore slots calm (by rw [exec_crw_of_ready a (.inr sup) ready other, write])

/-- A write in slot 15 whose effect is outside the cores and memory. -/
theorem crw_moved {u : State} (calm : s.calm) (write : s.writeCr r (s.x a) = .ok u) (cur : u.cur = s.cur := by rfl)
    (mem : u.mem = s.mem := by rfl) (cores : u.cores = s.cores := by rfl) (ready : s.crReady r = .ok () := by rfl)
    (other : r ≠ .phbuf := by nofun) : ∃ t, exec (.crw a r) s = .next t ∧ Moved s t ∧ t = { u with cores := t.cores } := by
  rw [exec_crw_of_ready a (.inr sup) ready other, write]
  exact ⟨_, rfl, retire_moved cur mem cores calm⟩

/-- A write in slot 15 whose effect is on its die alone. -/
theorem crw_die {f : Die → Die} (calm : s.calm) (write : s.writeCr r (s.x a) = .ok (s.modMyDie f))
    (ready : s.crReady r = .ok () := by rfl) (other : r ≠ .phbuf := by nofun) : ∃ t, exec (.crw a r) s = .next t ∧ Moved s t ∧
      t = { s with cores := t.cores, dies := t.dies } ∧ t.myDie = f s.myDie ∧ ∀ d, d ≠ dieOf s.myId → t.die d = s.die d := by
  obtain ⟨t, ran, moved, rest⟩ := crw_moved sup calm write (ready := ready) (other := other)
  have cur : t.cur = s.cur := by rw [rest]; rfl
  have die : ∀ d, t.die d = (s.modMyDie f).die d := fun d => by rw [rest]; rfl
  refine ⟨t, ran, moved, by rw [rest]; rfl, ?_, fun d hd => (die d).trans (s.die_modDie_ne f hd)⟩
  rw [State.myDie, die, cur, State.modMyDie, State.die_modDie_self]
  rfl

/-- With no write withheld, a write of PHBUF lets none in (09_memories R175). -/
theorem exec_crw_phbuf {f : Core → Core} (none_withheld : s.withheld = [])
    (write : s.writeCr .phbuf (s.x a) = .ok (s.modMyCore f)) : exec (.crw a .phbuf) s = seq s (.ok (s.modMyCore f)) := by
  have retry : (s.modMyCore f).retryWithheld = s.modMyCore f := by
    simp only [State.retryWithheld, State.modMyCore_withheld, none_withheld, List.foldl_nil]
    rw [← none_withheld]; rfl
  rw [exec_crw, execCrw, privileged_check (.inr sup), write]
  change seq s (.ok (s.modMyCore f).retryWithheld) = _
  rw [retry]

end

/-! ### The end of an event by a write of TS -/

/-- The frame of a step depends on what it does to the executing slot alone. -/
theorem Ends.congr {s t : State} {next : Word} {f g : Slot → Slot} (h : Ends s t next f) (same : f s.me = g s.me) : Ends s t next g :=
  ⟨h.1, by rw [h.2, same]⟩

section
variable {s : State}

/-- Out of optimistic mode there is no event to end (15_messages R287). -/
theorem State.endEvent_plain (opt : s.me.opt = false) : s.endEvent = .ok s := by
  simp [State.endEvent, opt]

/-- With no event open and none to end, a write that clears OPT ends nothing (15_messages R287). -/
theorem State.endEvent_idle (opt : s.me.opt = true) (closed : s.me.evo = false)
    (settled : s.me.prog ≠ .ended ∨ s.me.lvt.toNat < s.myDie.gvt.toNat) : s.endEvent = .ok s := by
  rcases settled with h | h <;> simp [State.endEvent, opt, closed, BitVec.ult, h]

/-- An open event whose time GVT has passed is closed at once (15_messages R287). -/
theorem State.endEvent_final (opt : s.me.opt = true) (open_ : s.me.evo = true) (final : s.me.lvt.toNat < s.myDie.gvt.toNat) :
    s.endEvent = .ok (s.modMe fun t => { t with evo := false, range := none }) := by
  simp [State.endEvent, opt, open_, BitVec.ult, final]

/-- An open event whose time GVT has not passed is closed, and the write waits (15_messages R287). -/
theorem State.endEvent_waits (opt : s.me.opt = true) (open_ : s.me.evo = true) (early : ¬ s.me.lvt.toNat < s.myDie.gvt.toNat) :
    s.endEvent = waitFor (s.modMe fun t => { t with evo := false, range := none, prog := .ended }) (.gvtAbove s.me.lvt) := by
  simp [State.endEvent, opt, open_, BitVec.ult, early]

/-- The write waits on where it has closed its event and GVT has not passed the event's time (15_messages R287). -/
theorem State.endEvent_waits_on (opt : s.me.opt = true) (closed : s.me.evo = false) (ended : s.me.prog = .ended)
    (early : ¬ s.me.lvt.toNat < s.myDie.gvt.toNat) : s.endEvent = waitFor s (.gvtAbove s.me.lvt) := by
  simp [State.endEvent, opt, closed, ended, BitVec.ult, early]

variable {a : XReg} (clears : (s.x a).getLsbD 0 = false)
include clears

/-- A write that clears OPT ends the event, then clears it (04_registers R78). -/
theorem State.writeCr_ts_clear : s.writeCr .ts (s.x a) = s.endEvent.map fun t => t.modMe fun t => { t with opt := false } :=
  if_neg (Bool.eq_false_iff.mp clears)

/-- Where the event ends at once, so does the write. -/
theorem crw_ts_goes {u : State} {f : Slot → Slot} (ends : s.endEvent = .ok u)
    (cleared : u.modMe (fun t => { t with opt := false }) = s.modMe f) (calm : (f s.me).calm) : Goes (.crw a .ts) s (s.me.pc + 4) f :=
  crw_goes (by rw [State.writeCr_ts_clear clears, ends, ← cleared]; rfl) calm

/-- Where the event waits for GVT, so does the write (15_messages R287). -/
theorem crw_ts_waits {u : State} {k : Slot} {c : Cond} (ends : s.endEvent = waitFor u c) (only : SlotOnly s u) (me : u.me = k) :
    ∃ t, exec (.crw a .ts) s = .next t ∧ SlotOnly s t ∧ t.me = { k with state := .wait, wait := some c, stalls := [] } := by
  rw [exec_crw_of_ready a (.inl rfl), State.writeCr_ts_clear clears, ends]
  exact ⟨_, rfl, only.trans (SlotOnly.modMe u _), by rw [State.me_modMe, me]⟩

end

/-! ### PARTMAP -/

/-- The number with the nibbles of a list, the lowest first. -/
def ofNibbles : List Nat → Nat
  | [] => 0
  | d :: l => d + 16 * ofNibbles l

theorem ofNibbles_lt {l : List Nat} (small : ∀ d ∈ l, d < 16) : ofNibbles l < 16 ^ l.length := by
  induction l with
  | nil => exact Nat.one_pos
  | cons d l ih =>
    have head := small d List.mem_cons_self
    have tail := ih fun e he => small e (List.mem_cons_of_mem d he)
    rw [ofNibbles, List.length_cons, Nat.pow_succ]
    omega

theorem ofNibbles_nibble {l : List Nat} (small : ∀ d ∈ l, d < 16) {i : Nat} (hi : i < l.length) : ofNibbles l / 16 ^ i % 16 = l[i] := by
  induction l generalizing i with
  | nil => exact absurd hi (Nat.not_lt_zero i)
  | cons d l ih =>
    have head := small d List.mem_cons_self
    cases i with
    | zero => rw [ofNibbles, Nat.pow_zero, Nat.div_one, List.getElem_cons_zero]; omega
    | succ i =>
      have shifted : (d + 16 * ofNibbles l) / 16 = ofNibbles l := by omega
      rw [ofNibbles, Nat.pow_succ', ← Nat.div_div_eq_div_mul, shifted, List.getElem_cons_succ]
      exact ih (fun e he => small e (List.mem_cons_of_mem d he)) (Nat.lt_of_succ_lt_succ hi)

/-- A sum of nibbles, one for each slot of a list that counts up from `k`. -/
theorem sum_nibbles_from (n : SlotId → Nat) (l : List SlotId) (k : Nat) (rising : ∀ (j : Nat) (hj : j < l.length), l[j].val = k + j) :
    (l.map fun i => n i * 2 ^ (4 * i.val)).sum = 2 ^ (4 * k) * ofNibbles (l.map n) := by
  induction l generalizing k with
  | nil => rfl
  | cons i l ih =>
    have head : i.val = k := rising 0 (Nat.zero_lt_succ _)
    have tail := ih (k + 1) fun j hj => (rising (j + 1) (Nat.succ_lt_succ hj)).trans (by omega)
    have power : 2 ^ (4 * (k + 1)) = 2 ^ (4 * k) * 16 := by rw [Nat.mul_succ, Nat.pow_add]
    rw [List.map_cons, List.sum_cons, List.map_cons, ofNibbles, head, tail, power, Nat.mul_add, Nat.mul_assoc, Nat.mul_comm (n i)]

theorem tenantSlots_getElem : ∀ (i : Nat) (hi : i < tenantSlots.length), tenantSlots[i] = ⟨i, Nat.lt_succ_of_lt hi⟩ := by decide

/-- A sum of nibbles, one for each tenant slot (04_registers R79). -/
theorem sum_nibbles (n : SlotId → Nat) : (tenantSlots.map fun i => n i * 2 ^ (4 * i.val)).sum = ofNibbles (tenantSlots.map n) := by
  rw [sum_nibbles_from n tenantSlots 0 fun j hj => by rw [tenantSlots_getElem j hj, Nat.zero_add], Nat.mul_zero, Nat.pow_zero, Nat.one_mul]

/-- The nibble that a write of `v` leaves for slot `i`. -/
def Core.partmapNibble (k : Core) (v : Word) (i : SlotId) : Nat :=
  bits (if k.slots[i.val].state == .free then v.toNat else k.partmap.toNat) (4 * i.val) 4

theorem Core.writePartmap_toNat (k : Core) (v : Word) :
    (k.writePartmap v).partmap.toNat = ofNibbles (tenantSlots.map (k.partmapNibble v)) % 2 ^ 64 :=
  (BitVec.toNat_ofNat ..).trans (congrArg (· % 2 ^ 64) (sum_nibbles (k.partmapNibble v)))

/-- PARTMAP after a write of `v`: the nibble of a FREE slot is that of `v`, and every other one stays (04_registers R79). -/
theorem Core.writePartmap_nibbles (k : Core) (v : Word) :
    (k.writePartmap v).partmap.toNat < 2 ^ 60 ∧ ∀ i : Fin 15, (k.writePartmap v).partmap.extractLsb' (4 * i.val) 4 =
      (if (k.slots[i.val]).state = .free then v else k.partmap).extractLsb' (4 * i.val) 4 := by
  have small : ∀ d ∈ tenantSlots.map (k.partmapNibble v), d < 16 := by
    simp only [List.mem_map, forall_exists_index, and_imp, forall_apply_eq_imp_iff₂]
    exact fun i _ => Nat.mod_lt _ (by decide)
  have bound : ofNibbles (tenantSlots.map (k.partmapNibble v)) < 2 ^ 60 := by
    have := ofNibbles_lt small
    rwa [List.length_map, show (16 : Nat) ^ tenantSlots.length = 2 ^ 60 by decide] at this
  have value : (k.writePartmap v).partmap.toNat = ofNibbles (tenantSlots.map (k.partmapNibble v)) :=
    (k.writePartmap_toNat v).trans (Nat.mod_eq_of_lt (Nat.lt_trans bound (by decide)))
  refine ⟨value ▸ bound, fun i => BitVec.eq_of_toNat_eq ?_⟩
  have hi : i.val < tenantSlots.length := i.isLt
  have digit := ofNibbles_nibble small (i := i.val) (by rw [List.length_map]; exact hi)
  rw [List.getElem_map, tenantSlots_getElem i.val hi, ← value] at digit
  rw [BitVec.extractLsb'_toNat, BitVec.extractLsb'_toNat, Nat.shiftRight_eq_div_pow, Nat.shiftRight_eq_div_pow, Nat.pow_mul]
  refine digit.trans ?_
  simp only [Core.partmapNibble, bits, Nat.pow_mul, beq_iff_eq, apply_ite BitVec.toNat]

/-- A write of PARTMAP changes PARTMAP of the executing core (04_registers R79). -/
theorem State.writeCr_partmap (s : State) (v : Word) :
    s.writeCr .partmap v = .ok (s.modMyCore fun k => { k with partmap := (s.myCore.writePartmap v).partmap }) :=
  congrArg (fun k => Except.ok (s.setCore s.myId k)) (show s.myCore.writePartmap v = _ from rfl)

/-! ### XINV -/

/-- A write of XINV takes its fields, and BUSY is set for scopes 0-3 (04_registers R80). -/
theorem Die.writeXinv_eq (k : Die) (v : Word) : k.writeXinv v =
    { k with xscope := BitVec.ofNat 3 v.toNat, xpart := Fin.ofNat 8 (v.toNat / 2 ^ 4), xpage := BitVec.ofNat 45 (v.toNat / 2 ^ 12),
             xbusy := decide (v.toNat % 8 < 4) } := by
  simp [Die.writeXinv, bits, BitVec.ofNat_toNat]

/-! ### CLKL and the group's ceiling -/

/-- Of the dies only the schedule of ceiling changes has changed, and outside them only what the package knows and says of its
group (20_counters R339, R342). -/
def Reschedules (s t : State) : Prop :=
  t = { s with dies := t.dies, group := t.group } ∧ ∀ d, t.die d = { s.die d with sched := (t.die d).sched }

namespace Reschedules

theorem refl (s : State) : Reschedules s s := ⟨rfl, fun _ => rfl⟩

theorem trans {s t u : State} (h : Reschedules s t) (h' : Reschedules t u) : Reschedules s u :=
  ⟨by rw [h'.1, h.1], fun d => by rw [h'.2 d, h.2 d]⟩

theorem group (s : State) (g : Group) : Reschedules s { s with group := g } := ⟨rfl, fun _ => rfl⟩

theorem foldl {α : Type} {f : State → α → State} (h : ∀ t a, Reschedules t (f t a)) (l : List α) (s : State) :
    Reschedules s (l.foldl f s) := by
  induction l generalizing s with
  | nil => exact refl s
  | cons a l ih => exact (h s a).trans (ih _)

theorem modDie_sched (s : State) (d : Nat) (f : Die → List (Word × BitVec 16)) : Reschedules s (s.modDie d fun k => { k with sched := f k }) := by
  refine ⟨rfl, fun e => ?_⟩
  by_cases h : e = d
  · subst h; simp
  · rw [State.die_modDie_ne _ _ h]

theorem schedule16 (s : State) (e : Nat) : Reschedules s (s.schedule16 e) := by
  unfold State.schedule16
  generalize List.range 8 = dies
  exact foldl (fun t d => modDie_sched t d _) dies s

theorem sendGroup (s : State) (kind mhz time : Nat) : Reschedules s (s.sendGroup kind mhz time) := by
  unfold State.sendGroup
  split
  · exact group s _
  · exact refl s

theorem settleRaises (s : State) : Reschedules s s.settleRaises :=
  (group s _).trans (foldl schedule16 _ _)

theorem relimit (s : State) : Reschedules s s.relimit := by
  unfold State.relimit
  dsimp only
  split
  · exact ((group s _).trans (sendGroup _ _ _ _)).trans (schedule16 _ _)
  · split
    · exact ((group s _).trans (sendGroup _ _ _ _)).trans (settleRaises _)
    · exact refl s

end Reschedules

/-- A write of CLKL reaches every die; then the package's limit may change (04_registers R80). -/
theorem State.writeClkl_eq (s : State) (v : Word) : ∃ u : State, s.writeClkl v = u.relimit ∧ u = { s with dies := u.dies } ∧
    ∀ d < 8, u.die d = { s.die d with clkl := v.setWidth 16 } :=
  ⟨_, rfl, State.foldl_modDie_eq _ (List.range 8) s, fun d hd => (State.die_foldl_modDie _ s 8 d).trans (if_pos hd)⟩

/-- A write of CLKL changes the dies, of which a schedule may change beside CLKL, and what the package knows and says of its
group (04_registers R80, 20_counters R339). -/
theorem State.writeClkl_dies (s : State) (v : Word) :
    s.writeClkl v = { s with dies := (s.writeClkl v).dies, group := (s.writeClkl v).group } ∧
      ∀ d < 8, (s.writeClkl v).die d = { s.die d with clkl := v.setWidth 16, sched := ((s.writeClkl v).die d).sched } := by
  obtain ⟨u, written, whole, each⟩ := s.writeClkl_eq v
  obtain ⟨rest, dies⟩ := Reschedules.relimit u
  rw [← written] at rest dies
  generalize s.writeClkl v = t at rest dies ⊢
  exact ⟨by rw [rest, whole], fun d hd => (dies d).trans (by rw [each d hd])⟩

end Sys2Proof.Machine
end

section
/-! PROOF. Control registers: what `crd` reads, what `crw` writes, and what they hold right after reset (04_registers R71, R75-R82). -/

namespace Sys2Proof.Machine

/-! ### Reads -/

/-- A register of at most 64 bits reads as its number. -/
theorem setWidth_eq_ofNat {n : Nat} (x : BitVec n) : x.setWidth 64 = BitVec.ofNat 64 x.toNat := (BitVec.ofNat_toNat ..).symm
theorem word_eq_ofNat (x : Word) : x = BitVec.ofNat 64 x.toNat := (BitVec.setWidth_eq x).symm.trans (setWidth_eq_ofNat x)

/-- Settles O17: a slot reads the registers that it reaches as they stand, a register of a few bits with zeros above it; FFLAGS alone
waits. -/
theorem controlRegisterReads : Obligations.ControlRegisterReads := by
  unfold Obligations.ControlRegisterReads
  intro s d calm
  -- The registers follow in the order of the statement.
  have narrow {n : Nat} (x : BitVec n) := setWidth_eq_ofNat x
  have whole := word_eq_ofNat
  have reads {r : Cr} {v : Nat} (value : s.cr r = BitVec.ofNat 64 v) (reach : privileged r = false := by rfl)
      (ready : s.crReady r = .ok () := by rfl) : SetsX (.crd d r) s d (BitVec.ofNat 64 v) :=
    value ▸ exec_crd_of_ready d calm (.inl reach) ready
  refine ⟨?slot, ?die, fun sup => ?supervisor⟩
  case slot =>
    exact ⟨reads (whole _), reads rfl, reads (narrow _), fun none_out => reads (narrow _) (ready := State.crReady_fflags none_out),
      reads rfl, reads (whole _), reads (whole _), reads (narrow _), reads (whole _), reads (whole _), reads (narrow _),
      reads (narrow _), reads rfl, reads rfl, reads rfl, reads (narrow _)⟩
  case die =>
    exact ⟨reads (narrow _), reads rfl, reads (whole _), reads (narrow _), reads (narrow _),
      fun few => reads (congrArg (BitVec.ofNat 64) (Nat.mod_eq_of_lt few)),
      fun few => reads (congrArg (BitVec.ofNat 64) (Nat.mod_eq_of_lt few)), reads (whole _), reads (whole _)⟩
  case supervisor =>
    have reads {r : Cr} {v : Nat} (value : s.cr r = BitVec.ofNat 64 v) (ready : s.crReady r = .ok () := by rfl) :
        SetsX (.crd d r) s d (BitVec.ofNat 64 v) := value ▸ exec_crd_of_ready d calm (.inr sup) ready
    refine ⟨reads (whole _), reads (whole _), reads (whole _), reads (whole _), reads (whole _), reads (whole _), reads (whole _),
      reads (whole _), reads (whole _), reads (whole _), reads (narrow _), reads (whole _), reads (whole _), reads (whole _),
      reads (narrow _), reads rfl, reads (narrow _), reads (narrow _), reads rfl, fun p => ?port, reads (whole _)⟩
    case port => exact ⟨reads (narrow _), reads (narrow _), reads (narrow _), reads (narrow _), reads (narrow _), reads rfl⟩

/-! ### Writes in the executing slot and its core -/

/-- Bits 23-3 of a log bound (04_registers R79). -/
theorem logBound_eq (n : Nat) : bits n 3 21 * 2 ^ 3 = n % 2 ^ 24 / 8 * 8 := by
  unfold bits; omega
/-- Bits 23-12 of a base (04_registers R79). -/
theorem pageBase_eq (n : Nat) : bits n 12 12 * 2 ^ 12 = n % 2 ^ 24 / 2 ^ 12 * 2 ^ 12 := by
  unfold bits; omega

/-- FRM takes a mode that is not reserved (04_registers R78). -/
theorem State.crw_frm {s : State} (a : XReg) (calm : s.calm) : Goes (.crw a .frm) s (s.me.pc + 4) fun k =>
    if (s.x a).toNat % 8 ≤ 4 then { k with frm := BitVec.ofNat 3 (s.x a).toNat } else k := by
  unfold Goes
  rw [exec_crw_of_ready a (.inl rfl), State.writeCr]
  by_cases mode : (s.x a).toNat % 8 ≤ 4
  · simp only [mode, Nat.lt_succ_of_le mode, if_true]
    exact seq_modMe s _ calm
  · simp only [mode, show ¬ (s.x a).toNat % 8 < 5 by omega, if_false]
    exact ⟨_, rfl, ends_self s _ calm⟩

/-- Of the core's registers, PHBUF may let a withheld write in, and PARTMAP keeps the nibbles of occupied slots. -/
theorem slotAndCoreRegisterWrites : Clauses.SlotAndCoreRegisterWrites := by
  unfold Clauses.SlotAndCoreRegisterWrites
  intro s a calm v slot low core log page
  have on_slot {r : Cr} {f : Slot → Slot} (write : s.writeCr r v = .ok (s.modMe f)) (still_calm : (f s.me).calm := by exact calm)
      (reach : privileged r = false := by rfl) (ready : s.crReady r = .ok () := by rfl) (other : r ≠ .phbuf := by nofun) : slot r f :=
    crw_goes write still_calm reach ready other
  refine ⟨State.crw_frm a calm, fun none_out => on_slot rfl (ready := State.crReady_fflags none_out), on_slot rfl, on_slot rfl,
    on_slot rfl, on_slot rfl, fun sets => on_slot (if_pos sets), fun sup => ?_⟩
  have on_core {r : Cr} {f : Core → Core} (write : s.writeCr r v = .ok (s.modMyCore f))
      (slots : (f s.myCore).slots = s.myCore.slots := by rfl) (ready : s.crReady r = .ok () := by rfl)
      (other : r ≠ .phbuf := by nofun) : core r f := crw_core sup calm write slots ready other
  have on_phbuf {f : Core → Core} (none_withheld : s.withheld = []) (write : s.writeCr .phbuf v = .ok (s.modMyCore f))
      (slots : (f s.myCore).slots = s.myCore.slots := by rfl) : core .phbuf f :=
    seq_modMyCore slots calm (exec_crw_phbuf sup none_withheld write)
  clear_value core
  have log_bits : log = BitVec.ofNat 64 (bits v.toNat 3 21 * 2 ^ 3) := congrArg (BitVec.ofNat 64) (logBound_eq v.toNat).symm
  have page_bits : page = BitVec.ofNat 64 (bits v.toNat 12 12 * 2 ^ 12) := congrArg (BitVec.ofNat 64) (pageBase_eq v.toNat).symm
  rw [log_bits, page_bits, ← pageBase_eq]
  have idle {p : Prop} [Decidable p] {x y : Act State} (h : p) : (if ¬ p then x else y) = y := if_neg fun no => no h
  refine ⟨on_core rfl, on_core rfl, on_core rfl, on_core rfl, on_core rfl, on_core rfl,
    fun empty => ⟨on_core (idle empty), on_core (idle empty)⟩, fun empty => ⟨on_core (idle empty), on_core (idle empty)⟩,
    on_core rfl (slots := ?weight), fun empty none_withheld => on_phbuf none_withheld (idle empty), ?partmap, on_core rfl, on_core rfl,
    on_core rfl⟩
  case weight => split <;> rfl
  case partmap =>
    obtain ⟨bound, nibbles⟩ := s.myCore.writePartmap_nibbles v
    exact ⟨_, bound, nibbles, on_core (s.writeCr_partmap v)⟩

/-! ### A write that clears OPT -/

/-- By the event that the write has to end: none, an open one, or one that it has closed already. -/
theorem optimisticModeWrites : Clauses.OptimisticModeWrites := by
  unfold Clauses.OptimisticModeWrites
  intro s a d calm clears goes final
  refine ⟨fun opt => ?plain, fun opt open_ past => ?closes, fun opt open_ early => ?waits, fun opt closed ended early => ?waits_on,
    fun opt closed settled => ?idle, fun out i hi => ?stalls⟩
  case plain =>
    obtain ⟨t, ran, ends⟩ := crw_ts_goes clears (State.endEvent_plain opt) rfl calm
    exact ⟨t, ran, ends.congr (by dsimp only [id]; rw [← opt])⟩
  case closes => exact crw_ts_goes clears (State.endEvent_final opt open_ past) (State.modMe_modMe ..) calm
  case waits => exact crw_ts_waits clears (State.endEvent_waits opt open_ early) (SlotOnly.modMe s _) (State.me_modMe s _)
  case waits_on => exact crw_ts_waits clears (State.endEvent_waits_on opt closed ended early) (SlotOnly.refl s) rfl
  case idle => exact crw_ts_goes clears (State.endEvent_idle opt closed settled) rfl calm
  case stalls => exact ⟨_, exec_fflags_of_flagsOut out a d hi, SlotOnly.modMe s _, State.me_modMe s _⟩

/-! ### Writes in the die and in a link port -/

/-- No core changes but by the end of the instruction; CLKL alone changes anything beside its register. -/
theorem dieRegisterWrites : Clauses.DieRegisterWrites := by
  unfold Clauses.DieRegisterWrites
  intro s a calm sup v moved die
  have on_die {r : Cr} {f : Die → Die} (write : s.writeCr r v = .ok (s.modMyDie f)) (ready : s.crReady r = .ok () := by rfl)
      (other : r ≠ .phbuf := by nofun) : die r f := crw_die sup calm write ready other
  clear_value die
  refine ⟨?clkl, on_die rfl, fun idle => on_die ?xinv, fun p => ?lkth⟩
  case clkl =>
    obtain ⟨rest, dies⟩ := s.writeClkl_dies v
    obtain ⟨t, ran, moves, whole⟩ := crw_moved (r := .clkl) (u := s.writeClkl v) sup calm rfl (by rw [rest]) (by rw [rest]) (by rw [rest])
    refine ⟨t, ran, moves, fun d hd => ?_⟩
    have same : t.die d = (s.writeClkl v).die d := by rw [whole]; rfl
    rw [same, dies d hd, BitVec.ofNat_toNat]
  case xinv =>
    exact (if_neg (by rw [idle]; nofun)).trans (congrArg (fun f => Except.ok (s.modMyDie f)) (funext fun k => k.writeXinv_eq v))
  case lkth =>
    obtain ⟨t, ran, moves, whole⟩ := crw_moved (a := a) (r := .lkth p) sup calm rfl
    have same : ∀ q, t.port q = (s.modPort p.val fun k => { k with lkth := v.setWidth 48 }).port q := fun q => by rw [whole]; rfl
    refine ⟨t, ran, moves, by rw [whole]; rfl, ?_, fun q hq => ?_⟩
    · rw [same, State.port_modPort_self, BitVec.ofNat_toNat]
    · rw [same, State.port_modPort_ne _ _ hq]

/-- Settles O18, by the register that is written. -/
theorem controlRegisterWrites : Obligations.ControlRegisterWrites := by
  unfold Obligations.ControlRegisterWrites
  exact ⟨slotAndCoreRegisterWrites, optimisticModeWrites, dieRegisterWrites⟩

/-! ### Right after reset -/

/-- Of the slots of a core after reset, slot 15 is the supervisor's and the others hold no thread (08_slots R133). -/
theorem Core.reset_slot (i : SlotId) : Core.reset.slots[i.val] = if i.val = 15 then Slot.supervisor else Slot.empty := by
  simp [Core.reset, Vector.getElem_set, eq_comm]

/-- Settles O58: what no table lists is as after reset, and there each register holds the value of its row; of the slots, slot 15
differs in its state and its PC alone. -/
theorem resetState : Obligations.ResetState := by
  unfold Obligations.ResetState
  refine ⟨fun q => rfl, fun c i => ?_, fun d => ?_, fun p => ?_, fun i => ⟨rfl, rfl⟩, fun p => ?_, fun r => ?_⟩
  · have core : State.reset.core c.val = Core.reset := rfl
    dsimp only
    rw [core, Core.reset_slot]
    by_cases supervisor : i.val = 15
    · simp only [supervisor, if_true]
      and_intros <;> rfl
    · simp only [supervisor, if_false]
      and_intros <;> rfl
  all_goals and_intros <;> rfl

end Sys2Proof.Machine
end

section
/-! SUPPORT. The word operations of the scalar instructions as arithmetic on the numbers that words spell, and bit by bit
(05_numbers R84, 06_scalar R103-R109). -/

namespace Sys2Proof.Machine

/-! ### Sums, products, quotients -/

/-- The word of a signed number is settled by that number modulo 2^64. -/
theorem eq_ofInt_of_toInt {x : Word} {z : Int} (h : x.toInt = z.bmod (2 ^ 64)) : x = BitVec.ofInt 64 z :=
  BitVec.eq_of_toInt_eq (h.trans (BitVec.toInt_ofInt z).symm)

theorem sub_eq_ofInt (a b : Word) : a - b = BitVec.ofInt 64 (a.toInt - b.toInt) := eq_ofInt_of_toInt BitVec.toInt_sub

theorem mul_eq_ofNat (a b : Word) : a * b = BitVec.ofNat 64 (a.toNat * b.toNat) := by
  rw [BitVec.ofNat_mul, BitVec.ofNat_toNat, BitVec.ofNat_toNat, BitVec.setWidth_eq, BitVec.setWidth_eq]

/-- Bits 127-64 of a signed product are its floor quotient by 2^64 (06_scalar R103). -/
theorem mulHighS_eq (a b : Word) : mulHighS a b = BitVec.ofInt 64 (a.toInt * b.toInt / 2 ^ 64) := by
  have product : a.signExtend 128 * b.signExtend 128 = BitVec.ofInt 128 (a.toInt * b.toInt) := (BitVec.ofInt_mul ..).symm
  rw [mulHighS, product]
  generalize a.toInt * b.toInt = p
  apply BitVec.eq_of_toNat_eq
  rw [BitVec.extractLsb'_toNat, BitVec.toNat_ofInt, BitVec.toNat_ofInt, Nat.shiftRight_eq_div_pow]
  omega

/-- Bits 127-64 of an unsigned product are its quotient by 2^64 (06_scalar R103). -/
theorem mulHighN_eq (a b : Word) : mulHighN a b = BitVec.ofNat 64 (a.toNat * b.toNat / 2 ^ 64) := by
  apply BitVec.eq_of_toNat_eq
  have whole : a.toNat * b.toNat < 2 ^ 64 * 2 ^ 64 := Nat.mul_lt_mul'' a.isLt b.isLt
  have left : a.toNat % 2 ^ 128 = a.toNat := Nat.mod_eq_of_lt (Nat.lt_trans a.isLt (by decide))
  have right : b.toNat % 2 ^ 128 = b.toNat := Nat.mod_eq_of_lt (Nat.lt_trans b.isLt (by decide))
  rw [mulHighN, BitVec.extractLsb'_toNat, BitVec.toNat_mul, BitVec.toNat_setWidth, BitVec.toNat_setWidth, left, right,
    Nat.mod_eq_of_lt (Nat.lt_of_lt_of_eq whole (by decide)), BitVec.toNat_ofNat, Nat.shiftRight_eq_div_pow]

theorem quotS_eq (a b : Word) : quotS a b = if b = 0 then BitVec.allOnes 64 else BitVec.ofInt 64 (a.toInt.tdiv b.toInt) := by
  rw [quotS, eq_ofInt_of_toInt (BitVec.toInt_sdiv a b)]

theorem remS_eq (a b : Word) : remS a b = if b = 0 then a else BitVec.ofInt 64 (a.toInt.tmod b.toInt) := by
  rw [remS, ← BitVec.toInt_srem, BitVec.ofInt_toInt]

theorem quotN_eq (a b : Word) : quotN a b = if b = 0 then BitVec.allOnes 64 else BitVec.ofNat 64 (a.toNat / b.toNat) := by
  rw [quotN, BitVec.udiv_def]

theorem remN_eq (a b : Word) : remN a b = if b = 0 then a else BitVec.ofNat 64 (a.toNat % b.toNat) := by
  rw [remN, BitVec.umod_def]

/-! ### Shifts and rotates -/

theorem shiftLeft_eq_ofNat (a : Word) (n : Nat) : a <<< n = BitVec.ofNat 64 (a.toNat * 2 ^ n) :=
  BitVec.eq_of_toNat_eq (by rw [BitVec.toNat_shiftLeft, BitVec.toNat_ofNat, Nat.shiftLeft_eq])

theorem ushiftRight_eq_ofNat (a : Word) (n : Nat) : a >>> n = BitVec.ofNat 64 (a.toNat / 2 ^ n) := by
  rw [word_eq_ofNat (a >>> n), BitVec.toNat_ushiftRight, Nat.shiftRight_eq_div_pow]

theorem sshiftRight_eq_ofInt (a : Word) (n : Nat) : a.sshiftRight n = BitVec.ofInt 64 (a.toInt / 2 ^ n) := by
  rw [BitVec.sshiftRight_eq, Int.shiftRight_eq_div_pow, Int.natCast_pow]; rfl

/-- A sum with a multiple of the second operand, as `lea2`, `lea4` and `lea8` form it (06_scalar R103). -/
theorem add_shiftLeft_eq (a b : Word) (n : Nat) : a + b <<< n = BitVec.ofNat 64 (a.toNat + 2 ^ n * b.toNat) := by
  rw [shiftLeft_eq_ofNat, BitVec.ofNat_add, BitVec.ofNat_toNat, BitVec.setWidth_eq, Nat.mul_comm]

/-- Bit i of a rotated word stands n bits further up, round the end (05_numbers R84). -/
theorem rotateLeft_getLsbD (a : Word) {n i : Nat} (hn : n < 64) (hi : i < 64) : (a.rotateLeft n).getLsbD ((i + n) % 64) = a.getLsbD i := by
  rw [BitVec.getLsbD_rotateLeft, Nat.mod_eq_of_lt hn]
  by_cases wraps : i + n < 64
  · have above : ¬ (i + n) % 64 < n := by omega
    have back : (i + n) % 64 - n = i := by omega
    simp [above, back, Nat.mod_lt]
  · have below : (i + n) % 64 < n := by omega
    have back : 64 - n + (i + n) % 64 = i := by omega
    simp [below, back]

/-! ### Sign extension -/

/-- The low `m` bits, sign-extended, are the number's residue nearest 0 (06_scalar R106). -/
theorem signExtend_setWidth (a : Word) {m : Nat} (hm : m ≤ 64) : (a.setWidth m).signExtend 64 = BitVec.ofInt 64 (a.toInt.bmod (2 ^ m)) := by
  rw [BitVec.signExtend, BitVec.toInt_setWidth, BitVec.toInt_eq_toNat_bmod, Int.bmod_bmod_of_dvd (Nat.pow_dvd_pow 2 hm)]

theorem setWidth_setWidth_eq (a : Word) (m : Nat) : (a.setWidth m).setWidth 64 = BitVec.ofNat 64 (a.toNat % 2 ^ m) :=
  (setWidth_eq_ofNat _).trans (by rw [BitVec.toNat_setWidth])

/-- The low 32 bits of a sum, sign-extended (06_scalar R103). -/
theorem addw_eq (a b : Word) : ((a + b).setWidth 32).signExtend 64 = BitVec.ofInt 64 ((a.toInt + b.toInt).bmod (2 ^ 32)) := by
  rw [signExtend_setWidth _ (by decide), BitVec.toInt_add, Int.bmod_bmod_of_dvd (by decide)]

theorem add_signExtend_eq {m : Nat} (a : Word) (i : BitVec m) : a + i.signExtend 64 = BitVec.ofInt 64 (a.toInt + i.toInt) := by
  rw [BitVec.signExtend, BitVec.ofInt_add, BitVec.ofInt_toInt]

/-- The immediate of `lui` in its place (06_scalar R105). -/
theorem signExtend_shiftLeft_18 (i : BitVec 18) : i.signExtend 64 <<< 18 = BitVec.ofInt 64 (i.toInt * 2 ^ 18) := by
  rw [BitVec.ofInt_mul, BitVec.shiftLeft_eq_mul_twoPow, BitVec.signExtend]; rfl

/-! ### Conditions -/

section
variable {w : Nat} (a b : BitVec w)

theorem IntCond.eq_holds : IntCond.eq.holds a b = decide (a = b) := rfl
theorem IntCond.ne_holds : IntCond.ne.holds a b = decide (a ≠ b) := by
  rw [decide_not, ← IntCond.eq_holds]; rfl
theorem IntCond.lt_holds : IntCond.lt.holds a b = decide (a.toInt < b.toInt) := BitVec.slt_eq_decide
theorem IntCond.ge_holds : IntCond.ge.holds a b = decide (b.toInt ≤ a.toInt) := by
  simp [IntCond.holds, BitVec.slt_eq_decide, ← decide_not]
theorem IntCond.ltn_holds : IntCond.ltn.holds a b = decide (a.toNat < b.toNat) := BitVec.ult_eq_decide
theorem IntCond.gen_holds : IntCond.gen.holds a b = decide (b.toNat ≤ a.toNat) := by
  simp [IntCond.holds, BitVec.ult_eq_decide, ← decide_not]

end

/-- The choice that `min` and `max` make (06_scalar R103). -/
theorem ite_slt (a b x y : Word) : (if a.slt b then x else y) = if a.toInt < b.toInt then x else y := by
  simp only [BitVec.slt_iff_toInt_lt]
/-- The choice that `minn` and `maxn` make (06_scalar R103). -/
theorem ite_ult (a b x y : Word) : (if a.ult b then x else y) = if a.toNat < b.toNat then x else y := by
  simp only [BitVec.ult_iff_toNat_lt]

/-! ### Counts of bits -/

/-- Where no bit from the `n`th up is set, the search from there down finds the highest one (06_scalar R106). -/
theorem clzFrom_eq (a : Word) {n : Nat} (below : a.toNat < 2 ^ n) : clzFrom a n = if a = 0 then 64 else 63 - a.toNat.log2 := by
  induction n with
  | zero =>
    have zero : a = 0 := BitVec.eq_of_toNat_eq (Nat.lt_one_iff.mp below)
    rw [clzFrom, if_pos zero]
  | succ n ih =>
    rw [clzFrom]
    by_cases set : a.getLsbD n = true
    · have above : 2 ^ n ≤ a.toNat := Nat.ge_two_pow_of_testBit set
      have pos : a.toNat ≠ 0 := Nat.ne_of_gt (Nat.lt_of_lt_of_le (Nat.two_pow_pos n) above)
      have nonzero : a ≠ 0 := fun zero => pos (by rw [zero]; rfl)
      rw [if_pos set, if_neg nonzero, (Nat.log2_eq_iff pos).mpr ⟨above, below⟩]
    · have lower : a.toNat < 2 ^ n :=
        Nat.lt_of_not_le fun high => set (Nat.testBit_of_two_pow_le_and_two_pow_add_one_gt high below)
      rw [if_neg set, ih lower]

/-- The search from bit `i` up stops at the first bit that is set (06_scalar R106). -/
theorem ctzFrom_eq_of_first (a : Word) {k i n : Nat} (low : i ≤ n) (high : n < i + k) (set : a.getLsbD n = true)
    (first : ∀ j < n, a.getLsbD j = false) : ctzFrom a k i = n := by
  induction k generalizing i with
  | zero => omega
  | succ k ih =>
    rw [ctzFrom]
    rcases Nat.eq_or_lt_of_le low with rfl | later
    · rw [if_pos set]
    · rw [if_neg (by rw [first i later]; decide), ih later (by omega)]

theorem ctzFrom_zero (k i : Nat) : ctzFrom 0 k i = i + k := by
  induction k generalizing i with
  | zero => rfl
  | succ k ih => rw [ctzFrom, if_neg (by simp), ih, Nat.add_assoc, Nat.add_comm 1]

theorem popFrom_eq_countP (a : Word) (n : Nat) : popFrom a n = (List.range n).countP fun i => a.getLsbD i := by
  induction n with
  | zero => rfl
  | succ n ih =>
    have last : (a.getLsbD n).toNat = [n].countP fun i => a.getLsbD i := by
      rw [List.countP_singleton]; cases a.getLsbD n <;> rfl
    rw [popFrom, ih, last, List.range_succ, List.countP_append, Nat.add_comm]

/-! ### Bytes -/

theorem toBytes_getElem (n v : Nat) {i : Nat} (hi : i < (toBytes n v).length) : (toBytes n v)[i] = BitVec.ofNat 8 (v / 256 ^ i) := by
  induction n generalizing v i with
  | zero => exact absurd hi (Nat.not_lt_zero i)
  | succ n ih =>
    cases i with
    | zero => simp [toBytes]
    | succ i =>
      simp only [toBytes, List.getElem_cons_succ, ih, Nat.div_div_eq_div_mul, Nat.pow_succ']

theorem ofBytes_lt (l : List Byte) : ofBytes l < 256 ^ l.length := by
  induction l with
  | nil => exact Nat.one_pos
  | cons b l ih =>
    have head := b.isLt
    rw [ofBytes, List.length_cons, Nat.pow_succ]
    omega

theorem ofBytes_byte {l : List Byte} {i : Nat} (hi : i < l.length) : ofBytes l / 256 ^ i % 256 = l[i].toNat := by
  induction l generalizing i with
  | nil => exact absurd hi (Nat.not_lt_zero i)
  | cons b l ih =>
    have head := b.isLt
    cases i with
    | zero => rw [ofBytes, Nat.pow_zero, Nat.div_one, List.getElem_cons_zero]; omega
    | succ i =>
      have shifted : (b.toNat + 256 * ofBytes l) / 256 = ofBytes l := by omega
      rw [ofBytes, Nat.pow_succ', ← Nat.div_div_eq_div_mul, shifted, List.getElem_cons_succ]
      exact ih (Nat.lt_of_succ_lt_succ hi)

/-- Byte i of the reversed word is byte 7 − i of the word (06_scalar R106). -/
theorem bswap_byte (a : Word) {i : Nat} (hi : i < 8) :
    (BitVec.ofNat 64 (ofBytes (toBytes 8 a.toNat).reverse)).extractLsb' (8 * i) 8 = a.extractLsb' (8 * (7 - i)) 8 := by
  have length : (toBytes 8 a.toNat).reverse.length = 8 := by rw [List.length_reverse, toBytes_length]
  have fits := ofBytes_lt (toBytes 8 a.toNat).reverse
  have byte := ofBytes_byte (Nat.lt_of_lt_of_eq hi length.symm)
  have from_top : (toBytes 8 a.toNat).length - 1 - i = 7 - i := by rw [toBytes_length]
  rw [List.getElem_reverse, toBytes_getElem, from_top, BitVec.toNat_ofNat] at byte
  rw [length] at fits
  apply BitVec.eq_of_toNat_eq
  rw [BitVec.extractLsb'_toNat, BitVec.extractLsb'_toNat, BitVec.toNat_ofNat, Nat.mod_eq_of_lt (Nat.lt_of_lt_of_eq fits (by decide)),
    Nat.shiftRight_eq_div_pow, Nat.shiftRight_eq_div_pow, Nat.pow_mul, Nat.pow_mul]
  exact byte

/-! ### Bit fields -/

section
variable {v : Word} {pos w : Nat} (place : v.toNat % 64 = pos) (width : v.toNat / 2 ^ 8 % 64 + 1 = w)
include place width

/-- A field's mask holds the bits of the field that lie within the word (06_scalar R107). -/
theorem fieldMask_getLsbD (i : Nat) : (fieldMask v).getLsbD i = (decide (i < 64) && decide (pos ≤ i ∧ i < pos + w)) := by
  have width' : bits v.toNat 8 6 + 1 = w := width
  have shape : (decide (pos ≤ i) && decide (i - pos < w)) = decide (pos ≤ i ∧ i < pos + w) := by
    rw [← Bool.decide_and, decide_eq_decide]; omega
  rw [fieldMask, width', place, BitVec.getLsbD_ofNat, Nat.testBit_mul_two_pow, Nat.testBit_two_pow_sub_one, shape]

theorem fieldOf_getLsbD (a : Word) (i : Nat) : (fieldOf a v).getLsbD i = (decide (i < w) && a.getLsbD (pos + i)) := by
  rw [fieldOf, amount, place, BitVec.getLsbD_ushiftRight, BitVec.getLsbD_and, fieldMask_getLsbD place width]
  by_cases inside : pos + i < 64
  · simp [inside, Bool.and_comm]
  · simp [BitVec.getLsbD_of_ge a _ (Nat.le_of_not_lt inside)]

theorem fieldInto_getLsbD (old a : Word) {i : Nat} (hi : i < 64) : (fieldInto old a v).getLsbD i =
    if pos ≤ i ∧ i < pos + w then a.getLsbD (i - pos) else old.getLsbD i := by
  rw [fieldInto, amount, place, BitVec.getLsbD_or, BitVec.getLsbD_and, BitVec.getLsbD_and, BitVec.getLsbD_not, BitVec.getLsbD_shiftLeft,
    fieldMask_getLsbD place width]
  split
  case isTrue field => simp [hi, field, Nat.not_lt.mpr field.1]
  case isFalse outside => simp only [hi, decide_eq_false outside, decide_true, Bool.not_false, Bool.and_true, Bool.and_false, Bool.or_false]

end

end Sys2Proof.Machine
end

section
/-! SUPPORT. When a scalar instruction writes its register, and where a branch goes (06_scalar R100-R113). -/

namespace Sys2Proof.Machine

/-! ### Writes of one register -/

section
variable {s : State} {i : Instr} (calm : s.calm)
include calm

/-- An instruction whose effect is a write of X[d] sets it, where its operand stops nothing (06_scalar R100). -/
theorem setsX_of_writeX {d : XReg} {r : Act Word} {v : Word} (run : exec i s = writeX s d r) (value : r = .ok v) : SetsX i s d v := by
  unfold SetsX
  rw [run, value]
  exact seq_setX s d v calm

/-- An instruction of one operand sets X[d] to its function of it (06_scalar R106). -/
theorem setsX_of_unary {d a : XReg} {r : Word} (f : Word → Word) (run : exec i s = unary s d a f) (value : f (s.x a) = r) :
    SetsX i s d r :=
  setsX_of_writeX calm run (congrArg Except.ok value)

/-- An ALU instruction sets X[d] to its function of X[a] and operand b (06_scalar R103). -/
theorem setsX_of_alu {d a : XReg} {b : OpB} {v r : Word} (operand : s.opB b = .ok v) (f : Word → Word → Word)
    (run : exec i s = alu s d a b f) (value : f (s.x a) v = r) : SetsX i s d r :=
  setsX_of_writeX calm run (by rw [operand, ← value]; rfl)

/-- An instruction whose effect is a write of p`p` sets it (06_scalar R108). -/
theorem setsP_of_writeP {p : PReg} {r : Act Bool} {v : Bool} (run : exec i s = writeP s p r) (value : r = .ok v) : SetsP i s p v := by
  unfold SetsP
  rw [run, value]
  exact seq_setP s p v calm

/-- A compare sets p`p` to its test of X[a] and operand b (06_scalar R108). -/
theorem setsP_of_test {p : PReg} {a : XReg} {b : OpB} {v : Word} {r : Bool} (operand : s.opB b = .ok v)
    (f : Word → Word → Bool) (run : exec i s = test s p a b f) (value : f (s.x a) v = r) : SetsP i s p r :=
  setsP_of_writeP calm run (by rw [operand, ← value]; rfl)

end

/-! ### Branches -/

section
variable {s : State} {i : Instr}

/-- A branch that leaves the slot's registers (06_scalar R112). -/
theorem goes_of_jump {next : Word} (calm : s.calm) (run : exec i s = jump s (.ok (s, next))) : Goes i s next id := by
  unfold Goes
  exact ⟨_, run, ends_self s next calm⟩

/-- A branch that writes a register (06_scalar R112). -/
theorem goes_of_jump_setX {r : XReg} {v next : Word} (calm : s.calm) (run : exec i s = jump s (.ok (s.setX r v, next))) :
    Goes i s next (·.setX r v) := by
  unfold Goes
  exact ⟨_, run, ends_modMe s _ next (Slot.calm_setX calm r v)⟩

/-- A jump through a register to an aligned target goes there (06_scalar R113). -/
theorem exec_jump_of_aligned {t : Word} {f : Word → State × Word} (aligned : t.toNat % 4 = 0)
    (run : exec i s = jump s ((jumpTarget t).map f)) : exec i s = jump s (.ok (f t)) := by
  have goes : jumpTarget t = .ok t := by rw [jumpTarget, decide_eq_true aligned]; rfl
  rw [run, goes]
  rfl

/-- A jump through a register to a misaligned target traps ALIGN, before it writes (06_scalar R113). -/
theorem exec_jump_of_misaligned {t : Word} {f : Word → State × Word} (misaligned : t.toNat % 4 ≠ 0)
    (run : exec i s = jump s ((jumpTarget t).map f)) : exec i s = .next (s.takeTrap s.cur .align 0 t) := by
  have traps : jumpTarget t = trap .align t := by rw [jumpTarget, decide_eq_false misaligned]; rfl
  rw [run, traps]
  rfl

/-- The target of a displacement, as signed numbers (02_encoding R38). -/
theorem State.target_eq (s : State) {m : Nat} (im : BitVec m) : s.target im = BitVec.ofInt 64 (s.me.pc.toInt + 4 + 4 * im.toInt) := by
  rw [BitVec.ofInt_add, BitVec.ofInt_add, BitVec.ofInt_mul, BitVec.ofInt_toInt]; rfl

/-- The test of format B: the predicate, or its negation (02_encoding R38). -/
theorem State.testB_eq (s : State) (p : PReg) (n : Bool) : s.testB p n = if n then !s.pred p else s.pred p := by
  rw [State.testB]
  cases n <;> cases s.pred p <;> rfl

end

end Sys2Proof.Machine
end

section
/-! PROOF. The results of the scalar, predicate and selection instructions and of the branches (06_scalar R103-R113). -/

namespace Sys2Proof.Machine

/-! ### Arithmetic, bit fields, immediates -/

/-- Settles O1, operation by operation: each is an ALU instruction, and its function is the table's. -/
theorem arithmeticResults : Obligations.ArithmeticResults := by
  unfold Obligations.ArithmeticResults
  intro s d a b v calm operand x n
  have sets {i r} (f) (run : exec i s = alu s d a b f) (value : f x v = r) : SetsX i s d r := setsX_of_alu calm operand f run value
  exact ⟨sets (· + ·) rfl (BitVec.add_def x v),
    sets (· - ·) rfl (sub_eq_ofInt x v),
    sets (· * ·) rfl (mul_eq_ofNat x v),
    sets mulHighS rfl (mulHighS_eq x v),
    sets mulHighN rfl (mulHighN_eq x v),
    sets quotS rfl (quotS_eq x v),
    sets quotN rfl (quotN_eq x v),
    sets remS rfl (remS_eq x v),
    sets remN rfl (remN_eq x v),
    sets (· &&& ·) rfl rfl,
    sets (· ||| ·) rfl rfl,
    sets (· ^^^ ·) rfl rfl,
    sets (· &&& ~~~·) rfl rfl,
    sets (· <<< amount ·) rfl (shiftLeft_eq_ofNat x n),
    sets (· >>> amount ·) rfl (ushiftRight_eq_ofNat x n),
    sets (fun x v => x.sshiftRight (amount v)) rfl (sshiftRight_eq_ofInt x n),
    ⟨_, sets (fun x v => x.rotateLeft (amount v)) rfl rfl, fun _ => rotateLeft_getLsbD x (Nat.mod_lt _ (by decide))⟩,
    sets (fun x v => if x.slt v then x else v) rfl (ite_slt x v x v),
    sets (fun x v => if x.slt v then v else x) rfl (ite_slt x v v x),
    sets (fun x v => if x.ult v then x else v) rfl (ite_ult x v x v),
    sets (fun x v => if x.ult v then v else x) rfl (ite_ult x v v x),
    sets (fun x v => x + v <<< 1) rfl (add_shiftLeft_eq x v 1),
    sets (fun x v => x + v <<< 2) rfl (add_shiftLeft_eq x v 2),
    sets (fun x v => x + v <<< 3) rfl (add_shiftLeft_eq x v 3),
    sets (fun x v => ((x + v).setWidth 32).signExtend 64) rfl (addw_eq x v)⟩

/-- Settles O2: the mask of a field names its bits within the word. -/
theorem bitFieldResults : Obligations.BitFieldResults := by
  unfold Obligations.BitFieldResults
  intro s d a b v calm operand pos w
  exact ⟨⟨_, setsX_of_alu calm operand fieldOf rfl rfl, fun i _ => fieldOf_getLsbD rfl rfl (s.x a) i⟩,
    ⟨_, setsX_of_alu calm operand (fieldInto (s.x d)) rfl rfl, fun _ => fieldInto_getLsbD rfl rfl (s.x d) (s.x a)⟩⟩

theorem unaryResults : Clauses.UnaryResults := by
  unfold Clauses.UnaryResults
  intro s d a calm x
  have sets {i r} (f) (run : exec i s = unary s d a f) (value : f x = r) : SetsX i s d r := setsX_of_unary calm f run value
  exact ⟨sets (fun x => .ofNat 64 (clzFrom x 64)) rfl (congrArg _ (clzFrom_eq x x.isLt)),
    fun zero => sets (fun x => .ofNat 64 (ctzFrom x 64 0)) rfl (by rw [zero, ctzFrom_zero]; rfl),
    fun n hn set first => sets (fun x => .ofNat 64 (ctzFrom x 64 0)) rfl
      (congrArg _ (ctzFrom_eq_of_first x n.zero_le (Nat.lt_of_lt_of_eq hn (Nat.zero_add 64).symm) set first)),
    sets (fun x => .ofNat 64 (popFrom x 64)) rfl (congrArg _ (popFrom_eq_countP x 64)),
    ⟨_, sets (fun x => .ofNat 64 (ofBytes (toBytes 8 x.toNat).reverse)) rfl rfl, fun _ => bswap_byte x⟩,
    sets (fun x => (x.setWidth 8).signExtend 64) rfl (signExtend_setWidth x (by decide)),
    sets (fun x => (x.setWidth 16).signExtend 64) rfl (signExtend_setWidth x (by decide)),
    sets (fun x => (x.setWidth 32).signExtend 64) rfl (signExtend_setWidth x (by decide)),
    sets (fun x => (x.setWidth 8).setWidth 64) rfl (setWidth_setWidth_eq x 8),
    sets (fun x => (x.setWidth 16).setWidth 64) rfl (setWidth_setWidth_eq x 16),
    sets (fun x => (x.setWidth 32).setWidth 64) rfl (setWidth_setWidth_eq x 32),
    sets (fun x => x) rfl rfl⟩

theorem immediateResults : Clauses.ImmediateResults := by
  unfold Clauses.ImmediateResults
  intro s d a im n calm x b
  have sets {i r} (f) (run : exec i s = unary s d a f) (value : f x = r) : SetsX i s d r := setsX_of_unary calm f run value
  exact ⟨sets (· + im.signExtend 64) rfl (add_signExtend_eq x im),
    sets (· &&& b) rfl rfl,
    sets (· ||| b) rfl rfl,
    sets (· ^^^ b) rfl rfl,
    sets (· <<< n.val) rfl (shiftLeft_eq_ofNat x n),
    sets (· >>> n.val) rfl (ushiftRight_eq_ofNat x n),
    sets (·.sshiftRight n.val) rfl (sshiftRight_eq_ofInt x n),
    ⟨_, sets (·.rotateLeft n.val) rfl rfl, fun _ => rotateLeft_getLsbD x n.isLt⟩,
    setsX_of_writeX calm rfl (congrArg Except.ok (signExtend_shiftLeft_18 im)),
    fun k v constant => setsX_of_writeX calm rfl constant⟩

/-- Settles O4: each operation is a function of X[a] and, in the immediate forms, of its immediate. -/
theorem unaryAndImmediateResults : Obligations.UnaryAndImmediateResults := by
  unfold Obligations.UnaryAndImmediateResults
  exact ⟨unaryResults, immediateResults⟩

/-! ### Compares, predicates, selection -/

theorem compareResults : Clauses.CompareResults := by
  unfold Clauses.CompareResults
  intro s p a calm x
  refine ⟨fun b v operand => ?_, fun im => ?_⟩
  · have sets {i r} (f) (run : exec i s = test s p a b f) (value : f x v = r) : SetsP i s p r := setsP_of_test calm operand f run value
    exact ⟨sets IntCond.eq.holds rfl (IntCond.eq_holds x v), sets IntCond.ne.holds rfl (IntCond.ne_holds x v),
      sets IntCond.lt.holds rfl (IntCond.lt_holds x v), sets IntCond.ge.holds rfl (IntCond.ge_holds x v),
      sets IntCond.ltn.holds rfl (IntCond.ltn_holds x v), sets IntCond.gen.holds rfl (IntCond.gen_holds x v),
      sets (fun x v => x &&& v == 0) rfl (IntCond.eq_holds (x &&& v) 0), sets (fun x v => x &&& v != 0) rfl (IntCond.ne_holds (x &&& v) 0)⟩
  · intro v
    have sets {i r} (c : IntCond) (run : exec i s = writeP s p (.ok (c.holds x v))) (value : c.holds x v = r) : SetsP i s p r :=
      setsP_of_writeP calm run (congrArg Except.ok value)
    have number : v.toInt = im.toInt := BitVec.toInt_signExtend_of_le (by decide)
    exact ⟨sets .eq rfl (IntCond.eq_holds x v), sets .ne rfl (IntCond.ne_holds x v), sets .lt rfl (number ▸ IntCond.lt_holds x v),
      sets .ge rfl (number ▸ IntCond.ge_holds x v), sets .ltn rfl (IntCond.ltn_holds x v), sets .gen rfl (IntCond.gen_holds x v)⟩

theorem predicateResults : Clauses.PredicateResults := by
  unfold Clauses.PredicateResults
  intro s calm
  refine ⟨rfl, Slot.setP_zero, fun p a b d x y => ?_⟩
  have sets {i v} (run : exec i s = writeP s p (.ok v)) : SetsP i s p v := setsP_of_writeP calm run rfl
  exact ⟨sets rfl, sets rfl, sets rfl, sets rfl, sets rfl, sets rfl,
    fun holds => setsX_of_writeX calm rfl (congrArg Except.ok (if_pos holds)),
    fun fails => setsX_of_writeX calm rfl (congrArg Except.ok (if_neg (Bool.eq_false_iff.mp fails)))⟩

/-- Settles O5: a compare is one of the six conditions on words, and a predicate operation writes its function. -/
theorem compareAndPredicateResults : Obligations.CompareAndPredicateResults := by
  unfold Obligations.CompareAndPredicateResults
  exact ⟨compareResults, predicateResults⟩

/-! ### Branches -/

/-- Settles O3, branch by branch: a displacement is added as a signed number, and a jump through a register goes on where its target is
aligned. -/
theorem branchResults : Obligations.BranchResults := by
  unfold Obligations.BranchResults
  intro s p n a im calm target on
  have target_eq : s.target im = target := s.target_eq im
  have on_eq : s.testB p n = on := s.testB_eq p n
  have counted : s.x a - 1 ≠ 0 ↔ s.x a ≠ 1 := not_congr BitVec.sub_eq_iff_eq_add
  refine ⟨goes_of_jump calm ?br, goes_of_jump_setX calm ?bdec, goes_of_jump_setX calm ?call, fun aligned => ?jumps,
    fun aligned => goes_of_jump calm (exec_jump_of_aligned aligned rfl), fun misaligned => ?traps,
    fun misaligned => exec_jump_of_misaligned misaligned rfl⟩
  case br => rw [← target_eq, ← on_eq]; rfl
  case bdec => simp only [← target_eq, ← on_eq, ← counted]; rfl
  case call => rw [← target_eq]; rfl
  case jumps => exact ⟨goes_of_jump calm (exec_jump_of_aligned aligned rfl), goes_of_jump_setX calm (exec_jump_of_aligned aligned rfl)⟩
  case traps => exact ⟨exec_jump_of_misaligned misaligned rfl, exec_jump_of_misaligned misaligned rfl⟩

end Sys2Proof.Machine
end
